-- ==== Sys2Proof/Word.lean ====
section
/-! DEFINITION. The numbers and words of the Pagora CL320: the 16-bit words of the bus and the modem highway,
the 8-bit line codes and image bytes, the 32-bit keys and times, and the small index ranges (00_scope.md, Table 0-3). -/

namespace Sys2Proof

/-- A 16-bit word: a bus word (R160), a modem sample as it stands in its slot (R2), a tap word's data (R104). -/
abbrev Word := BitVec 16

/-- An 8-bit value: a line code (R1) or a byte of the boot image (R192). -/
abbrev Byte := BitVec 8

/-- A 32-bit line key (00_scope.md section 6). -/
abbrev Key := BitVec 32

/-- A value of the 32-bit millisecond timebase (R187). -/
abbrev Time := BitVec 32

/-- A channel number, 0–31. -/
abbrev Chan := Fin 32

/-- A line timeslot number, 0–31 (R1). -/
abbrev Slot := Fin 32

/-- A controller number, 0–3. -/
abbrev Ctl := Fin 4

/-- A tag, 0–15 (00_scope.md section 6). -/
abbrev Tag := Fin 16

/-- A segment number of the tap store, 0–255 (R100). -/
abbrev Seg := Fin 256

/-- A page number of the history store, 0–255 (R100). -/
abbrev Page := Fin 256

/-- The number of a profile record, 0–63 (R121); the spec numbers keys, not records. -/
abbrev Rec := Fin 64

end Sys2Proof
end

