-- ==== Sys2Proof/Syntax.lean ====
section
/-! DEFINITION. The commands of the CL320: one constructor for each row of spec/opcode_table.json. The rows are the
part's steps, each whole and indivisible (95_what_each_step_holds.md). A step that the outside world brings
carries what the outside world brings with it (a pulse's spacing, a code, a word on the request lane). A step
that takes a request carries nothing: the request's record stands in the request queue (R166). -/

namespace Sys2Proof

/-- The two highways (R1, R2). -/
inductive Highway where
  | line
  | modem
deriving DecidableEq, Repr

/-- One command of the block: one row of spec/opcode_table.json each. -/
inductive Instr where
  /-- POWER_ON (R194): RESET rises. -/
  | powerOn
  /-- RESET_ASSERTED (R187): RESET is held low. -/
  | resetAsserted
  /-- TIMEBASE_TICK (R187): the 8192nd REFCLK cycle. -/
  | timebaseTick
  /-- BOOT_LOAD_END (R193): which of the four address-phase bytes went unacknowledged, if any, and the image
  bytes the device returned, from memory address 0 upward (R191). -/
  | bootLoadEnd (nack : Option (Fin 4)) (image : List Byte)
  /-- FRAME_SYNC_PULSE (R3, R4): a pulse, with the number of bit clocks since the previous pulse (section 1.2). -/
  | frameSyncPulse (h : Highway) (spacing : Nat)
  /-- MISSING_SYNC (R4): the nominal frame length has elapsed and no pulse is present. -/
  | missingSync (h : Highway)
  /-- CLOCK_STOPPED (R4): two milliseconds without a pulse in sync. -/
  | clockStopped (h : Highway)
  /-- SYNC_SEARCH_TIMEOUT (R3): two milliseconds without a pulse out of sync. -/
  | syncSearchTimeout (h : Highway)
  /-- LINE_CODE_ARRIVES (R13): a line code received in a timeslot. -/
  | lineCodeArrives (slot : Slot) (code : Byte)
  /-- MODEM_PAIR_ARRIVES (R13): the modem pair x, d of a channel, at the end of slot 2c+1. -/
  | modemPairArrives (c : Chan) (x d : Word)
  /-- LINE_OUTPUT_SEND (R15): the transmit position of a line timeslot. -/
  | lineOutputSend (slot : Slot)
  /-- MODEM_OUTPUT_SEND (R15): the transmit positions 2c and 2c+1 of a channel. -/
  | modemOutputSend (c : Chan)
  /-- LINE_FRAME_START (R132): the Transfer Unit's step at the start of a line frame. -/
  | lineFrameStart
  /-- WAIT_DEADLINE (R115): the expiry of every wait entry whose deadline is reached. -/
  | waitDeadline
  /-- LOCK_EXPIRY (R152): the expiry of a controller's lock. -/
  | lockExpiry (k : Ctl)
  /-- EVENT_HOLD_REACHED (R182): the age of a controller's oldest event reaches the hold time. -/
  | eventHoldReached (k : Ctl)
  /-- REQUEST_LANE_GRANT (R157): the arbiter looks at the request lines QREQ0–QREQ3, bit k for controller k. -/
  | requestLaneGrant (raised : BitVec 4)
  /-- REQUEST_WORD_STROBE (R158): one word on QD0–QD15 with its parity QPAR. -/
  | requestWordStrobe (data : Word) (parity : Bool)
  /-- RECORD_ABANDONED (R158): two milliseconds of a grant without a strobe. -/
  | recordAbandoned
  /-- SEND_RESPONSE (R166): the reply-lane arbiter sends a response. -/
  | sendResponse
  /-- SEND_COMPLETION (R171): the reply-lane arbiter sends a completion. -/
  | sendCompletion
  /-- PART_RESET_EFFECT (R178): the last word of the PART RESET response is sent and the reset takes effect. -/
  | partResetEffect
  /-- PARITY_FAILED_REQUEST (R159): a record with a parity failure is taken. -/
  | parityFailedRequest
  /-- UNKNOWN_REQUEST_KIND (R167): a request whose kind names no request is taken. -/
  | unknownRequestKind
  /-- ATTACH (R173) is taken. -/
  | attach
  /-- DETACH (R174) is taken. -/
  | detach
  /-- OPEN SERVICE (R176) is taken. -/
  | openService
  /-- CLOSE SERVICE (R176) is taken. -/
  | closeService
  /-- QUERY PART (R177) is taken. -/
  | queryPart
  /-- PART RESET (R178) is taken. -/
  | partReset
  /-- SET DEFAULTS (R189) is taken. -/
  | setDefaults
  /-- READ DEFAULTS (R190) is taken. -/
  | readDefaults
  /-- BIND (R79) is taken. -/
  | bind
  /-- RELEASE (R86) is taken. -/
  | release
  /-- TRAIN ECHO (R90) is taken. -/
  | trainEcho
  /-- TRAIN EQUALIZER (R91) is taken. -/
  | trainEqualizer
  /-- TRACK (R92) is taken. -/
  | track
  /-- FREEZE (R77) is taken. -/
  | freeze
  /-- THAW (R77) is taken. -/
  | thaw
  /-- RESTART (R93) is taken. -/
  | restart
  /-- SET FAR WINDOW (R94) is taken. -/
  | setFarWindow
  /-- ADOPT (R98) is taken. -/
  | adopt
  /-- QUERY CHANNEL (R99) is taken. -/
  | queryChannel
  /-- QUERY STORE (R120) is taken. -/
  | queryStore
  /-- STORE PROFILE (R137) is taken. -/
  | storeProfile
  /-- STORE PROFILE TAPS (R138) is taken. -/
  | storeProfileTaps
  /-- READ PROFILE (R139) is taken. -/
  | readProfile
  /-- READ PROFILE TAPS (R140) is taken. -/
  | readProfileTaps
  /-- DROP PROFILE (R141) is taken. -/
  | dropProfile
  /-- LIST PROFILES (R142) is taken. -/
  | listProfiles
  /-- READ TAPS (R145) is taken. -/
  | readTaps
  /-- WRITE TAPS (R146) is taken. -/
  | writeTaps
  /-- FETCH EVENTS (R183) is taken. -/
  | fetchEvents
  /-- SET EVENT TRIGGER (R184) is taken. -/
  | setEventTrigger
deriving DecidableEq, Repr

end Sys2Proof
end

