-- ==== Sys2Proof/Config.lean ====
section
/-! DEFINITION. What is fixed for the part, and the one value the spec leaves free. -/

namespace Sys2Proof

/-- A byte the spec does not state: the free value of log entry 20. It has no body, so no proof can know it;
`n` is the count of `State.free` at the use. -/
opaque Config.freeByte (n : Nat) : Byte

/-- The member code that QUERY PART reports (R177). -/
abbrev Config.memberCode : Nat := 0x0140

/-- The device address of the boot memory on the two-wire port, 54H (R191). -/
abbrev Config.bootDevice : BitVec 7 := 0x54

/-- Places of the request queue (R166). -/
abbrev Config.queuePlaces : Nat := 8

/-- Entries of the allocation wait queue (R111). -/
abbrev Config.waitPlaces : Nat := 8

/-- Entries of one event FIFO (R180). -/
abbrev Config.fifoPlaces : Nat := 32

end Sys2Proof
end

