-- ==== Sys2Proof/Machine/Types.lean ====
section
/-! DEFINITION. The records that the blocks of the CL320 hold, as plain data under the spec's names. Samples are
integers, estimators and counts naturals, words of the bus and of the stores bit vectors. -/

namespace Sys2Proof.Machine

/-! ### Codes of the bus (R163, Table 9-9) -/

/-- The request kinds of Table 9-9. -/
inductive Kind where
  | attach | detach | openService | closeService | queryPart | partReset
  | setDefaults | readDefaults
  | bind | release | trainEcho | trainEqualizer | track | freeze | thaw | restart | setFarWindow | adopt
  | queryChannel | queryStore
  | storeProfile | storeProfileTaps | readProfile | readProfileTaps | dropProfile | listProfiles
  | readTaps | writeTaps | fetchEvents | setEventTrigger
deriving DecidableEq, Repr

/-- Response kinds (R168). -/
inductive RespKind where
  | done | deferred | retry | refused | parity
deriving DecidableEq, Repr

/-- Completion outcomes (R163). -/
inductive Result where
  | bound | noRoom | aborted | faulted | converged | timedOut | superseded | saved | notSaved
deriving DecidableEq, Repr

/-- Reason codes of a REFUSED response (Table 9-4). -/
inductive Reason where
  | badRequest | outOfRange | notAttached | notOwner | wrongState | slotInUse | slotUnusable | tagInUse
  | gateClosed | gateOpen | noRoom | noProfile | profileBusy | storeFull | lockHeld | lockBroken | notLocked
  | incomplete | noEqualizer
deriving DecidableEq, Repr

/-- Retry causes (Table 9-5). -/
inductive Cause where
  | booting | waitQueueFull | locked | inTransfer | channelNotReady
deriving DecidableEq, Repr

/-- Boot status (R163, R193). -/
inductive BootStatus where
  | loading | valid | noDevice | badSignature | badChecksum | badField
deriving DecidableEq, Repr

/-- The nine channel states (Table 5-2). -/
inductive ChanState where
  | free | pending | loading | bound | echoTrain | eqTrain | tracking | fault | releasing
deriving DecidableEq, Repr

/-- Profile record states (R122). -/
inductive ProfState where
  | empty | filling | valid
deriving DecidableEq, Repr

/-- Profile origins (Table 7-1). -/
inductive Origin where
  | boot | stored | learned
deriving DecidableEq, Repr

/-- The kinds of profile relation (R80, R85). -/
inductive Relation where
  | none | boundProfile | copy | learn
deriving DecidableEq, Repr

/-- Reasons of a NOT_SAVED completion (R89). -/
inductive SaveReason where
  | superseded | fault | busy | storeFull
deriving DecidableEq, Repr

/-- Tap windows (R143). -/
inductive Window where
  | near | far | equalizer
deriving DecidableEq, Repr

/-- Lock markers (Table 9-1, bits 9–8). -/
inductive Marker where
  | none | begin | continue | ending
deriving DecidableEq, Repr

/-- The companding laws (R7). -/
inductive Law where
  | mu | a
deriving DecidableEq, Repr

/-! ### HWI -/

/-- The synchronisation record of one highway (section 1.2), with the number of its frame (R15) and the start of the
period the two-millisecond tests watch (R187). -/
structure SyncRec where
  inSync   : Bool
  run      : Nat
  starting : Bool
  lossTime : Time
  watch    : Time
  frame    : Nat
deriving DecidableEq, Repr

/-- An input record (R13): each part with the frame in which it arrived. -/
structure InputRec where
  code : Option (Byte × Nat)
  pair : Option (Word × Word × Nat)
deriving DecidableEq, Repr

/-- An output holding slot (R15): each part with the frame in which it is to be sent. -/
structure HoldSlot where
  code : Option (Byte × Nat)
  pair : Option (Int × Int × Nat)
deriving DecidableEq, Repr

/-- What LHTX last sent: a timeslot and its line code (R1). -/
structure LineSent where
  slot : Slot
  code : Byte
deriving DecidableEq, Repr

/-- What MHTX last sent: a channel and the words of its two slots (R2). -/
structure ModemSent where
  chan   : Chan
  first  : Int
  second : Int
deriving DecidableEq, Repr

/-- The Highway Interface. -/
structure Hwi where
  line     : SyncRec
  modem    : SyncRec
  frameDue : Bool
  idleLaw  : Law
  inputs   : Vector InputRec 32
  outputs  : Vector HoldSlot 32
  lhtx     : LineSent
  mhtx     : ModemSent
deriving DecidableEq, Repr

/-! ### CHM -/

/-- The resolved parameters of a channel (Table 5-3). -/
structure Params where
  near        : Nat
  far         : Nat
  bulk        : Nat
  eq          : Bool
  aEchoTrain  : Nat
  aEchoTrack  : Nat
  aEqTrain    : Nat
  aEqTrack    : Nat
  erleTarget  : Nat
  qualTarget  : Nat
  holdCount   : Nat
  timeout     : Nat
  mainTap     : Nat
  lag         : Nat
  waitLimit   : Nat
deriving DecidableEq, Repr

/-- A channel context (R71, Table 5-1). -/
structure Context where
  state         : ChanState
  owner         : Option Ctl
  slot          : Option Slot
  params        : Option Params
  segs          : List Seg
  pages         : List Page
  w             : Nat
  resid         : List Int
  lagLine       : List Int
  pr            : Nat
  py            : Nat
  pe            : Nat
  pd            : Nat
  peps          : Nat
  trainFrames   : Nat
  streak        : Nat
  guarded       : Nat
  degradeStreak : Nat
  quietStreak   : Nat
  eccCount      : Nat
  parityCount   : Nat
  convErle      : Option Nat
  converged     : Bool
  degraded      : Bool
  quiet         : Bool
  firstCorr     : Bool
  freeze        : Bool
  lock          : Bool
  bound         : Option Key
  learn         : Option Key
  load          : Option Key
  relation      : Relation
  trainLink     : Option Tag
  bindLink      : Option Tag
deriving DecidableEq, Repr

/-! ### SAL -/

/-- An entry of the allocation wait queue (R111). -/
structure WaitEntry where
  chan     : Chan
  ctl      : Ctl
  segs     : Nat
  pages    : Nat
  accepted : Time
  limit    : Nat
deriving DecidableEq, Repr

/-- The Store Allocator. The two memories list (address, word) in address order and list no blank word (log
entries 7 to 9); the free sets are in ascending order. -/
structure Sal where
  taps      : List (Nat × BitVec 22)
  hist      : List (Nat × BitVec 17)
  freeSegs  : List Seg
  freePages : List Page
  heldSeg   : Vector Nat 4
  heldPage  : Vector Nat 4
  waitQ     : List WaitEntry
deriving DecidableEq, Repr

/-! ### PFS and XFU -/

/-- The descriptor fields of a profile (Table 7-1, R137). -/
structure Descriptor where
  pinned     : Bool
  near       : Nat
  farHint    : Nat
  bulkHint   : Nat
  aEchoTrain : Option Nat
  aEchoTrack : Option Nat
  aEqTrain   : Option Nat
  aEqTrack   : Option Nat
  mainTap    : Nat
  lag        : Nat
  eq         : Bool
  best       : Nat
deriving DecidableEq, Repr

/-- A profile record (Table 7-1). Chunks 0–7 are near chunks, chunk 8 the equalizer chunk; bit i of `written` is
chunk i. -/
structure Profile where
  key       : Option Key
  state     : ProfState
  desc      : Descriptor
  origin    : Origin
  useCount  : Nat
  boundChan : Option Chan
  written   : BitVec 9
  chunks    : Vector (List Word) 9
deriving DecidableEq, Repr

/-- The Profile Store: the records, and the recency list by record number, most recently used first (R123). -/
structure Pfs where
  recs    : Vector Profile 64
  recency : List Rec
deriving DecidableEq, Repr

/-- The kind of a transfer job (R131). -/
inductive JobKind where
  | load | save
deriving DecidableEq, Repr

/-- A transfer job (R131). `eqLast` says that its last segment is the equalizer chunk (fixed when it is queued,
R126, R127); `queuedAt` is the line frame in which it was queued (R132). -/
structure Job where
  kind     : JobKind
  chan     : Chan
  key      : Key
  count    : Nat
  moved    : Nat
  eqLast   : Bool
  queuedAt : Nat
deriving DecidableEq, Repr

/-! ### CAU -/

/-- The object of a lock (R147). -/
inductive LockObj where
  | chan (c : Chan)
  | profile (k : Key)
deriving DecidableEq, Repr

/-- The purpose of a lock (R147). -/
inductive Purpose where
  | channel | profileRead | fill
deriving DecidableEq, Repr

/-- A lock entry (R147); `active` is ACTIVE, otherwise BROKEN. -/
structure Lock where
  obj     : LockObj
  purpose : Purpose
  active  : Bool
  last    : Time
  held    : Option Chan
deriving DecidableEq, Repr

/-! ### CBI -/

/-- A response formed by the response stage (R162): `code` is the reason code or the retry cause, else 0. -/
structure Answer where
  kind      : RespKind
  code      : Nat
  live      : Bool
  corrected : Nat
  marks     : Option (BitVec 32)
  results   : List Word
deriving DecidableEq, Repr

/-- A place of the request queue whose record is accepted (R166): undecided while `answer` is absent. `announces`
says that its DEFERRED response announces a deferred entry that still stands (R171). -/
structure Request where
  ctl       : Ctl
  header    : Word
  length    : Nat
  words     : List Word
  parityBad : Bool
  answer    : Option Answer
  announces : Bool
deriving DecidableEq, Repr

/-- A grant outstanding, with the record being received (R157, R158). -/
structure Grant where
  ctl       : Ctl
  words     : List Word
  parityBad : Bool
  since     : Time
deriving DecidableEq, Repr

/-- An entry of the deferred table (R170); `ready` is READY, otherwise WAITING; `announced` says that its DEFERRED
response has been sent (R171). -/
structure Deferred where
  ctl       : Ctl
  tag       : Tag
  ready     : Bool
  announced : Bool
  outcome   : Option (Result × List Word)
deriving DecidableEq, Repr

/-- The reply-lane preference (R172). -/
inductive Preference where
  | response | completion
deriving DecidableEq, Repr

/-- The Control Bus Interface. `lane` is the last record sent on the reply lane, each word with its parity bit. -/
structure Cbi where
  attached     : Vector Bool 4
  queue        : List Request
  grant        : Option Grant
  lastGranted  : Ctl
  deferred     : List Deferred
  ready        : List (Ctl × Tag)
  preference   : Preference
  resetPending : Bool
  lane         : List (Word × Bool)
deriving DecidableEq, Repr

/-! ### EVU -/

/-- The event kinds (Table 10-1). -/
inductive EventKind where
  | channelFault | lineSyncLost | modemSyncLost | lineSyncRegained | modemSyncRegained | eccCorrected
  | echoDegraded | lineQuiet | lockBroken | channelOrphaned
deriving DecidableEq, Repr

/-- An entry of an event FIFO (R180). Its class is that of its kind and its time stamp the low 16 bits of `posted`. -/
structure Event where
  kind   : EventKind
  chan   : Option Chan
  detail : Word
  posted : Time
deriving DecidableEq, Repr

/-- The event state of one controller (R180–R182): oldest entry first; `line` is EVL. -/
structure Fifo where
  entries  : List Event
  overflow : Bool
  level    : Nat
  hold     : Nat
  line     : Bool
deriving DecidableEq, Repr

/-! ### BTL -/

/-- Part 0 of the site defaults (Table 11-1). Bit n of `usable` is timeslot n. -/
structure PartZero where
  law       : Law
  usable    : BitVec 32
  shareSeg  : Vector Nat 4
  sharePage : Vector Nat 4
  lockLimit : Nat
  waitLimit : Nat
  evLevel   : Nat
  evHold    : Nat
deriving DecidableEq, Repr

/-- Part 1 of the site defaults (Table 11-1). -/
structure PartOne where
  aEchoTrain    : Nat
  aEchoTrack    : Nat
  aEqTrain      : Nat
  aEqTrack      : Nat
  erleTarget    : Nat
  qualTarget    : Nat
  holdCount     : Nat
  timeout       : Nat
  gate          : Nat
  pfloor        : Nat
  guard         : Nat
  degradeMargin : Nat
  degradeCount  : Nat
  quietLevel    : Nat
  quietLimit    : Nat
  mainTap       : Nat
  lag           : Nat
  near          : Nat
  far           : Nat
  bulk          : Nat
  eq            : Bool
deriving DecidableEq, Repr

/-- What BTL drives on the two-wire port, or reads there (R191). -/
inductive PortOp where
  | start
  | deviceAddress (address : BitVec 7) (read : Bool)
  | memoryAddress (b : Byte)
  | readByte (b : Byte) (ack : Bool)
  | stop
deriving DecidableEq, Repr

/-- The Boot Loader and Timebase. -/
structure Btl where
  timebase : Time
  part0    : PartZero
  part1    : PartOne
  gateOpen : Bool
  status   : BootStatus
  booting  : Bool
  resetLow : Bool
  port     : List PortOp
deriving DecidableEq, Repr

end Sys2Proof.Machine
end

