-- ==== Sys2Proof/Machine/Initial.lean ====
section
/-! DEFINITION. The values after reset, block by block (R194 and the reset statements of each chapter). -/

namespace Sys2Proof.Machine

/-- A highway's record after power-on (section 1.2); the watch start and the frame number are the model's (log 28). -/
def initialSync : SyncRec :=
  { inSync := false, run := 0, starting := false, lossTime := 0, watch := 0, frame := 0 }

/-- An empty input record (R13). -/
def emptyInput : InputRec := { code := none, pair := none }

/-- An empty holding slot (R15). -/
def emptyHold : HoldSlot := { code := none, pair := none }

/-- Part 0's built-in values (Table 11-1). -/
def builtInZero : PartZero :=
  { law := .mu, usable := 0xFFFFFFFF, shareSeg := Vector.replicate 4 0, sharePage := Vector.replicate 4 0
    lockLimit := 100, waitLimit := 2000, evLevel := 4, evHold := 20 }

/-- HWI after power-on (section 1.2, R13, R15); the idle law is that of the built-in defaults (R188), and the sent codes
are the idle ones (log entry 28). -/
def initialHwi : Hwi :=
  { line := initialSync, modem := initialSync, frameDue := false, idleLaw := builtInZero.law
    inputs := Vector.replicate 32 emptyInput, outputs := Vector.replicate 32 emptyHold
    lhtx := { slot := 0, code := 0xFF }, mhtx := { chan := 0, first := 0, second := 0 } }

/-- A channel context after power-on and PART RESET (Table 5-1). -/
def initialContext : Context :=
  { state := .free, owner := none, slot := none, params := none, segs := [], pages := [], w := 0
    resid := List.replicate 40 0, lagLine := List.replicate 8 0
    pr := 0, py := 0, pe := 0, pd := 0, peps := 0
    trainFrames := 0, streak := 0, guarded := 0, degradeStreak := 0, quietStreak := 0
    eccCount := 0, parityCount := 0, convErle := none
    converged := false, degraded := false, quiet := false, firstCorr := false
    freeze := false, lock := false, bound := none, learn := none, load := none, relation := .none
    trainLink := none, bindLink := none }

/-- SAL after power-on (R100, R108, R111): every unit free, nothing listed in either memory (log entry 7). -/
def initialSal : Sal :=
  { taps := [], hist := [], freeSegs := List.finRange 256, freePages := List.finRange 256
    heldSeg := Vector.replicate 4 0, heldPage := Vector.replicate 4 0, waitQ := [] }

/-- 32 tap words of 0. -/
def zeroChunk : List Word := List.replicate 32 0

/-- An EMPTY record (R121). -/
def emptyProfile : Profile :=
  { key := none, state := .empty
    desc :=
      { pinned := false, near := 0, farHint := 0, bulkHint := 0, aEchoTrain := none, aEchoTrack := none
        aEqTrain := none, aEqTrack := none, mainTap := 0, lag := 0, eq := false, best := 0 }
    origin := .boot, useCount := 0, boundChan := none, written := 0
    chunks := Vector.replicate 9 zeroChunk }

/-- PFS after power-on (R121, R123). -/
def initialPfs : Pfs := { recs := Vector.replicate 64 emptyProfile, recency := [] }

/-- CBI after power-on (R157, R166, R170–R173); no record has been sent (log entry 28). -/
def initialCbi : Cbi :=
  { attached := Vector.replicate 4 false, queue := [], grant := none, lastGranted := 3, deferred := []
    ready := [], preference := .response, resetPending := false, lane := [] }

/-- The event state of a controller after power-on and PART RESET (Table 10-3). -/
def initialFifo : Fifo := { entries := [], overflow := false, level := 4, hold := 20, line := false }

/-- Part 1's built-in values (Table 11-1). -/
def builtInOne : PartOne :=
  { aEchoTrain := 8, aEchoTrack := 13, aEqTrain := 7, aEqTrack := 12, erleTarget := 64, qualTarget := 48
    holdCount := 400, timeout := 16000, gate := 96, pfloor := 1024, guard := 0, degradeMargin := 24
    degradeCount := 800, quietLevel := 64, quietLimit := 16000, mainTap := 4, lag := 2, near := 4, far := 0
    bulk := 0, eq := true }

/-- BTL after RESET has risen (R187, R194): the boot load runs. -/
def initialBtl : Btl :=
  { timebase := 0, part0 := builtInZero, part1 := builtInOne, gateOpen := false, status := .loading
    booting := true, resetLow := false, port := [] }

end Sys2Proof.Machine
end

