-- ==== Sys2Proof/Machine/State.lean ====
section
/-! DEFINITION. The state of the CL320: one field for each block of Table 0-1 that holds state (FEN holds none), the
model's free-value counter, and the queue of commands. Every piece is listed in INVENTORY.md with its rule. -/

namespace Sys2Proof.Machine

/-- The state of the part. `chans` is CHM, `jobs` is XFU, `locks` is CAU and `fifos` is EVU, each by number. -/
structure State where
  hwi     : Hwi
  chans   : Vector Context 32
  sal     : Sal
  pfs     : Pfs
  jobs    : List Job
  locks   : Vector (Option Lock) 4
  cbi     : Cbi
  fifos   : Vector Fifo 4
  btl     : Btl
  free    : Nat
  pending : List Instr
deriving DecidableEq, Repr

/-- The faults that stop the part: none. Every condition the spec names is an effect on State (a channel state, a
response, an event), so no meaning raises a fault; having no fault is safe, since nothing is left out by one. -/
inductive Fault where
deriving DecidableEq, Repr

/-- The refusals of the model. -/
inductive Refusal where
  /-- Raised by an arm of `exec` whose command has no meaning yet; safe, since the machine stops. No arm raises it
  now. -/
  | notModelled (mnemonic : String)
deriving DecidableEq, Repr

/-- The part right after RESET has risen (R194). -/
def State.reset : State :=
  { hwi := initialHwi, chans := Vector.replicate 32 initialContext, sal := initialSal, pfs := initialPfs
    jobs := [], locks := Vector.replicate 4 none, cbi := initialCbi, fifos := Vector.replicate 4 initialFifo
    btl := initialBtl, free := 0, pending := [] }

end Sys2Proof.Machine
end

