-- ==== Sys2Proof/Machine/Memory.lean ====
section
/-! DEFINITION. The two memories of SAL: their canonical lists of cells, the check code of a tap word (R104), the
parity of a history sample (R107), and the reads and writes of words, segments and pages (R100–R107). -/

namespace Sys2Proof.Machine

variable {α : Type}

/-! ### Cells -/

/-- The word at an address; an unlisted address reads as `blank`. -/
def cellRead (blank : α) : List (Nat × α) → Nat → α
  | [], _ => blank
  | (k, v) :: t, a => if k = a then v else cellRead blank t a

/-- Write one word and keep the canonical form: addresses rise and no listed word is `blank`. -/
def cellWrite [DecidableEq α] (blank : α) (a : Nat) (v : α) : List (Nat × α) → List (Nat × α)
  | [] => if v = blank then [] else [(a, v)]
  | (k, u) :: t =>
    if a < k then (if v = blank then (k, u) :: t else (a, v) :: (k, u) :: t)
    else if a = k then (if v = blank then t else (a, v) :: t)
    else (k, u) :: cellWrite blank a v t

/-- Write words at consecutive addresses. -/
def cellWriteAll [DecidableEq α] (blank : α) : Nat → List α → List (Nat × α) → List (Nat × α)
  | _, [], m => m
  | a, v :: vs, m => cellWriteAll blank (a + 1) vs (cellWrite blank a v m)

/-- The canonical form of a memory of `size` words: rising addresses below `size`, no word equal to `blank`. -/
abbrev Memory.wf (blank : α) (size : Nat) (m : List (Nat × α)) : Prop :=
  m.Pairwise (fun p q => p.1 < q.1) ∧ ∀ p ∈ m, p.1 < size ∧ p.2 ≠ blank

/-! ### The check code of a tap word (R104) -/

/-- The positions of data bits 0–15 among positions 1–21 (R104). -/
def dataPositions : List Nat := [3, 5, 6, 7, 9, 10, 11, 12, 13, 14, 15, 17, 18, 19, 20, 21]

/-- Exclusive-or of a list of bits. -/
def xorAll (bs : List Bool) : Bool := bs.foldr (fun b acc => b ^^ acc) false

/-- Check bit j: the exclusive-or of the data bits whose position has bit j set (R104). -/
def checkBit (d : Word) (j : Nat) : Bool :=
  xorAll (dataPositions.zipIdx.map fun p => p.1.testBit j && d.getLsbD p.2)

/-- Positions 1–21 of the stored word in order (R104). -/
def codeBits (d : Word) : List Bool :=
  [checkBit d 0, checkBit d 1, d.getLsbD 0, checkBit d 2, d.getLsbD 1, d.getLsbD 2, d.getLsbD 3, checkBit d 3,
   d.getLsbD 4, d.getLsbD 5, d.getLsbD 6, d.getLsbD 7, d.getLsbD 8, d.getLsbD 9, d.getLsbD 10, checkBit d 4,
   d.getLsbD 11, d.getLsbD 12, d.getLsbD 13, d.getLsbD 14, d.getLsbD 15]

/-- The stored word of a value, with fresh check bits (R103, R104). Bit p − 1 of the stored word is position p and bit
21 the overall parity bit (log entry 9). -/
def eccEncode (d : Word) : BitVec 22 :=
  (BitVec.ofBoolListLE (codeBits d ++ [xorAll (codeBits d)])).setWidth 22

/-- The stored data bits. -/
def eccData (w : BitVec 22) : Word :=
  (BitVec.ofBoolListLE (dataPositions.map fun p => w.getLsbD (p - 1))).setWidth 16

/-- The syndrome: bit j is the mismatch of check bit j (R104). -/
def syndrome (w : BitVec 22) : Nat :=
  ([0, 1, 2, 3, 4].map fun j => if w.getLsbD (2 ^ j - 1) ^^ checkBit (eccData w) j then 2 ^ j else 0).sum

/-- The overall parity holds: the 22 stored bits hold an even number of ones (R104). -/
def overallHolds (w : BitVec 22) : Bool := !xorAll ((List.range 22).map w.getLsbD)

/-- The class of a tap word read, with the value handed to the reader (Table 6-2). -/
inductive TapClass where
  | good (v : Word)
  | corrected (v : Word)
  | uncorrectable
deriving DecidableEq, Repr

/-- A corrected value of 8000H is handed over and written back as −32767 (R104). -/
def correctedValue (v : Word) : Word := if v = 0x8000 then 0x8001 else v

/-- Class a stored word (Table 6-2). -/
def classify (w : BitVec 22) : TapClass :=
  if overallHolds w then
    if syndrome w = 0 then .good (eccData w) else .uncorrectable
  else if syndrome w = 0 then .corrected (correctedValue (eccData w))
  else if syndrome w ≤ 21 then
    .corrected (correctedValue (eccData (w ^^^ (1#22 <<< (syndrome w - 1)))))
  else .uncorrectable

/-- The value handed over, if any. -/
def TapClass.value : TapClass → Option Word
  | .good v => some v
  | .corrected v => some v
  | .uncorrectable => none

/-- The value as a number, 0 where none is handed over. -/
def TapClass.int (k : TapClass) : Int := (k.value.getD 0).toInt

/-- Clamp a supplied tap word to −32767…+32767: 8000H is stored as −32767 (R138, R146, R193). -/
def clampWord (v : Word) : Word := if v = 0x8000 then 0x8001 else v

/-! ### The tap store -/

/-- What an unlisted tap word holds: 0 with its check bits, which are all 0 (log entry 7). -/
def tapBlank : BitVec 22 := 0

/-- A tap word read: its tap store address (R24) and its class. -/
structure TapRead where
  addr : Nat
  cls  : TapClass
deriving DecidableEq, Repr

/-- Read the 32 words of a segment through the check (R104, R105), without write-back. -/
def readSegment (sal : Sal) (g : Seg) : List TapRead :=
  (List.range 32).map fun i =>
    { addr := 32 * g.val + i, cls := classify (cellRead tapBlank sal.taps (32 * g.val + i)) }

/-- Read every word of a segment list, in list order (R27). -/
def readSegments (sal : Sal) (gs : List Seg) : List TapRead := gs.flatMap (readSegment sal)

/-- Write one tap word with fresh check bits (R103). -/
def writeTap (a : Nat) (v : Word) (sal : Sal) : Sal :=
  { sal with taps := cellWrite tapBlank a (eccEncode v) sal.taps }

/-- Write a segment's 32 words with fresh check bits (R103). -/
def writeSegment (g : Seg) (vs : List Word) (sal : Sal) : Sal :=
  { sal with taps := cellWriteAll tapBlank (32 * g.val) ((vs.take 32).map eccEncode) sal.taps }

/-- Write a list of words over a list of segments, 32 words each. -/
def writeSegments : List Seg → List Word → Sal → Sal
  | [], _, sal => sal
  | g :: gs, vs, sal => writeSegments gs (vs.drop 32) (writeSegment g vs sal)

/-- Zero a segment (R102). -/
def zeroSegment (g : Seg) (sal : Sal) : Sal := writeSegment g zeroChunk sal

/-- Zero every segment of a list. -/
def zeroSegments (gs : List Seg) (sal : Sal) : Sal := gs.foldl (fun m g => zeroSegment g m) sal

/-- Write back every word classed corrected (R105). -/
def writeBack (rd : List TapRead) (sal : Sal) : Sal :=
  rd.foldl (fun m r => match r.cls with | .corrected v => writeTap r.addr v m | _ => m) sal

/-! ### The history store -/

/-- The stored sample of a value with fresh parity: 17 bits with an odd number of ones (R107). -/
def parityEncode (v : Word) : BitVec 17 :=
  (BitVec.ofBool (!xorAll ((List.range 16).map v.getLsbD)) ++ v).setWidth 17

/-- What an unlisted sample holds: 0 with its parity bit set (R107, log entry 7). -/
def histBlank : BitVec 17 := 0x10000

/-- Read a sample: no value when the 17 bits hold an even number of ones (R107). -/
def readSample (sal : Sal) (a : Nat) : Option Int :=
  let w := cellRead histBlank sal.hist a
  if xorAll ((List.range 17).map w.getLsbD) then some (w.setWidth 16).toInt else none

/-- Write a sample at an offset of a page with fresh parity (R103). -/
def writeSample (p : Page) (off : Nat) (v : Int) (sal : Sal) : Sal :=
  { sal with hist := cellWrite histBlank (256 * p.val + off % 256) (parityEncode (BitVec.ofInt 16 v)) sal.hist }

/-- Zero a page (R102). -/
def zeroPage (p : Page) (sal : Sal) : Sal :=
  { sal with hist := cellWriteAll histBlank (256 * p.val) (List.replicate 256 (parityEncode 0)) sal.hist }

/-- Zero every page of a list. -/
def zeroPages (ps : List Page) (sal : Sal) : Sal := ps.foldl (fun m p => zeroPage p m) sal

/-! ### Free sets (R100, R102, R117) -/

/-- Put a unit back into an ascending free set. -/
def insertUnit (u : Fin 256) : List (Fin 256) → List (Fin 256)
  | [] => [u]
  | v :: t => if u < v then u :: v :: t else if u = v then v :: t else v :: insertUnit u t

/-- Return units to a free set (R117). -/
def insertUnits (us : List (Fin 256)) (free : List (Fin 256)) : List (Fin 256) :=
  us.foldl (fun f u => insertUnit u f) free

end Sys2Proof.Machine
end

