-- ==== Sys2Proof/Machine/Coding.lean ====
section
/-! DEFINITION. The line code (section 1.3, R7–R12): line forms and field forms, the two laws' decodings and
encodings, the idle codes, and the reference sample. -/

namespace Sys2Proof.Machine

/-- Between line form and field form, in either direction (R7). -/
def lineForm : Law → Byte → Byte
  | .mu, c => ~~~c
  | .a, c => c ^^^ 0x55

/-- The polarity bit of a field form (Table 1-2). -/
def polarity (f : Byte) : Bool := f.getLsbD 7

/-- The segment of a field form (Table 1-2). -/
def segmentOf (f : Byte) : Nat := f.toNat / 16 % 8

/-- The step of a field form (Table 1-2). -/
def stepOf (f : Byte) : Nat := f.toNat % 16

/-- Build a field form (Table 1-2). -/
def fieldForm (pol : Bool) (s q : Nat) : Byte := BitVec.ofNat 8 ((if pol then 128 else 0) + 16 * s + q)

/-- The magnitude a μ-law field form decodes to (R8). -/
def muMagnitude (s q : Nat) : Nat := (8 * q + 132) * 2 ^ s - 132

/-- The magnitude an A-law field form decodes to (R9). -/
def aMagnitude (s q : Nat) : Nat := if s = 0 then 16 * q + 8 else (16 * q + 264) * 2 ^ (s - 1)

/-- Decode a received line code (R7, R8, R9). -/
def decodeLine : Law → Byte → Int
  | .mu, c =>
    let f := lineForm .mu c
    if polarity f then -(muMagnitude (segmentOf f) (stepOf f) : Int) else muMagnitude (segmentOf f) (stepOf f)
  | .a, c =>
    let f := lineForm .a c
    if polarity f then (aMagnitude (segmentOf f) (stepOf f) : Int) else -(aMagnitude (segmentOf f) (stepOf f) : Int)

/-- The μ-law field form of a sample (R10). -/
def muField (x : Int) : Byte :=
  let v := min x.natAbs 32635 + 132
  let s := v.log2 - 7
  fieldForm (decide (x < 0)) s (v / 2 ^ (s + 3) - 16)

/-- The A-law field form of a sample (R11). -/
def aField (x : Int) : Byte :=
  let a := min x.natAbs 32767
  if a < 256 then fieldForm (decide (0 ≤ x)) 0 (a / 16)
  else
    let s := a.log2 - 7
    fieldForm (decide (0 ≤ x)) s (a / 2 ^ (s + 3) - 16)

/-- Encode a linear sample as a line code (R7, R10, R11). -/
def encodeLine : Law → Int → Byte
  | .mu, x => lineForm .mu (muField x)
  | .a, x => lineForm .a (aField x)

/-- The idle code of a law (R7). -/
def idleCode : Law → Byte
  | .mu => 0xFF
  | .a => 0xD5

/-- The reference sample of a modem transmit sample (R12). -/
def reference (l : Law) (x : Int) : Int := decodeLine l (encodeLine l x)

/-- The desired sample of a slot's word: 8000H marks it absent (R46). -/
def desiredOf (d : Word) : Option Int := if d = 0x8000 then none else some d.toInt

end Sys2Proof.Machine
end

