-- ==== Sys2Proof/Machine/Flags.lean ====
section
/-! DEFINITION. The measures and the conditions formed from them: the saturations, the estimators (R55), the log
scale (R59), ERLE and quality (R60), the gate and guard (R33, R34), the training counters (R61–R64), the detectors
(R66, R68), the normalising shifts and tap changes (R35–R37, R50–R52), and the event line's condition (R182). -/

namespace Sys2Proof.Machine

/-! ### Arithmetic (00_scope.md section 5.2) -/

/-- sat(x): limited to −32767…+32767. -/
def sat (x : Int) : Int := if 32767 < x then 32767 else if x < -32767 then -32767 else x

/-- A scaled accumulator, rounded to nearest with halves upward: floor((acc + 2^(n−1)) / 2^n). -/
def roundShift (acc : Int) (n : Nat) : Int := (acc + 2 ^ (n - 1)) / 2 ^ n

/-- A sum of products. -/
def dot (xs ys : List Int) : Int := (List.zipWith (· * ·) xs ys).sum

/-- Enter a value at the front of a ring of n places (R40, R41). -/
def ringPush (n : Nat) (v : Int) (ring : List Int) : List Int := (v :: ring).take n

/-! ### Estimators and the log scale -/

/-- P ← P − floor(P/128) + floor(v²/128) (R55). -/
def leak (p : Nat) (v : Int) : Nat := p - p / 128 + v.natAbs * v.natAbs / 128

/-- The log value of an estimator (R59). -/
def logValue (p : Nat) : Nat :=
  let b := (p + 1).log2
  8 * b + (p + 1 - 2 ^ b) * 8 / 2 ^ b

/-- ERLE = max(0, L(P_y) − L(P_e)) (R60). -/
def erle (x : Context) : Nat := logValue x.py - logValue x.pe

/-- Q = max(0, L(P_d) − L(P_ε)) (R60). -/
def quality (x : Context) : Nat := logValue x.pd - logValue x.peps

/-- Stage 4 of a full service (R55). -/
def measure (r y e : Int) (x : Context) : Context :=
  { x with pr := leak x.pr r, py := leak x.py y, pe := leak x.pe e }

/-- Stage 4 of a fault service and of a service in FAULT (R58). -/
def faultMeasure (r y : Int) (x : Context) : Context :=
  { x with pr := leak x.pr r, py := leak x.py y, pe := leak x.py y }

/-! ### Adaptation -/

/-- The normalising shift: floor(log2(P + Pfloor)) + A − offset, 0 if negative (R35, R50). -/
def shiftOf (p pfloor a offset : Nat) : Nat := (p + pfloor).log2 + a - offset

/-- The change of a tap for a product q (R36, R51). -/
def tapChange (q : Int) (shift : Nat) : Int := if shift = 0 then q else roundShift q shift

/-- The new value of an adapted tap, clamped (R36, R37, R51, R52). -/
def adaptTap (shift : Nat) (err h r : Int) : Int := sat (h + tapChange (err * r) shift)

/-- The hold set is empty (R77). -/
def holdEmpty (x : Context) : Bool := !x.freeze && !x.lock

/-- L(P_r) is at or above the gate level (R33). -/
def gateMet (p : PartOne) (x : Context) : Bool := decide (p.gate ≤ logValue x.pr)

/-- The state is one in which echo taps may adapt (R33). -/
def echoAdaptState : ChanState → Bool
  | .echoTrain | .eqTrain | .tracking => true
  | .free | .pending | .loading | .bound | .fault | .releasing => false

/-- The conditions of R33 but for the guard. -/
def echoMayAdapt (p : PartOne) (x : Context) : Bool := echoAdaptState x.state && holdEmpty x && gateMet p x

/-- The training guard trips (R34); it is asked only when R33's other conditions hold. -/
def guardTrips (p : PartOne) (x : Context) : Bool :=
  x.state == .echoTrain && decide (logValue x.pr + p.guard ≤ logValue x.py)

/-- The equalizer taps adapt (R49). -/
def eqAdapts (x : Context) (q : Params) (dPresent : Bool) : Bool :=
  q.eq && (x.state == .eqTrain || x.state == .tracking) && holdEmpty x && dPresent

/-! ### Training counters and detectors (stage 7, R70) -/

/-- The channel is in training. -/
def inTraining : ChanState → Bool
  | .echoTrain | .eqTrain => true
  | .free | .pending | .loading | .bound | .tracking | .fault | .releasing => false

/-- The convergence streak of an echo training (R62). -/
def echoStreak (p : PartOne) (q : Params) (x : Context) : Nat :=
  if gateMet p x then (if q.erleTarget ≤ erle x then x.streak + 1 else 0) else x.streak

/-- The convergence streak of an equalizer training (R63). -/
def eqStreak (q : Params) (dPresent : Bool) (x : Context) : Nat :=
  if dPresent then (if q.qualTarget ≤ quality x then x.streak + 1 else 0) else x.streak

/-- Frame count and streak of a service taken in training (R61–R63). -/
def countTraining (p : PartOne) (q : Params) (dPresent : Bool) (x : Context) : Context :=
  match x.state with
  | .echoTrain => { x with trainFrames := x.trainFrames + 1, streak := echoStreak p q x }
  | .eqTrain => { x with trainFrames := x.trainFrames + 1, streak := eqStreak q dPresent x }
  | _ => x

/-- The end-of-training decision (R64). -/
def trainingEnd (q : Params) (x : Context) : Option Result :=
  if !inTraining x.state then none
  else if q.holdCount ≤ x.streak then some .converged
  else if q.timeout ≤ x.trainFrames then some .timedOut
  else none

/-- The degrade detector (R66): the context after it and whether ECHO DEGRADED is posted. The threshold is the ERLE
target less the margin, so ERLE < threshold is ERLE + margin < target. -/
def degradeStep (p : PartOne) (q : Params) (x : Context) : Context × Bool :=
  if !gateMet p x then (x, false)
  else if x.degraded then
    (if q.erleTarget ≤ erle x then { x with degraded := false } else x, false)
  else if erle x + p.degradeMargin < q.erleTarget then
    if x.degradeStreak + 1 = p.degradeCount then ({ x with degraded := true, degradeStreak := 0 }, true)
    else ({ x with degradeStreak := x.degradeStreak + 1 }, false)
  else ({ x with degradeStreak := 0 }, false)

/-- The quiet detector (R68): the context after it and whether LINE QUIET is posted. -/
def quietStep (p : PartOne) (x : Context) : Context × Bool :=
  if x.quiet then (if p.quietLevel ≤ logValue x.py then { x with quiet := false } else x, false)
  else if logValue x.py < p.quietLevel then
    if x.quietStreak + 1 = p.quietLimit then ({ x with quiet := true, quietStreak := 0 }, true)
    else ({ x with quietStreak := x.quietStreak + 1 }, false)
  else ({ x with quietStreak := 0 }, false)

/-! ### Events -/

/-- The event kind codes (Table 10-1). -/
def EventKind.code : EventKind → Nat
  | .channelFault => 1 | .lineSyncLost => 2 | .modemSyncLost => 3 | .lineSyncRegained => 4
  | .modemSyncRegained => 5 | .eccCorrected => 6 | .echoDegraded => 7 | .lineQuiet => 8 | .lockBroken => 9
  | .channelOrphaned => 10

/-- The events of class FAULT (Table 10-1). -/
def EventKind.isFault : EventKind → Bool
  | .channelFault | .lineSyncLost | .modemSyncLost => true
  | .lineSyncRegained | .modemSyncRegained | .eccCorrected | .echoDegraded | .lineQuiet | .lockBroken
  | .channelOrphaned => false

/-- The oldest entry's age has reached the hold time (R182). -/
def holdReached (now : Time) (f : Fifo) : Bool :=
  match f.entries with
  | [] => false
  | e :: _ => decide (f.hold ≤ (now - e.posted).toNat)

/-- The condition under which the event line is asserted (R182). While the limits stand still (`still`), no age
reaches its hold time (log entry 6). -/
def lineAsserted (attached still : Bool) (now : Time) (f : Fifo) : Bool :=
  attached && (decide (f.level ≤ f.entries.length) || (!still && holdReached now f)
    || f.entries.any fun e => e.kind.isFault)

/-- A trigger level is rounded up to the next of 1, 4, 8 and 16 (R184, R189). -/
def roundLevel (n : Nat) : Nat := if n ≤ 1 then 1 else if n ≤ 4 then 4 else if n ≤ 8 then 8 else 16

end Sys2Proof.Machine
end

