-- ==== Sys2Proof/Machine/Operands.lean ====
section
/-! DEFINITION. The operand forms of the bus: the fields of a request record (R160, R161, R164), the codes of Table
9-9, the responses a block forms (R162), the ordered checks, and the words of the longer records. -/

namespace Sys2Proof.Machine

/-! ### Words -/

/-- A number as a bus word. -/
def word (n : Nat) : Word := BitVec.ofNat 16 n

/-- The absent value of a one-word field (R163). -/
def absentWord : Word := 0xFFFF

/-- An optional number as a one-word field (R163). -/
def optWord : Option Nat → Word
  | none => absentWord
  | some n => word n

/-- A flag as a bit. -/
def bit (b : Bool) (n : Nat) : Nat := if b then 2 ^ n else 0

/-- Two bytes of a word: the first in bits 15–8. -/
def pack (hi lo : Nat) : Word := word (256 * (hi % 256) + lo % 256)

/-- Bits 15–8 of a word. -/
def hiByte (w : Word) : Nat := w.toNat / 256

/-- Bits 7–0 of a word. -/
def loByte (w : Word) : Nat := w.toNat % 256

/-- The two words of a 32-bit value, high word first. -/
def twoWords (n : Nat) : List Word := [word (n / 65536), word n]

/-- A key from its high and low words (Table 9-1). -/
def keyOf (hi lo : Word) : Key := hi ++ lo

/-- A key's two words; an absent key reads as 0 in both (R163). -/
def keyWords : Option Key → List Word
  | none => [0, 0]
  | some k => twoWords k.toNat

/-- The number of ones of a word. -/
def ones (w : Word) : Nat := ((List.range 16).filter fun i => w.getLsbD i).length

/-- Odd parity: the word with its parity bit holds an odd number of ones (R159, R165). -/
def parityGood (w : Word) (p : Bool) : Bool := (ones w + if p then 1 else 0) % 2 == 1

/-- The parity bit that goes with a word on the reply lane (R165). -/
def parityBit (w : Word) : Bool := ones w % 2 == 0

/-! ### Codes (Table 9-9) -/

/-- The kind of a request kind code (Table 9-9). -/
def kindOfCode (c : Nat) : Option Kind :=
  match c with
  | 0x01 => some .attach | 0x02 => some .detach | 0x03 => some .openService | 0x04 => some .closeService
  | 0x05 => some .queryPart | 0x06 => some .partReset
  | 0x10 => some .setDefaults | 0x11 => some .readDefaults
  | 0x20 => some .bind | 0x21 => some .release | 0x22 => some .trainEcho | 0x23 => some .trainEqualizer
  | 0x24 => some .track | 0x25 => some .freeze | 0x26 => some .thaw | 0x27 => some .restart
  | 0x28 => some .setFarWindow | 0x29 => some .adopt | 0x2A => some .queryChannel
  | 0x30 => some .queryStore
  | 0x40 => some .storeProfile | 0x41 => some .storeProfileTaps | 0x42 => some .readProfile
  | 0x43 => some .readProfileTaps | 0x44 => some .dropProfile | 0x45 => some .listProfiles
  | 0x50 => some .readTaps | 0x51 => some .writeTaps
  | 0x60 => some .fetchEvents | 0x61 => some .setEventTrigger
  | _ => none

/-- Response kind codes. -/
def RespKind.code : RespKind → Nat
  | .done => 1 | .deferred => 2 | .retry => 3 | .refused => 4 | .parity => 5

/-- Outcome codes. -/
def Result.code : Result → Nat
  | .bound => 1 | .noRoom => 2 | .aborted => 3 | .faulted => 4 | .converged => 5 | .timedOut => 6
  | .superseded => 7 | .saved => 8 | .notSaved => 9

/-- Reason codes. -/
def Reason.code : Reason → Nat
  | .badRequest => 1 | .outOfRange => 2 | .notAttached => 3 | .notOwner => 4 | .wrongState => 5
  | .slotInUse => 6 | .slotUnusable => 7 | .tagInUse => 8 | .gateClosed => 9 | .gateOpen => 10 | .noRoom => 11
  | .noProfile => 12 | .profileBusy => 13 | .storeFull => 14 | .lockHeld => 15 | .lockBroken => 16
  | .notLocked => 17 | .incomplete => 18 | .noEqualizer => 19

/-- Retry causes. -/
def Cause.code : Cause → Nat
  | .booting => 1 | .waitQueueFull => 2 | .locked => 3 | .inTransfer => 4 | .channelNotReady => 5

/-- Boot status codes. -/
def BootStatus.code : BootStatus → Nat
  | .loading => 0 | .valid => 1 | .noDevice => 2 | .badSignature => 3 | .badChecksum => 4 | .badField => 5

/-- Channel state codes. -/
def ChanState.code : ChanState → Nat
  | .free => 0 | .pending => 1 | .loading => 2 | .bound => 3 | .echoTrain => 4 | .eqTrain => 5 | .tracking => 6
  | .fault => 7 | .releasing => 8

/-- Profile state codes. -/
def ProfState.code : ProfState → Nat
  | .empty => 0 | .filling => 1 | .valid => 2

/-- Profile origin codes. -/
def Origin.code : Origin → Nat
  | .boot => 0 | .stored => 1 | .learned => 2

/-- Profile relation codes. -/
def Relation.code : Relation → Nat
  | .none => 0 | .boundProfile => 1 | .copy => 2 | .learn => 3

/-- NOT_SAVED reason codes. -/
def SaveReason.code : SaveReason → Nat
  | .superseded => 1 | .fault => 2 | .busy => 3 | .storeFull => 4

/-- Lock purposes as LOCK BROKEN reports them (R152). -/
def Purpose.code : Purpose → Nat
  | .channel => 1 | .profileRead => 2 | .fill => 3

/-- The window of a window code (R143, Table 9-9). -/
def windowOfCode (n : Nat) : Option Window :=
  match n with
  | 0 => some .near | 1 => some .far | 2 => some .equalizer | _ => none

/-- The hold set as a word (Table 9-9). -/
def holdWord (x : Context) : Word := word (bit x.freeze 0 + bit x.lock 1)

/-! ### Fields of a request record (Table 9-1) -/

/-- Header bits 15–14. -/
def Request.requester (rq : Request) : Ctl := Fin.ofNat 4 (rq.header.toNat / 16384)

/-- Header bits 13–10. -/
def Request.tag (rq : Request) : Tag := Fin.ofNat 16 (rq.header.toNat / 1024)

/-- Header bits 9–8. -/
def Request.marker (rq : Request) : Marker :=
  match rq.header.toNat / 256 % 4 with
  | 0 => .none | 1 => .begin | 2 => .continue | _ => .ending

/-- Header bits 7–0, as a request kind. -/
def Request.kind (rq : Request) : Option Kind := kindOfCode (rq.header.toNat % 256)

/-- The i-th word after the length word, from 0. -/
def Request.word (rq : Request) (i : Nat) : Word := rq.words.getD i 0

/-- The i-th word after the length word as a number. -/
def Request.num (rq : Request) (i : Nat) : Nat := (rq.word i).toNat

/-- The channel object (Table 9-1); meaningful once `num 0` is at most 31. -/
def Request.chan (rq : Request) : Chan := Fin.ofNat 32 (rq.num 0)

/-- The key object (Table 9-1), high word first. -/
def Request.key (rq : Request) : Key := keyOf (rq.word 0) (rq.word 1)

/-- The record has the length its kind requires and carries marker NONE (R160, R148). -/
def Request.plain (rq : Request) (len : Nat) : Bool := rq.length == len && rq.marker == .none

/-! ### Responses (R162, R168) -/

/-- DONE with its result words. -/
def done (ws : List Word) : Answer :=
  { kind := .done, code := 0, live := false, corrected := 0, marks := none, results := ws }

/-- DEFERRED carries no result words (R164). -/
def deferred : Answer := { done [] with kind := .deferred }

/-- REFUSED with its reason code. -/
def refused (r : Reason) : Answer := { done [] with kind := .refused, code := r.code }

/-- RETRY with its cause. -/
def retry (c : Cause) : Answer := { done [] with kind := .retry, code := c.code }

/-- PARITY carries the header as received (R159). -/
def parityAnswer (rq : Request) : Answer := { done [rq.header] with kind := .parity }

/-- The reason word (Table 9-3). -/
def Answer.reasonWord (a : Answer) : Word :=
  word (a.code % 256 + bit a.live 8 + bit a.marks.isSome 9 + 1024 * (a.corrected % 64))

/-- The two words of invalid-word marks, when there are any (Table 9-3). -/
def Answer.markWords (a : Answer) : List Word :=
  match a.marks with
  | none => []
  | some m => [m.setWidth 16, (m >>> 16).setWidth 16]

/-- A header of the reply lane (Table 9-3): record type 1 is RESPONSE, 2 COMPLETION. -/
def replyHeader (k : Ctl) (t : Tag) (recordType code : Nat) : Word :=
  word (16384 * k.val + 1024 * t.val + 256 * recordType + code)

/-- A response record (Table 9-3); it carries the granted controller's number (R160). -/
def responseRecord (rq : Request) (a : Answer) : List Word :=
  [replyHeader rq.ctl rq.tag 1 a.kind.code, word (1 + a.results.length + a.markWords.length), a.reasonWord]
    ++ a.results ++ a.markWords

/-- A completion record (Table 9-3). -/
def completionRecord (k : Ctl) (t : Tag) (o : Result) (ws : List Word) : List Word :=
  [replyHeader k t 2 o.code, word ws.length] ++ ws

/-- A record as it stands on the reply lane, each word with its parity (R165). -/
def onLane (ws : List Word) : List (Word × Bool) := ws.map fun w => (w, parityBit w)

/-! ### Ordered checks -/

/-- The first failing check of a list gives the answer (R76, R136, R144, R167, R189): each entry holds whether the
check fails and the answer it then gives. -/
def firstFail : List (Bool × Answer) → Option Answer
  | [] => none
  | (fails, a) :: t => if fails then some a else firstFail t

/-! ### BIND operands (R161, Table 9-2) -/

/-- One optional value for each given-set bit of a list, taken from the data words in ascending bit order. -/
def givenFrom (mask : Word) : List Nat → List Word → List (Option Nat)
  | [], _ => []
  | i :: is, ws =>
    if mask.getLsbD i then
      match ws with
      | [] => none :: givenFrom mask is []
      | w :: ws' => some w.toNat :: givenFrom mask is ws'
    else none :: givenFrom mask is ws

/-- The given fields of a BIND by given-set bit. -/
def Request.given (rq : Request) : List (Option Nat) := givenFrom (rq.word 5) (List.range 15) (rq.words.drop 6)

/-- The given value of one field. -/
def Request.givenAt (rq : Request) (i : Nat) : Option Nat := (rq.given.getD i none)

/-- P2 bit 0: a key is present. -/
def Request.keyPresent (rq : Request) : Bool := (rq.word 2).getLsbD 0

/-- P2 bit 1: learn. -/
def Request.learns (rq : Request) : Bool := (rq.word 2).getLsbD 1

/-- P2 bit 2: wait allowed. -/
def Request.mayWait (rq : Request) : Bool := (rq.word 2).getLsbD 2

/-- P3 and P4: the key, when present. -/
def Request.bindKey (rq : Request) : Option Key :=
  if rq.keyPresent then some (keyOf (rq.word 3) (rq.word 4)) else none

/-- A BIND's form (R161): its length, zero bits, learn only with a key, marker NONE. -/
def Request.bindForm (rq : Request) : Bool :=
  rq.plain (6 + ones (rq.word 5)) && (rq.word 2).toNat < 8 && !(rq.word 5).getLsbD 15
    && (rq.keyPresent || !rq.learns)

/-- The ranges of Table 5-3 by given-set bit. -/
def givenRanges : List (Nat × Nat) :=
  [(1, 8), (0, 16), (0, 5120), (0, 1), (0, 31), (0, 31), (0, 31), (0, 31), (0, 240), (0, 240), (1, 4095),
   (1, 65535), (0, 31), (1, 8), (1, 65535)]

/-- A value lies in a range, ends included. -/
def inRange (r : Nat × Nat) (n : Nat) : Bool := decide (r.1 ≤ n ∧ n ≤ r.2)

/-- Every given field lies in its range (R78). -/
def Request.givenInRange (rq : Request) : Bool :=
  (List.zipWith (fun r g => match g with | none => true | some n => inRange r n) givenRanges rq.given).all id

/-- A BIND's range check (R76 step 3, R78). -/
def Request.bindRange (rq : Request) : Bool :=
  rq.num 0 < 32 && rq.num 1 < 32 && rq.bindKey != some 0 && rq.givenInRange

/-! ### STORE PROFILE operands (R137, R164) -/

/-- The descriptor packed in seven words from word `i` on (R164). -/
def Request.descriptor (rq : Request) (i : Nat) : Descriptor :=
  { pinned := (rq.word i).getLsbD 0
    eq := (rq.word i).getLsbD 1
    near := hiByte (rq.word (i + 1)), farHint := loByte (rq.word (i + 1)), bulkHint := rq.num (i + 2)
    aEchoTrain := if (rq.word i).getLsbD 2 then some (hiByte (rq.word (i + 3))) else none
    aEchoTrack := if (rq.word i).getLsbD 3 then some (loByte (rq.word (i + 3))) else none
    aEqTrain := if (rq.word i).getLsbD 4 then some (hiByte (rq.word (i + 4))) else none
    aEqTrack := if (rq.word i).getLsbD 5 then some (loByte (rq.word (i + 4))) else none
    mainTap := hiByte (rq.word (i + 5)), lag := loByte (rq.word (i + 5)), best := rq.num (i + 6) }

/-- An absent exponent, or one within 0–31. -/
def exponentOk : Option Nat → Bool
  | none => true
  | some n => decide (n ≤ 31)

/-- The descriptor's fields lie in their ranges (R137, Table 11-3). -/
def Descriptor.inRange (d : Descriptor) : Bool :=
  decide (1 ≤ d.near ∧ d.near ≤ 8 ∧ d.farHint ≤ 16 ∧ d.bulkHint ≤ 5120 ∧ d.mainTap ≤ 31 ∧ 1 ≤ d.lag ∧ d.lag ≤ 8
    ∧ d.best ≤ 240)
    && exponentOk d.aEchoTrain && exponentOk d.aEchoTrack && exponentOk d.aEqTrain && exponentOk d.aEqTrack

/-- The chunks a descriptor names: 0 to near − 1, and 8 with equalizer taps (section 7.1). -/
def namedChunks (near : Nat) (eq : Bool) : BitVec 9 := BitVec.ofNat 9 (2 ^ near - 1 + bit eq 8)

/-! ### Site defaults words (Table 11-1) -/

/-- The 15 words of part 0. -/
def zeroWords (p : PartZero) : List Word :=
  [(match p.law with | .mu => 0 | .a => 1), (p.usable >>> 16).setWidth 16, p.usable.setWidth 16]
    ++ (List.finRange 4).flatMap (fun k => [word p.shareSeg[k], word p.sharePage[k]])
    ++ [word p.lockLimit, word p.waitLimit, word p.evLevel, word p.evHold]

/-- The 22 words of part 1. -/
def oneWords (p : PartOne) : List Word :=
  [word p.aEchoTrain, word p.aEchoTrack, word p.aEqTrain, word p.aEqTrack, word p.erleTarget, word p.qualTarget,
   word p.holdCount, word p.timeout, word p.gate] ++ twoWords p.pfloor
    ++ [word p.guard, word p.degradeMargin, word p.degradeCount, word p.quietLevel, word p.quietLimit,
        word p.mainTap, word p.lag, word p.near, word p.far, word p.bulk, word (bit p.eq 0)]

/-- The i-th word of a part as a number. -/
def partNum (ws : List Word) (i : Nat) : Nat := (ws.getD i 0).toNat

/-- Part 0 passes the range check of R189 step 3. -/
def zeroInRange (ws : List Word) : Bool :=
  let n := partNum ws
  decide (n 0 ≤ 1)
    && (List.range 8).all (fun i => decide (n (3 + i) ≤ 256))
    && decide (n 3 + n 5 + n 7 + n 9 ≤ 256) && decide (n 4 + n 6 + n 8 + n 10 ≤ 256)
    && decide (1 ≤ n 11) && decide (1 ≤ n 12) && decide (n 14 ≤ 255)

/-- Part 0 as installed, clamped and rounded (R189 step 4). -/
def zeroOf (ws : List Word) : PartZero :=
  let n := partNum ws
  { law := if n 0 = 0 then .mu else .a
    usable := ws.getD 1 0 ++ ws.getD 2 0
    shareSeg := #v[n 3, n 5, n 7, n 9], sharePage := #v[n 4, n 6, n 8, n 10]
    lockLimit := min (n 11) 1000, waitLimit := n 12, evLevel := roundLevel (n 13), evHold := max 1 (n 14) }

/-- The Pfloor of part 1's words 10–11. -/
def pfloorOf (ws : List Word) : Nat := 65536 * partNum ws 9 + partNum ws 10

/-- Part 1 passes the range check of R189 step 3; the targets are clamped, not checked. -/
def oneInRange (ws : List Word) : Bool :=
  let n := partNum ws
  decide (n 0 ≤ 31 ∧ n 1 ≤ 31 ∧ n 2 ≤ 31 ∧ n 3 ≤ 31)
    && inRange (1, 4095) (n 6) && decide (1 ≤ n 7) && decide (n 8 ≤ 240) && inRange (1, 1048576) (pfloorOf ws)
    && decide (n 11 ≤ 240 ∧ n 12 ≤ 240 ∧ 1 ≤ n 13 ∧ n 14 ≤ 240 ∧ 1 ≤ n 15 ∧ n 16 ≤ 31)
    && inRange (1, 8) (n 17) && inRange (1, 8) (n 18) && decide (n 19 ≤ 16 ∧ n 20 ≤ 5120 ∧ n 21 ≤ 1)
    && (decide (n 19 = 0) || decide (32 * n 18 ≤ n 20))

/-- Part 1 as installed, clamped (R189 step 4). -/
def oneOf (ws : List Word) : PartOne :=
  let n := partNum ws
  { aEchoTrain := n 0, aEchoTrack := n 1, aEqTrain := n 2, aEqTrack := n 3
    erleTarget := min (n 4) 240, qualTarget := min (n 5) 240, holdCount := n 6, timeout := n 7, gate := n 8
    pfloor := pfloorOf ws, guard := n 11, degradeMargin := n 12, degradeCount := n 13, quietLevel := n 14
    quietLimit := n 15, mainTap := n 16, lag := n 17, near := n 18, far := n 19, bulk := n 20
    eq := decide (n 21 = 1) }

end Sys2Proof.Machine
end

