-- ==== Sys2Proof/Machine/Ops.lean ====
section
/-! DEFINITION. The named operations over State that the commands share: access by number, time, events (R179–R182),
the deferred table (R170, R171), completions, the profile store (R121–R126), the stores and the wait queue (R100–R117),
faults (R95), locks (R147–R155), and the response stage (R166, R167). -/

namespace Sys2Proof.Machine

/-! ### Access by number -/

/-- Replace a channel's context. -/
def State.setChan (s : State) (c : Chan) (x : Context) : State := { s with chans := s.chans.set c x }

/-- Change a channel's context. -/
def State.modChan (s : State) (c : Chan) (f : Context → Context) : State := s.setChan c (f s.chans[c])

/-- Replace a controller's event state. -/
def State.setFifo (s : State) (k : Ctl) (f : Fifo) : State := { s with fifos := s.fifos.set k f }

/-- Replace a controller's place in the lock table. -/
def State.setLock (s : State) (k : Ctl) (l : Option Lock) : State := { s with locks := s.locks.set k l }

/-- Replace a profile record. -/
def State.setRec (s : State) (r : Rec) (p : Profile) : State :=
  { s with pfs := { s.pfs with recs := s.pfs.recs.set r p } }

/-- Replace the recency list. -/
def State.setRecency (s : State) (l : List Rec) : State := { s with pfs := { s.pfs with recency := l } }

/-- Replace the Store Allocator. -/
def State.setSal (s : State) (m : Sal) : State := { s with sal := m }

/-- Replace the Control Bus Interface. -/
def State.setCbi (s : State) (b : Cbi) : State := { s with cbi := b }

/-- Replace the Boot Loader and Timebase. -/
def State.setBtl (s : State) (b : Btl) : State := { s with btl := b }

/-- Replace the Highway Interface. -/
def State.setHwi (s : State) (h : Hwi) : State := { s with hwi := h }

/-- Replace the transfer job queue. -/
def State.setJobs (s : State) (js : List Job) : State := { s with jobs := js }

/-- The resolved parameters of a context; a context without any reads as zeros (log entry 36). -/
def Context.par (x : Context) : Params :=
  x.params.getD
    { near := 0, far := 0, bulk := 0, eq := false, aEchoTrain := 0, aEchoTrack := 0, aEqTrain := 0, aEqTrack := 0
      erleTarget := 0, qualTarget := 0, holdCount := 0, timeout := 0, mainTap := 0, lag := 0, waitLimit := 0 }

/-! ### Time (R187) -/

/-- Milliseconds of the timebase since a time, across the 32-bit wrap (R187). -/
def elapsed (s : State) (t : Time) : Nat := (s.btl.timebase - t).toNat

/-- An interval of n milliseconds since a time has passed; while RESET is low the limits stand still (log entry 6). -/
def timeReached (s : State) (t : Time) (n : Nat) : Bool := !s.btl.resetLow && decide (n ≤ elapsed s t)

/-! ### Events (R179–R182) -/

/-- Evaluate a controller's event line (R182). -/
def evalLine (k : Ctl) (s : State) : State :=
  s.setFifo k { s.fifos[k] with line := lineAsserted s.cbi.attached[k] s.btl.resetLow s.btl.timebase s.fifos[k] }

/-- Place an event in a controller's FIFO: nothing while it is DETACHED (R179), the overflow flag when the FIFO is full
(R181). -/
def postTo (k : Ctl) (kind : EventKind) (chan : Option Chan) (detail : Nat) (s : State) : State :=
  if s.cbi.attached[k] then
    let f := s.fifos[k]
    evalLine k (s.setFifo k
      (if f.entries.length < Config.fifoPlaces then
        { f with entries := f.entries ++ [{ kind, chan, detail := word detail, posted := s.btl.timebase }] }
       else { f with overflow := true }))
  else s

/-- Post an event to every attached controller (R179). -/
def postAll (kind : EventKind) (chan : Option Chan) (detail : Nat) (s : State) : State :=
  (List.finRange 4).foldl (fun s k => postTo k kind chan detail s) s

/-- Post an event to a channel's owner; an orphaned channel's event is discarded (R179). -/
def postOwner (c : Chan) (kind : EventKind) (detail : Nat) (s : State) : State :=
  match s.chans[c].owner with
  | none => s
  | some k => postTo k kind (some c) detail s

/-! ### The deferred table (R170, R171) -/

/-- A deferred entry is the one of a controller and tag. -/
def Deferred.is (e : Deferred) (k : Ctl) (t : Tag) : Bool := e.ctl == k && e.tag == t

/-- The tag is outstanding for its controller (R170). -/
def tagOutstanding (s : State) (k : Ctl) (t : Tag) : Bool := s.cbi.deferred.any fun e => e.is k t

/-- Make a WAITING entry for a request answered DEFERRED (R170). -/
def makeDeferred (rq : Request) (s : State) : State :=
  s.setCbi { s.cbi with deferred :=
    s.cbi.deferred ++ [{ ctl := rq.ctl, tag := rq.tag, ready := false, announced := false, outcome := none }] }

/-- Post an outcome to a deferred entry: READY at once if its DEFERRED response has been sent (R171). -/
def postOutcome (k : Ctl) (t : Tag) (o : Result) (ws : List Word) (s : State) : State :=
  s.setCbi { s.cbi with
    deferred := s.cbi.deferred.map fun e =>
      if e.is k t then { e with outcome := some (o, ws), ready := e.announced } else e
    ready := if s.cbi.deferred.any (fun e => e.is k t && e.announced) then s.cbi.ready ++ [(k, t)]
      else s.cbi.ready }

/-- Post an outcome through a channel's deferred link; without a link or an owner no completion is sent (R71, R97). -/
def postLink (c : Chan) (link : Option Tag) (o : Result) (ws : List Word) (s : State) : State :=
  match s.chans[c].owner, link with
  | some k, some t => postOutcome k t o ws s
  | _, _ => s

/-- The result words of a training completion (R65, R164). -/
def trainingWords (x : Context) : List Word :=
  let echo := x.state == .echoTrain
  [word (if echo then 0 else 1), word (if echo then erle x else quality x),
   word (if echo then quality x else erle x), word x.trainFrames, word x.streak, word x.guarded]

/-- Complete a training in progress; no effect outside training (R65, R90–R95). -/
def completeTraining (c : Chan) (o : Result) (s : State) : State :=
  if inTraining s.chans[c].state then
    (postLink c s.chans[c].trainLink o (trainingWords s.chans[c]) s).modChan c fun x => { x with trainLink := none }
  else s

/-- The ten result words of a BIND (R85, R164). -/
def bindWords (c : Chan) (o : Result) (x : Context) : List Word :=
  [word c.val, word o.code, word x.state.code, word x.relation.code, word x.par.near, word x.par.far,
   word x.par.bulk, word (bit x.par.eq 0), word x.par.mainTap, word x.par.lag]

/-- Complete a channel's BIND with the fields as they stand (R85). -/
def completeBind (c : Chan) (o : Result) (s : State) : State :=
  (postLink c s.chans[c].bindLink o (bindWords c o s.chans[c]) s).modChan c fun x => { x with bindLink := none }

/-- Complete a channel's RELEASE: the channel, the NOT_SAVED reason or 0, the key (R89, R164). -/
def completeRelease (c : Chan) (o : Result) (reason : Nat) (key : Option Key) (s : State) : State :=
  (postLink c s.chans[c].bindLink o ([word c.val, word reason] ++ keyWords key) s).modChan c
    fun x => { x with bindLink := none }

/-! ### Profiles (R121–R126) -/

/-- The profile under a key: the FILLING or VALID record that holds it (R121). -/
def findProfile (k : Key) (s : State) : Option Rec :=
  (List.finRange 64).find? fun r => s.pfs.recs[r].state != .empty && s.pfs.recs[r].key == some k

/-- The VALID profile under a key (R125). -/
def findValid (k : Key) (s : State) : Option Rec :=
  (findProfile k s).filter fun r => s.pfs.recs[r].state == .valid

/-- The recency list with a record moved, or put, to its front (R123). -/
def toFront (r : Rec) (l : List Rec) : List Rec := r :: l.filter (· != r)

/-- The profile is the source of a LOAD job in the job queue (R124, R137, R141). -/
def loadSource (k : Key) (s : State) : Bool := s.jobs.any fun j => j.kind == .load && j.key == k

/-- The record becomes EMPTY: it loses its key, its binding and its place in the recency list (R122). -/
def emptyRecord (r : Rec) (s : State) : State :=
  let s' := (s.setRec r emptyProfile).setRecency (s.pfs.recency.filter (· != r))
  match s.pfs.recs[r].boundChan with
  | none => s'
  | some c => s'.modChan c fun x => { x with bound := none }

/-- Remove a channel's job, wherever it stands (R135). -/
def cancelJob (c : Chan) (s : State) : State := s.setJobs (s.jobs.filter fun j => j.chan != c)

/-- Queue the LOAD job of a granted channel from a VALID record: count n near chunks and the equalizer chunk where both
have one, clear the load key, raise the use count and move the profile to the recency front (R84, R126). -/
def queueLoad (c : Chan) (k : Key) (r : Rec) (s : State) : State :=
  let p := s.pfs.recs[r]
  let q := s.chans[c].par
  let eqLast := p.desc.eq && q.eq
  let job : Job :=
    { kind := .load, chan := c, key := k, count := min p.desc.near q.near + (if eqLast then 1 else 0), moved := 0
      eqLast, queuedAt := s.hwi.line.frame }
  (((s.setRec r { p with useCount := min 65535 (p.useCount + 1) }).setRecency (toFront r s.pfs.recency)).setJobs
    (s.jobs ++ [job])).modChan c fun x => { x with load := none, state := .loading }

/-! ### The stores (R100–R118) -/

/-- The equalizer segment of a channel that has one (R24). -/
def Context.eqSeg (x : Context) : Option Seg :=
  if x.par.eq then x.segs[x.par.near + x.par.far]? else none

/-- The 32 words of unit initialisation (R43). -/
def unitWords (m : Nat) : List Word := (List.range 32).map fun i => if i = m then word 16384 else 0

/-- Unit initialisation of a channel's equalizer segment, where it has one (R43). -/
def unitInit (x : Context) (sal : Sal) : Sal :=
  match x.eqSeg with
  | none => sal
  | some g => writeSegment g (unitWords x.par.mainTap) sal

/-- Change a controller's holdings (R108). -/
def setHeld (k : Ctl) (segs pages : Nat) (sal : Sal) : Sal :=
  { sal with heldSeg := sal.heldSeg.set k segs, heldPage := sal.heldPage.set k pages }

/-- Credit units to an owner's holdings, none's to nobody (R108). -/
def credit (o : Option Ctl) (segs pages : Nat) (sal : Sal) : Sal :=
  match o with
  | none => sal
  | some k => setHeld k (sal.heldSeg[k] + segs) (sal.heldPage[k] + pages) sal

/-- Take units from an owner's holdings (R108). -/
def debit (o : Option Ctl) (segs pages : Nat) (sal : Sal) : Sal :=
  match o with
  | none => sal
  | some k => setHeld k (sal.heldSeg[k] - segs) (sal.heldPage[k] - pages) sal

/-- Return units to the free sets (R117). -/
def returnUnits (segs : List Seg) (pages : List Page) (sal : Sal) : Sal :=
  { sal with freeSegs := insertUnits segs sal.freeSegs, freePages := insertUnits pages sal.freePages }

/-- Allocate the lowest-numbered free units and zero them (R102). -/
def allocate (segs pages : Nat) (sal : Sal) : Sal :=
  zeroPages (sal.freePages.take pages) (zeroSegments (sal.freeSegs.take segs)
    { sal with freeSegs := sal.freeSegs.drop segs, freePages := sal.freePages.drop pages })

/-- The segment reserve against a controller (R110). -/
def reserveSeg (k : Ctl) (s : State) : Nat :=
  ((List.finRange 4).map fun j =>
    if j ≠ k ∧ s.cbi.attached[j] then s.btl.part0.shareSeg[j] - s.sal.heldSeg[j] else 0).sum

/-- The page reserve against a controller (R110). -/
def reservePage (k : Ctl) (s : State) : Nat :=
  ((List.finRange 4).map fun j =>
    if j ≠ k ∧ s.cbi.attached[j] then s.btl.part0.sharePage[j] - s.sal.heldPage[j] else 0).sum

/-- The reservation check (R110). -/
def roomFor (k : Ctl) (segs pages : Nat) (s : State) : Bool :=
  decide (reserveSeg k s + segs ≤ s.sal.freeSegs.length ∧ reservePage k s + pages ≤ s.sal.freePages.length)

/-- The context at bind (R82): lists filled, filter state, counters, flags and figure initialised. -/
def Context.atBind (segs : List Seg) (pages : List Page) (x : Context) : Context :=
  { x with
    segs, pages, w := 0, resid := List.replicate 40 0, lagLine := List.replicate 8 0
    pr := 0, py := 0, pe := 0, pd := 0, peps := 0
    trainFrames := 0, streak := 0, guarded := 0, degradeStreak := 0, quietStreak := 0
    eccCount := 0, parityCount := 0, convErle := none
    converged := false, degraded := false, quiet := false, firstCorr := false }

/-- Load or bound after a grant (R83, R126): a LOAD job when the load key names a VALID profile, otherwise BOUND, which
completes the BIND of a channel that waited. -/
def enterGranted (c : Chan) (s : State) : State :=
  match s.chans[c].load.bind fun k => (findValid k s).map fun r => (k, r) with
  | some (k, r) => queueLoad c k r s
  | none => completeBind c .bound (s.modChan c fun x => { x with load := none, state := .bound })

/-- A grant of units to a channel (R82, R114). -/
def grant (c : Chan) (segs pages : Nat) (s : State) : State :=
  let x := s.chans[c].atBind (s.sal.freeSegs.take segs) (s.sal.freePages.take pages)
  enterGranted c
    ((s.setSal (unitInit x (credit x.owner segs pages (allocate segs pages s.sal)))).setChan c x)

/-- Re-check the head of the wait queue, granting in order until it fails (R113). -/
def recheckFrom : Nat → State → State
  | 0, s => s
  | n + 1, s =>
    match s.sal.waitQ with
    | [] => s
    | e :: rest =>
      if roomFor e.ctl e.segs e.pages s then
        recheckFrom n (grant e.chan e.segs e.pages (s.setSal { s.sal with waitQ := rest }))
      else s

/-- Re-check the head of the wait queue (R113). -/
def recheck (s : State) : State := recheckFrom s.sal.waitQ.length s

/-- Remove a channel's wait entry (R116). -/
def removeWait (c : Chan) (s : State) : State :=
  s.setSal { s.sal with waitQ := s.sal.waitQ.filter fun e => e.chan != c }

/-- Empty a channel's input record and holding slot (R13, R15). -/
def emptySlots (c : Chan) (s : State) : State :=
  s.setHwi { s.hwi with inputs := s.hwi.inputs.set c emptyInput, outputs := s.hwi.outputs.set c emptyHold }

/-- Clear the held channel of every lock entry that holds a channel (R154, R156). -/
def clearHeld (c : Chan) (s : State) : State :=
  (List.finRange 4).foldl (fun s k =>
    match s.locks[k] with
    | none => s
    | some l => if l.held = some c then s.setLock k (some { l with held := none }) else s) s

/-- Leave a channel's bound profile unbound (R72, R125). -/
def unbindProfile (c : Chan) (s : State) : State :=
  (List.finRange 64).foldl (fun s r =>
    if s.pfs.recs[r].boundChan = some c then s.setRec r { s.pfs.recs[r] with boundChan := none } else s) s

/-- The context on entry to FREE (R72). -/
def Context.freed (x : Context) : Context :=
  { x with
    state := .free, owner := none, slot := none, segs := [], pages := [], freeze := false, lock := false
    bound := none, learn := none, load := none, relation := .none, trainLink := none, bindLink := none }

/-- A channel enters FREE (R72, R117): units returned, profile unbound, timeslot unmapped, records emptied. The caller
re-checks the wait queue (R113). -/
def enterFree (c : Chan) (s : State) : State :=
  let x := s.chans[c]
  unbindProfile c (clearHeld c (emptySlots c
    ((s.setSal (debit x.owner x.segs.length x.pages.length (returnUnits x.segs x.pages s.sal))).setChan c x.freed)))

/-! ### Faults and corrections (R31, R95) -/

/-- A channel enters FAULT (R95). -/
def enterFault (c : Chan) (addr : Nat) (s : State) : State :=
  let wasLoading := s.chans[c].state == .loading
  let s1 := (completeTraining c .faulted s).modChan c fun x => { x with state := .fault }
  let s2 := if wasLoading then completeBind c .faulted (cancelJob c s1) else s1
  postOwner c .channelFault addr s2

/-- The address of the first word of a class. -/
def firstOf (p : TapClass → Bool) (rd : List TapRead) : Option Nat := (rd.find? fun r => p r.cls).map TapRead.addr

/-- The word is classed corrected. -/
def TapClass.isCorrected : TapClass → Bool
  | .corrected _ => true
  | .good _ | .uncorrectable => false

/-- The word is classed uncorrectable. -/
def TapClass.isBad : TapClass → Bool
  | .uncorrectable => true
  | .good _ | .corrected _ => false

/-- The number of corrected words. -/
def correctedCount (rd : List TapRead) : Nat := (rd.filter fun r => r.cls.isCorrected).length

/-- Apply a read's corrections (R31, R105, R134, R140, R145): write back, count, and report the first since bind. -/
def applyCorrections (c : Chan) (rd : List TapRead) (s : State) : State :=
  match firstOf TapClass.isCorrected rd with
  | none => s
  | some a =>
    let s1 := (s.setSal (writeBack rd s.sal)).modChan c fun x =>
      { x with eccCount := min 255 (x.eccCount + correctedCount rd), firstCorr := true }
    if s.chans[c].firstCorr then s1 else postOwner c .eccCorrected a s1

/-! ### Locks (R147–R155) -/

/-- The lock is ACTIVE and its object is this one. -/
def Lock.locks (l : Lock) (o : LockObj) : Bool := l.active && l.obj == o

/-- The object is that of an ACTIVE lock of a controller other than k (R149, R151). -/
def lockedByOther (k : Ctl) (o : LockObj) (s : State) : Bool :=
  (List.finRange 4).any fun j => j != k && (s.locks[j].any fun l => l.locks o)

/-- The object is that of an ACTIVE lock of any controller. -/
def lockedByAny (o : LockObj) (s : State) : Bool := (List.finRange 4).any fun j => s.locks[j].any fun l => l.locks o

/-- The channel is held by an ACTIVE lock of controller k. -/
def heldBy (k : Ctl) (c : Chan) (s : State) : Bool := s.locks[k].any fun l => l.active && l.held == some c

/-- The channel's hold set carries LOCK for the entry of a controller other than k (R146, R149). -/
def heldByOther (k : Ctl) (c : Chan) (s : State) : Bool := (List.finRange 4).any fun j => j != k && heldBy j c s

/-- Remove LOCK from the held channel of an entry, if any (R150, R152, R155). -/
def unholdChan (l : Lock) (s : State) : State :=
  match l.held with
  | none => s
  | some c => s.modChan c fun x => { x with lock := false }

/-- A FILL's record becomes EMPTY (R138). -/
def dropFill (l : Lock) (s : State) : State :=
  match l.purpose, l.obj with
  | .fill, .profile k => if l.active then (match findProfile k s with | none => s | some r => emptyRecord r s) else s
  | _, _ => s

/-- End a controller's lock: its entry is removed, and LOCK from the held channel (R150, R154). -/
def endLock (k : Ctl) (s : State) : State :=
  match s.locks[k] with
  | none => s
  | some l => (unholdChan l s).setLock k none

/-- An ACTIVE lock breaks (R152). -/
def breakLock (k : Ctl) (l : Lock) (s : State) : State :=
  (postTo k .lockBroken l.held l.purpose.code (dropFill l (unholdChan l s))).setLock k
    (some { l with active := false, held := none })

/-- The lock has reached the lock limit (R152). -/
def lockDue (k : Ctl) (s : State) : Option Lock :=
  s.locks[k].filter fun l => l.active && timeReached s l.last s.btl.part0.lockLimit

/-- Break a controller's lock if it has reached the limit (R152). -/
def expireLock (k : Ctl) (s : State) : State :=
  match lockDue k s with
  | none => s
  | some l => breakLock k l s

/-- The lock step of a request that accepts markers: a failing answer, or none to go on. `objCheck` gives the answer of
steps 2 and 3 of R149 for a BEGIN; `mismatch` says that the entry does not admit the request (R150). A BEGIN discards a
broken entry, and so does a CONTINUE or END refused LOCK_BROKEN (R148). -/
def lockStep (rq : Request) (obj : LockObj) (objCheck : Option Answer) (mismatch : Lock → Bool) (s : State) :
    State × Option Answer :=
  match rq.marker with
  | .none => (s, none)
  | .begin =>
    match s.locks[rq.ctl] with
    | some l => if l.active then (s, some (refused .lockHeld)) else (s.setLock rq.ctl none, objCheck)
    | none => (s, objCheck)
  | .continue | .ending =>
    match s.locks[rq.ctl] with
    | none => (s, some (refused .notLocked))
    | some l =>
      if !l.active then (s.setLock rq.ctl none, some (refused .lockBroken))
      else if l.obj != obj || mismatch l then (s, some (refused .lockHeld))
      else (s, none)

/-- The marker's effect when the request is answered DONE (R149, R150): a BEGIN makes the entry with its held channel, a
CONTINUE renews it, an END ends it. -/
def markerEffect (rq : Request) (obj : LockObj) (purpose : Purpose) (held : Option Chan) (s : State) : State :=
  match rq.marker with
  | .none => s
  | .begin =>
    let s1 := s.setLock rq.ctl (some { obj, purpose, active := true, last := s.btl.timebase, held })
    match held with
    | none => s1
    | some c => s1.modChan c fun x => { x with lock := true }
  | .continue =>
    match s.locks[rq.ctl] with
    | none => s
    | some l => s.setLock rq.ctl (some { l with last := s.btl.timebase })
  | .ending => endLock rq.ctl s

/-! ### The response stage (R166, R167) -/

/-- The oldest undecided request; every request ahead of it has been decided (R166). -/
def nextRequest (s : State) : Option Request := s.cbi.queue.find? fun r => r.answer.isNone

/-- A request with its response formed (R166); a DEFERRED response announces its entry (R171). -/
def Request.decide (rq : Request) (a : Answer) : Request :=
  { rq with answer := some a, announces := a.kind == .deferred }

/-- Decide the oldest undecided request of a queue. -/
def decideFirst (a : Answer) : List Request → List Request
  | [] => []
  | r :: t => if r.answer.isNone then r.decide a :: t else r :: decideFirst a t

/-- Form the response of the request being taken. -/
def answerFirst (a : Answer) (s : State) : State := s.setCbi { s.cbi with queue := decideFirst a s.cbi.queue }

/-- Checks 2 to 6 of the response stage (R167), in order. -/
def busChecks (rq : Request) (s : State) : Option Answer :=
  firstFail
    [ (rq.requester != rq.ctl, refused .badRequest),
      (s.btl.status == .loading && rq.kind != some .queryPart, retry .booting),
      (!s.cbi.attached[rq.ctl] && rq.kind != some .attach && rq.kind != some .queryPart, refused .notAttached),
      (rq.kind.isNone, refused .badRequest),
      (tagOutstanding s rq.ctl rq.tag, refused .tagInUse) ]

/-- The step in which the oldest undecided request is taken (R166), for the requests a command stands for. `own` is the
owning block. From the decision of a PART RESET no request is taken (R178). When the oldest undecided request is not one
of the command's, nothing is taken (log entry 3). -/
def takeRequest (mine : Request → Bool) (own : Request → State → State × Answer) (s : State) : State :=
  if s.cbi.resetPending then s
  else
    match nextRequest s with
    | none => s
    | some rq =>
      if mine rq then
        match busChecks rq s with
        | some a => answerFirst a s
        | none => answerFirst (own rq s).2 (own rq s).1
      else s

/-- The record passed parity and its kind code is this kind's. -/
def isKind (k : Kind) (rq : Request) : Bool := !rq.parityBad && rq.kind == some k

/-- Decide by ordered checks, then by the block's effect. -/
def checked (checks : List (Bool × Answer)) (effect : State → State × Answer) (s : State) : State × Answer :=
  match firstFail checks with
  | some a => (s, a)
  | none => effect s

end Sys2Proof.Machine
end

