-- ==== Sys2Proof/Machine/Admin.lean ====
section
/-! DEFINITION. The administration requests (R173–R178) and the site defaults requests (R189, R190). -/

namespace Sys2Proof.Machine

/-! ### ATTACH (R173) -/

/-- The controller table as a number, bit k for controller k (R173, R177). -/
def attachedMask (s : State) : Nat := ((List.finRange 4).map fun k => bit s.cbi.attached[k] k.val).sum

/-- A controller becomes ATTACHED (R173, R185): empty FIFO, trigger settings of the site defaults, empty lock place. -/
def attachCtl (k : Ctl) (s : State) : State :=
  if s.cbi.attached[k] then s
  else
    ((s.setCbi { s.cbi with attached := s.cbi.attached.set k true }).setFifo k
      { initialFifo with level := s.btl.part0.evLevel, hold := s.btl.part0.evHold }).setLock k none

/-- ATTACH (R173). -/
def ownAttach (rq : Request) (s : State) : State × Answer :=
  checked [(!rq.plain 0, refused .badRequest)]
    (fun s => (attachCtl rq.ctl s, done [word rq.ctl.val, word (attachedMask (attachCtl rq.ctl s))])) s

/-- ATTACH is taken (R166, R173). -/
def execAttach (s : State) : Host.Outcome State Fault Refusal := .next (takeRequest (isKind .attach) ownAttach s)

/-! ### DETACH (R174) -/

/-- A controller's deferred entries are discarded (R174 step 2); responses already formed are still sent (R175), but
announce nothing any more (log entry 16). -/
def discardDeferred (k : Ctl) (s : State) : State :=
  s.setCbi { s.cbi with
    deferred := s.cbi.deferred.filter fun e => e.ctl != k
    ready := s.cbi.ready.filter fun p => p.1 != k
    queue := s.cbi.queue.map fun rq => if rq.ctl = k then { rq with announces := false } else rq }

/-- A detached controller's lock entry is removed without an event (R155). -/
def detachLock (k : Ctl) (s : State) : State :=
  match s.locks[k] with
  | none => s
  | some l => (dropFill l (unholdChan l s)).setLock k none

/-- A channel of a detached controller (R97): freed from PENDING, orphaned otherwise. -/
def detachChan (k : Ctl) (s : State) (c : Chan) : State :=
  if s.chans[c].owner = some k then
    if s.chans[c].state = .pending then enterFree c (removeWait c s)
    else
      postAll .channelOrphaned (some c) k.val
        (s.modChan c fun x => { x with owner := none, trainLink := none, bindLink := none })
  else s

/-- The controller's channels for which p holds (R174). -/
def countOwned (k : Ctl) (p : ChanState → Bool) (s : State) : Nat :=
  ((List.finRange 32).filter fun c => s.chans[c].owner == some k && p s.chans[c].state).length

/-- The holdings of a detached controller become 0 (R108, R119). -/
def dropHoldings (k : Ctl) (s : State) : State := s.setSal (setHeld k 0 0 s.sal)

/-- A detached controller's FIFO is emptied, its settings kept (R174 step 5, R185). -/
def emptyFifo (k : Ctl) (s : State) : State :=
  s.setFifo k { s.fifos[k] with entries := [], overflow := false, line := false }

/-- The six parts of DETACH, in one step (R174). -/
def detachCtl (k : Ctl) (s : State) : State :=
  let s1 := detachLock k (discardDeferred k (s.setCbi { s.cbi with attached := s.cbi.attached.set k false }))
  recheck (emptyFifo k (dropHoldings k ((List.finRange 32).foldl (detachChan k) s1)))

/-- The result words of DETACH (R174). -/
def detachWords (k : Ctl) (s : State) : List Word :=
  [word k.val, word (countOwned k (· != .pending) s), word (countOwned k (· == .pending) s),
   word (s.cbi.deferred.filter fun e => e.ctl == k).length]

/-- DETACH (R174). R174 names the refusals without an order between the form and the range; the model tests the form
first, as R76 and R136 do (log entry 41). -/
def ownDetach (rq : Request) (s : State) : State × Answer :=
  let k : Ctl := Fin.ofNat 4 (rq.num 0)
  checked [(!rq.plain 1, refused .badRequest), (decide (3 < rq.num 0), refused .outOfRange)]
    (fun s => if s.cbi.attached[k] then (detachCtl k s, done (detachWords k s))
      else (s, done [word k.val, 0, 0, 0])) s

/-- DETACH is taken (R166, R174). -/
def execDetach (s : State) : Host.Outcome State Fault Refusal := .next (takeRequest (isKind .detach) ownDetach s)

/-! ### The service gate (R176) -/

/-- OPEN SERVICE (R176). -/
def ownOpenService (rq : Request) (s : State) : State × Answer :=
  checked [(!rq.plain 0, refused .badRequest)]
    (fun s => (s.setBtl { s.btl with gateOpen := true }, done [1])) s

/-- OPEN SERVICE is taken (R166, R176). -/
def execOpenService (s : State) : Host.Outcome State Fault Refusal :=
  .next (takeRequest (isKind .openService) ownOpenService s)

/-- Every channel is FREE (R176). -/
def allFree (s : State) : Bool := s.chans.toList.all fun x => x.state == .free

/-- CLOSE SERVICE (R176). -/
def ownCloseService (rq : Request) (s : State) : State × Answer :=
  checked [(!rq.plain 0, refused .badRequest), (s.btl.gateOpen && !allFree s, refused .wrongState)]
    (fun s => (s.setBtl { s.btl with gateOpen := false }, done [0])) s

/-- CLOSE SERVICE is taken (R166, R176). -/
def execCloseService (s : State) : Host.Outcome State Fault Refusal :=
  .next (takeRequest (isKind .closeService) ownCloseService s)

/-! ### QUERY PART and PART RESET (R177, R178) -/

/-- The twelve words of Table 9-6. -/
def partWords (rq : Request) (s : State) : List Word :=
  [word Config.memberCode, word s.btl.status.code, word (bit s.btl.gateOpen 0),
   word (bit s.hwi.line.inSync 0 + bit s.hwi.modem.inSync 1)] ++ twoWords s.btl.timebase.toNat
    ++ [word (attachedMask s + 16 * rq.ctl.val),
        word (s.cbi.queue.length + if s.cbi.grant.isSome then 1 else 0)]
    ++ (List.finRange 4).map fun k => word (s.cbi.deferred.filter fun e => e.ctl == k).length

/-- QUERY PART (R177). -/
def ownQueryPart (rq : Request) (s : State) : State × Answer :=
  checked [(!rq.plain 0, refused .badRequest)] (fun s => (s, done (partWords rq s))) s

/-- QUERY PART is taken (R166, R177). -/
def execQueryPart (s : State) : Host.Outcome State Fault Refusal :=
  .next (takeRequest (isKind .queryPart) ownQueryPart s)

/-- PART RESET (R178): from its decision nothing is granted and no request is taken. -/
def ownPartReset (rq : Request) (s : State) : State × Answer :=
  checked [(!rq.plain 0, refused .badRequest)]
    (fun s => (s.setCbi { s.cbi with resetPending := true }, done [])) s

/-- PART RESET is taken (R166, R178). -/
def execPartReset (s : State) : Host.Outcome State Fault Refusal :=
  .next (takeRequest (isKind .partReset) ownPartReset s)

/-! ### Site defaults (R189, R190) -/

/-- The number of words of a part (R189). -/
def partSize (n : Nat) : Nat := if n = 0 then 15 else 22

/-- The words of a part as they stand (R190). -/
def defaultWords (n : Nat) (s : State) : List Word :=
  if n = 0 then zeroWords s.btl.part0 else oneWords s.btl.part1

/-- Install a part (R189 step 4). Locks that meet a lowered limit break in the same step (R152, log entry 31). -/
def installPart (n : Nat) (ws : List Word) (s : State) : State :=
  if n = 0 then
    (List.finRange 4).foldl (fun s k => expireLock k s) (s.setBtl { s.btl with part0 := zeroOf ws })
  else s.setBtl { s.btl with part1 := oneOf ws }

/-- SET DEFAULTS (R189). -/
def ownSetDefaults (rq : Request) (s : State) : State × Answer :=
  let n := rq.num 0
  let ws := rq.words.drop 1
  checked
    [ (decide (1 < n) || !rq.plain (1 + partSize n), refused .badRequest),
      (s.btl.gateOpen, refused .gateOpen),
      (!(if n = 0 then zeroInRange ws else oneInRange ws), refused .outOfRange) ]
    (fun s => (installPart n ws s, done (defaultWords n (installPart n ws s)))) s

/-- SET DEFAULTS is taken (R166, R189). -/
def execSetDefaults (s : State) : Host.Outcome State Fault Refusal :=
  .next (takeRequest (isKind .setDefaults) ownSetDefaults s)

/-- READ DEFAULTS (R190). -/
def ownReadDefaults (rq : Request) (s : State) : State × Answer :=
  checked [(decide (1 < rq.num 0) || !rq.plain 1, refused .badRequest)]
    (fun s => (s, done (defaultWords (rq.num 0) s))) s

/-- READ DEFAULTS is taken (R166, R190). -/
def execReadDefaults (s : State) : Host.Outcome State Fault Refusal :=
  .next (takeRequest (isKind .readDefaults) ownReadDefaults s)

end Sys2Proof.Machine
end

