-- ==== Sys2Proof/Machine/Channel.lean ====
section
/-! DEFINITION. The channel requests (R76–R99) but BIND and RELEASE, and QUERY STORE (R120). -/

namespace Sys2Proof.Machine

/-! ### The ordered checks (R76) -/

/-- Checks 1 to 3 of R76: form, gate, range. -/
def openChecks (form range : Bool) (s : State) : List (Bool × Answer) :=
  [(!form, refused .badRequest), (!s.btl.gateOpen, refused .gateClosed), (!range, refused .outOfRange)]

/-- Checks 1 to 6 of R76 for a request that needs ownership; `admits` is its row of Table 5-5. -/
def ownerChecks (form range : Bool) (admits : ChanState → Bool) (rq : Request) (s : State) : List (Bool × Answer) :=
  let x := s.chans[rq.chan]
  openChecks form range s ++
    [(x.state == .free, refused .wrongState), (x.owner != some rq.ctl, refused .notOwner),
     (!admits x.state, refused .wrongState)]

/-- The request's channel number is at most 31 (R76 step 3). -/
def Request.chanOk (rq : Request) : Bool := inRange (0, 31) (rq.num 0)

/-- The row of Table 5-5 for TRAIN ECHO, TRACK and SET FAR WINDOW. -/
def boundToTracking : ChanState → Bool
  | .bound | .echoTrain | .eqTrain | .tracking => true
  | .free | .pending | .loading | .fault | .releasing => false

/-- The row of Table 5-5 for RESTART. -/
def boundToFault (st : ChanState) : Bool := boundToTracking st || st == .fault

/-- The row of Table 5-5 for FREEZE and THAW. -/
def loadingToFault (st : ChanState) : Bool := boundToFault st || st == .loading

/-- The row of Table 5-5 for TRAIN EQUALIZER. -/
def boundOrTracking (st : ChanState) : Bool := st == .bound || st == .tracking

/-! ### Training requests (R90–R92) -/

/-- The context as a training begins (R61, R67, R90). -/
def Context.beginTraining (st : ChanState) (t : Tag) (x : Context) : Context :=
  { x with
    state := st, trainFrames := 0, streak := 0, guarded := 0, degradeStreak := 0, degraded := false
    trainLink := some t }

/-- A training begins, answered DEFERRED; one in progress completes SUPERSEDED (R90). -/
def startTraining (st : ChanState) (rq : Request) (s : State) : State × Answer :=
  ((completeTraining rq.chan .superseded (makeDeferred rq s)).modChan rq.chan (Context.beginTraining st rq.tag),
   deferred)

/-- TRAIN ECHO (R90). -/
def ownTrainEcho (rq : Request) (s : State) : State × Answer :=
  checked (ownerChecks (rq.plain 1) rq.chanOk boundToTracking rq s) (startTraining .echoTrain rq) s

/-- TRAIN ECHO is taken (R90, R166). -/
def execTrainEcho (s : State) : Host.Outcome State Fault Refusal :=
  .next (takeRequest (isKind .trainEcho) ownTrainEcho s)

/-- TRAIN EQUALIZER (R91). -/
def ownTrainEqualizer (rq : Request) (s : State) : State × Answer :=
  checked
    (ownerChecks (rq.plain 1) rq.chanOk boundOrTracking rq s
      ++ [(!s.chans[rq.chan].par.eq, refused .noEqualizer)])
    (startTraining .eqTrain rq) s

/-- TRAIN EQUALIZER is taken (R91, R166). -/
def execTrainEqualizer (s : State) : Host.Outcome State Fault Refusal :=
  .next (takeRequest (isKind .trainEqualizer) ownTrainEqualizer s)

/-- Move a channel to TRACKING; a training in progress completes ABORTED (R92). -/
def trackChan (c : Chan) (s : State) : State :=
  (completeTraining c .aborted s).modChan c fun x => { x with state := .tracking }

/-- TRACK (R92); of a channel in TRACKING it changes nothing. -/
def ownTrack (rq : Request) (s : State) : State × Answer :=
  checked (ownerChecks (rq.plain 1) rq.chanOk boundToTracking rq s)
    (fun s => (if s.chans[rq.chan].state = .tracking then s else trackChan rq.chan s, done [])) s

/-- TRACK is taken (R92, R166). -/
def execTrack (s : State) : Host.Outcome State Fault Refusal := .next (takeRequest (isKind .track) ownTrack s)

/-! ### The hold set (R77) -/

/-- Set or clear FREEZE, with the hold set as the result word (R77). -/
def setFreeze (on : Bool) (rq : Request) (s : State) : State × Answer :=
  (s.modChan rq.chan fun x => { x with freeze := on },
   done [holdWord { s.chans[rq.chan] with freeze := on }])

/-- FREEZE (R77). -/
def ownFreeze (rq : Request) (s : State) : State × Answer :=
  checked (ownerChecks (rq.plain 1) rq.chanOk loadingToFault rq s) (setFreeze true rq) s

/-- FREEZE is taken (R77, R166). -/
def execFreeze (s : State) : Host.Outcome State Fault Refusal := .next (takeRequest (isKind .freeze) ownFreeze s)

/-- THAW (R77). -/
def ownThaw (rq : Request) (s : State) : State × Answer :=
  checked (ownerChecks (rq.plain 1) rq.chanOk loadingToFault rq s) (setFreeze false rq) s

/-- THAW is taken (R77, R166). -/
def execThaw (s : State) : Host.Outcome State Fault Refusal := .next (takeRequest (isKind .thaw) ownThaw s)

/-! ### RESTART (R93) -/

/-- The context after RESTART (R93). -/
def Context.restarted (x : Context) : Context :=
  { x with
    state := .bound, w := 0, resid := List.replicate 40 0, lagLine := List.replicate 8 0
    pr := 0, py := 0, pe := 0, pd := 0, peps := 0
    trainFrames := 0, streak := 0, guarded := 0, degradeStreak := 0, quietStreak := 0
    eccCount := 0, parityCount := 0, convErle := none
    converged := false, degraded := false, quiet := false, freeze := false, trainLink := none }

/-- The stores after RESTART (R93): echo taps 0, unit equalizer, a ring of zeros. -/
def restartStores (x : Context) (sal : Sal) : Sal := zeroPages x.pages (unitInit x (zeroSegments x.segs sal))

/-- RESTART's effect (R93). -/
def restartChan (c : Chan) (s : State) : State :=
  let s1 := completeTraining c .aborted s
  (s1.setSal (restartStores s1.chans[c] s1.sal)).modChan c Context.restarted

/-- RESTART (R93). -/
def ownRestart (rq : Request) (s : State) : State × Answer :=
  checked (ownerChecks (rq.plain 1) rq.chanOk boundToFault rq s) (fun s => (restartChan rq.chan s, done [])) s

/-- RESTART is taken (R93, R166). -/
def execRestart (s : State) : Host.Outcome State Fault Refusal :=
  .next (takeRequest (isKind .restart) ownRestart s)

/-! ### SET FAR WINDOW (R26, R94, R118) -/

/-- The largest lag λ (R23). -/
def largestLag (near far bulk : Nat) : Nat := if far = 0 then 32 * near - 1 else bulk + 32 * far - 1

/-- The number of pages: ceil((λ + 1) / 256) (R23). -/
def pagesFor (near far bulk : Nat) : Nat := (largestLag near far bulk + 256) / 256

/-- The window constraint (R25). -/
def windowOk (near far bulk : Nat) : Bool := decide (far = 0 ∨ (32 * near ≤ bulk ∧ bulk ≤ 5120))

/-- The segment list with its far part resized: `new` are the added segments (R26). -/
def resizeFar (near far : Nat) (newFar : Nat) (new : List Seg) (segs : List Seg) : List Seg :=
  segs.take near ++ ((segs.drop near).take far).take newFar ++ new ++ segs.drop (near + far)

/-- The far segments that leave the list (R26). -/
def surplusFar (near far newFar : Nat) (segs : List Seg) : List Seg := ((segs.drop near).take far).drop newFar

/-- An accepted SET FAR WINDOW (R26, R118). -/
def setFar (c : Chan) (far bulk : Nat) (s : State) : State :=
  let x := s.chans[c]
  let q := x.par
  let pages := pagesFor q.near far bulk
  let addSegs := far - q.far
  let addPages := pages - x.pages.length
  let newSegs := s.sal.freeSegs.take addSegs
  let lostSegs := surplusFar q.near q.far far x.segs
  let lostPages := x.pages.drop pages
  let list := x.pages.take pages ++ s.sal.freePages.take addPages
  let m1 := zeroSegments (((x.segs.drop q.near).take q.far).take far) (allocate addSegs addPages s.sal)
  let m2 := returnUnits lostSegs lostPages (zeroPages list m1)
  let m3 := debit x.owner lostSegs.length lostPages.length (credit x.owner addSegs addPages m2)
  let s1 := (s.setSal m3).setChan c
    { x with
      segs := resizeFar q.near q.far far newSegs x.segs, pages := list, w := 0
      params := some { q with far, bulk } }
  if lostSegs.isEmpty && lostPages.isEmpty then s1 else recheck s1

/-- The room check of SET FAR WINDOW (R94, R118): asked when something grows. -/
def farHasRoom (rq : Request) (s : State) : Bool :=
  let x := s.chans[rq.chan]
  let addSegs := rq.num 1 - x.par.far
  let addPages := pagesFor x.par.near (rq.num 1) (rq.num 2) - x.pages.length
  decide (addSegs = 0 ∧ addPages = 0) || roomFor rq.ctl addSegs addPages s

/-- SET FAR WINDOW (R94). -/
def ownSetFarWindow (rq : Request) (s : State) : State × Answer :=
  let near := s.chans[rq.chan].par.near
  let pages := pagesFor near (rq.num 1) (rq.num 2)
  checked
    (ownerChecks (rq.plain 3) (rq.chanOk && decide (rq.num 1 ≤ 16 ∧ rq.num 2 ≤ 5120)) boundToTracking rq s
      ++ [(!windowOk near (rq.num 1) (rq.num 2), refused .outOfRange), (!farHasRoom rq s, refused .noRoom)])
    (fun s => (setFar rq.chan (rq.num 1) (rq.num 2) s,
      done [word (rq.num 1), word (rq.num 2), word pages, word (256 * pages)])) s

/-- SET FAR WINDOW is taken (R94, R166). -/
def execSetFarWindow (s : State) : Host.Outcome State Fault Refusal :=
  .next (takeRequest (isKind .setFarWindow) ownSetFarWindow s)

/-! ### ADOPT (R98) -/

/-- The result words of ADOPT (R98). -/
def adoptWords (x : Context) : List Word :=
  [word x.state.code, holdWord x, word x.segs.length, word x.pages.length]

/-- An orphaned channel gets an owner, who is credited with its units; a head re-check follows (R98, R119). -/
def adoptChan (c : Chan) (k : Ctl) (s : State) : State :=
  let x := s.chans[c]
  recheck ((s.setSal (credit (some k) x.segs.length x.pages.length s.sal)).setChan c { x with owner := some k })

/-- ADOPT (R98): its ownership tests stand at step 5 of R76. -/
def ownAdopt (rq : Request) (s : State) : State × Answer :=
  let x := s.chans[rq.chan]
  checked
    (openChecks (rq.plain 1) rq.chanOk s ++
      [(x.state == .free, refused .wrongState), (x.owner.isSome && x.owner != some rq.ctl, refused .notOwner),
       (x.owner.isNone && x.state == .pending, refused .wrongState)])
    (fun s => (if x.owner.isSome then s else adoptChan rq.chan rq.ctl s, done (adoptWords x))) s

/-- ADOPT is taken (R98, R166). -/
def execAdopt (s : State) : Host.Outcome State Fault Refusal := .next (takeRequest (isKind .adopt) ownAdopt s)

/-! ### QUERY CHANNEL (R99) -/

/-- A resolved parameter as a one-word field (R163). -/
def Context.parWord (x : Context) (f : Params → Nat) : Word := optWord (x.params.map f)

/-- The 27 words of part 0 (R164). -/
def channelWords (x : Context) : List Word :=
  [word x.state.code, optWord (x.owner.map Fin.val), optWord (x.slot.map Fin.val), x.parWord Params.near,
   x.parWord Params.far, x.parWord Params.bulk, x.parWord fun q => bit q.eq 0, x.parWord Params.aEchoTrain,
   x.parWord Params.aEchoTrack, x.parWord Params.aEqTrain, x.parWord Params.aEqTrack, x.parWord Params.erleTarget,
   x.parWord Params.qualTarget, x.parWord Params.holdCount, x.parWord Params.timeout, x.parWord Params.mainTap,
   x.parWord Params.lag, holdWord x,
   word (bit x.converged 0 + bit x.degraded 1 + bit x.quiet 2 + bit x.firstCorr 3), optWord x.convErle]
    ++ keyWords x.bound ++ keyWords x.learn ++ keyWords x.load
    ++ [word (bit x.trainLink.isSome 0 + bit x.bindLink.isSome 1)]

/-- The 25 words of part 1 (R164). -/
def measureWords (x : Context) : List Word :=
  [x.pr, x.py, x.pe, x.pd, x.peps].flatMap twoWords
    ++ [x.pr, x.py, x.pe, x.pd, x.peps].map (fun p => word (logValue p))
    ++ [erle x, quality x, x.trainFrames, x.streak, x.guarded, x.degradeStreak, x.quietStreak, x.eccCount,
        x.parityCount, x.w].map word

/-- A list of unit numbers packed in n words, two a word, 0 beyond its end (R164). -/
def packUnits (n : Nat) (us : List (Fin 256)) : List Word :=
  (List.range n).map fun i =>
    pack ((us[2 * i]?.map Fin.val).getD 0) ((us[2 * i + 1]?.map Fin.val).getD 0)

/-- The 25 words of part 2 (R164). -/
def listWords (x : Context) : List Word :=
  pack x.segs.length x.pages.length :: (packUnits 13 x.segs ++ packUnits 11 x.pages)

/-- A part's words (R99). A FREE channel reads as after power-on; a PENDING one has no measures and no lists. -/
def queryChannel (part : Nat) (x : Context) : List Word :=
  let y := if x.state = .free then initialContext else x
  if part = 0 then channelWords y
  else if part = 1 then
    (if x.state = .free ∨ x.state = .pending then List.replicate 25 0 else measureWords y)
  else if x.state = .pending then List.replicate 25 0 else listWords y

/-- QUERY CHANNEL (R99). -/
def ownQueryChannel (rq : Request) (s : State) : State × Answer :=
  checked
    [(!rq.plain 2, refused .badRequest), (!(rq.chanOk && decide (rq.num 1 ≤ 2)), refused .outOfRange)]
    (fun s => (s, done (queryChannel (rq.num 1) s.chans[rq.chan]))) s

/-- QUERY CHANNEL is taken (R99, R166). -/
def execQueryChannel (s : State) : Host.Outcome State Fault Refusal :=
  .next (takeRequest (isKind .queryChannel) ownQueryChannel s)

/-! ### QUERY STORE (R120) -/

/-- Units on orphaned channels (R120). -/
def orphaned (n : Context → Nat) (s : State) : Nat :=
  ((s.chans.toList.filter fun x => x.owner.isNone).map n).sum

/-- The 20 words of part 0 (Table 6-5). -/
def storeWords (s : State) : List Word :=
  [word s.sal.freeSegs.length, word s.sal.freePages.length, word (orphaned (fun x => x.segs.length) s),
   word (orphaned (fun x => x.pages.length) s)]
    ++ (List.finRange 4).flatMap fun k =>
      [word s.sal.heldSeg[k], word s.sal.heldPage[k], word s.btl.part0.shareSeg[k], word s.btl.part0.sharePage[k]]

/-- The three words of a wait entry (Table 6-5, log entry 21). -/
def waitWords (s : State) (e : WaitEntry) : List Word :=
  [pack e.chan.val e.ctl.val, pack e.segs e.pages, word (e.limit - elapsed s e.accepted)]

/-- The 25 words of part 1 (Table 6-5). -/
def queueWords (s : State) : List Word :=
  (word s.sal.waitQ.length :: s.sal.waitQ.flatMap (waitWords s) ++ List.replicate 24 0).take 25

/-- QUERY STORE (R120). A marker or a length that does not suit is refused before a part number above 1: R120 gives no
order, the model asks the form first (log entry 43). -/
def ownQueryStore (rq : Request) (s : State) : State × Answer :=
  checked [(!rq.plain 1, refused .badRequest), (decide (1 < rq.num 0), refused .outOfRange)]
    (fun s => (s, done (if rq.num 0 = 0 then storeWords s else queueWords s))) s

/-- QUERY STORE is taken (R120, R166). -/
def execQueryStore (s : State) : Host.Outcome State Fault Refusal :=
  .next (takeRequest (isKind .queryStore) ownQueryStore s)

end Sys2Proof.Machine
end

