-- ==== Sys2Proof/Machine/Saves.lean ====
section
/-! DEFINITION. Profile records taken for a new key (R124), and the start of a save at release (R127, R128). -/

namespace Sys2Proof.Machine

/-- The profile may be evicted (R124). -/
def evictable (s : State) (r : Rec) : Bool :=
  let p := s.pfs.recs[r]
  match p.key with
  | none => false
  | some k => !p.desc.pinned && p.boundChan.isNone && !lockedByAny (.profile k) s && !loadSource k s

/-- A record for a key that has no profile: the lowest EMPTY one (log entry 19), else the evictable one nearest the end
of the recency list (R124). -/
def recordFor (s : State) : Option Rec :=
  ((List.finRange 64).find? fun r => s.pfs.recs[r].state == .empty) <|> s.pfs.recency.reverse.find? (evictable s)

/-- PFS decides whether a save can start, and on which record (Table 7-3). -/
def saveDecision (c : Chan) (k : Ctl) (s : State) : Except SaveReason Rec :=
  let x := s.chans[c]
  match x.bound, x.learn with
  | some key, _ =>
    match findProfile key s with
    | none => .error .storeFull
    | some r => if lockedByOther k (.profile key) s then .error .busy else .ok r
  | none, some key =>
    match findProfile key s with
    | none =>
      match recordFor s with
      | none => .error .storeFull
      | some r => .ok r
    | some r =>
      if s.pfs.recs[r].state != .valid || s.pfs.recs[r].boundChan.isSome || lockedByAny (.profile key) s then
        .error .busy
      else .ok r
  | none, none => .error .storeFull

/-- The descriptor of a save (R128): pinned and the exponent set are kept. -/
def savedDescriptor (x : Context) (d : Descriptor) : Descriptor :=
  { d with
    near := x.par.near, farHint := x.par.far, bulkHint := x.par.bulk, mainTap := x.par.mainTap, lag := x.par.lag
    eq := x.par.eq, best := x.convErle.getD 0 }

/-- The record as a save of key begins on it (R127, R128); a record that holds another key, or none, is taken afresh. -/
def savedRecord (c : Chan) (key : Key) (x : Context) (p : Profile) : Profile :=
  let base := if p.state = .valid ∧ p.key = some key then p else emptyProfile
  { base with
    key := some key, state := .filling, desc := savedDescriptor x base.desc, origin := .learned
    boundChan := some c }

/-- A save proceeds on a record (R127, R128): it becomes FILLING and stays, or becomes, bound; the channel enters
RELEASING with a SAVE job. -/
def beginSave (c : Chan) (r : Rec) (s : State) : State :=
  let x := s.chans[c]
  match x.bound <|> x.learn with
  | none => s
  | some key =>
    let job : Job :=
      { kind := .save, chan := c, key, count := x.par.near + (if x.par.eq then 1 else 0), moved := 0
        eqLast := x.par.eq, queuedAt := s.hwi.line.frame }
    (((s.setRec r (savedRecord c key x s.pfs.recs[r])).setRecency (s.pfs.recency.filter (· != r))).setJobs
      (s.jobs ++ [job])).setChan c { x with state := .releasing, bound := some key }

end Sys2Proof.Machine
end

