-- ==== Sys2Proof/Machine/Bind.lean ====
section
/-! DEFINITION. BIND and RELEASE (R78–R89). -/

namespace Sys2Proof.Machine

/-! ### BIND -/

/-- The parameters resolved from the given set, the found profile and the site defaults (R80). -/
def resolve (rq : Request) (found : Option Descriptor) (p0 : PartZero) (p1 : PartOne) : Params :=
  let pick (i : Nat) (profile : Option Nat) (dflt : Nat) : Nat := (rq.givenAt i).getD (profile.getD dflt)
  { near := pick 0 (found.map Descriptor.near) p1.near
    far := pick 1 (found.map Descriptor.farHint) p1.far
    bulk := pick 2 (found.map Descriptor.bulkHint) p1.bulk
    eq := decide (pick 3 none (bit p1.eq 0) = 1)
    aEchoTrain := pick 4 (found.bind Descriptor.aEchoTrain) p1.aEchoTrain
    aEchoTrack := pick 5 (found.bind Descriptor.aEchoTrack) p1.aEchoTrack
    aEqTrain := pick 6 (found.bind Descriptor.aEqTrain) p1.aEqTrain
    aEqTrack := pick 7 (found.bind Descriptor.aEqTrack) p1.aEqTrack
    erleTarget := pick 8 none p1.erleTarget
    qualTarget := pick 9 none p1.qualTarget
    holdCount := pick 10 none p1.holdCount
    timeout := pick 11 none p1.timeout
    mainTap := pick 12 (found.map Descriptor.mainTap) p1.mainTap
    lag := pick 13 (found.map Descriptor.lag) p1.lag
    waitLimit := pick 14 none p0.waitLimit }

/-- The profile found under the request's key: a VALID one (R79). -/
def foundProfile (rq : Request) (s : State) : Option Rec := rq.bindKey.bind fun k => findValid k s

/-- The parameters of a BIND as it is taken (R80). -/
def bindParams (rq : Request) (s : State) : Params :=
  resolve rq ((foundProfile rq s).map fun r => s.pfs.recs[r].desc) s.btl.part0 s.btl.part1

/-- The relation a BIND records (R80). -/
def bindRelation (rq : Request) (s : State) : Relation :=
  match foundProfile rq s with
  | some r => if s.pfs.recs[r].boundChan.isNone then .boundProfile else .copy
  | none => if rq.learns then .learn else .none

/-- The segments a BIND needs (R81). -/
def Params.segsNeeded (q : Params) : Nat := q.near + q.far + if q.eq then 1 else 0

/-- The pages a BIND needs (R81). -/
def Params.pagesNeeded (q : Params) : Nat := pagesFor q.near q.far q.bulk

/-- Record an accepted BIND (R73, R75, R80, R81): owner, timeslot, parameters and profile relation; `link` is the tag of
a request answered DEFERRED. -/
def recordBind (rq : Request) (link : Option Tag) (s : State) : State :=
  let rel := bindRelation rq s
  let s1 := s.modChan rq.chan fun x =>
    { x with
      owner := some rq.ctl, slot := some (Fin.ofNat 32 (rq.num 1)), params := some (bindParams rq s)
      relation := rel
      bound := if rel = .boundProfile then rq.bindKey else none
      learn := if rel = .learn then rq.bindKey else none
      load := if rel = .boundProfile ∨ rel = .copy then rq.bindKey else none
      bindLink := link }
  match foundProfile rq s with
  | none => s1
  | some r =>
    if rel = .boundProfile then s1.setRec r { s.pfs.recs[r] with boundChan := some rq.chan } else s1

/-- A BIND waits for room (R83, R112 step 5). -/
def enterPending (rq : Request) (s : State) : State :=
  let q := bindParams rq s
  let e : WaitEntry :=
    { chan := rq.chan, ctl := rq.ctl, segs := q.segsNeeded, pages := q.pagesNeeded, accepted := s.btl.timebase
      limit := q.waitLimit }
  let s1 := (recordBind rq (some rq.tag) (makeDeferred rq s)).modChan rq.chan fun x => { x with state := .pending }
  s1.setSal { s1.sal with waitQ := s1.sal.waitQ ++ [e] }

/-- A BIND that is granted at once (R81): DONE without a load, DEFERRED with one. -/
def bindAtOnce (rq : Request) (s : State) : State × Answer :=
  let q := bindParams rq s
  if (foundProfile rq s).isSome then
    (grant rq.chan q.segsNeeded q.pagesNeeded (recordBind rq (some rq.tag) (makeDeferred rq s)), deferred)
  else
    let s1 := grant rq.chan q.segsNeeded q.pagesNeeded (recordBind rq none s)
    (s1, done (bindWords rq.chan .bound s1.chans[rq.chan]))

/-- SAL's decision and its answer (R81, R112). -/
def bindRoom (rq : Request) (s : State) : State × Answer :=
  let q := bindParams rq s
  if s.sal.waitQ.isEmpty && roomFor rq.ctl q.segsNeeded q.pagesNeeded s then bindAtOnce rq s
  else if !rq.mayWait then (s, refused .noRoom)
  else if Config.waitPlaces ≤ s.sal.waitQ.length then (s, retry .waitQueueFull)
  else (enterPending rq s, deferred)

/-- BIND's checks (R76, R79). -/
def bindChecks (rq : Request) (s : State) : List (Bool × Answer) :=
  let q := bindParams rq s
  openChecks rq.bindForm rq.bindRange s ++
    [ (s.chans[rq.chan].state != .free, refused .wrongState),
      (!s.btl.part0.usable.getLsbD (rq.num 1), refused .slotUnusable),
      (s.chans.toList.any fun x => x.slot == some (Fin.ofNat 32 (rq.num 1)), refused .slotInUse),
      (!windowOk q.near q.far q.bulk, refused .outOfRange) ]

/-- BIND (R79). -/
def ownBind (rq : Request) (s : State) : State × Answer := checked (bindChecks rq s) (bindRoom rq) s

/-- BIND is taken (R79, R166). -/
def execBind (s : State) : Host.Outcome State Fault Refusal := .next (takeRequest (isKind .bind) ownBind s)

/-! ### RELEASE -/

/-- The releasing controller's own lock on the call ends, silently (R154). -/
def endOwnLock (c : Chan) (k : Ctl) (s : State) : State :=
  match s.locks[k] with
  | none => s
  | some l =>
    let onProfile := match s.chans[c].bound with
      | none => false
      | some key => l.obj == .profile key
    if l.obj == .chan c || onProfile || l.held == some c then endLock k s else s

/-- The release saves (R86). -/
def saves (discard : Bool) (x : Context) : Bool :=
  boundToTracking x.state && x.converged && (x.bound.isSome || x.learn.isSome) && !discard

/-- The cause of a release that does not save (R86), 0 for a release by R87. -/
def releaseCause (discard : Bool) (x : Context) : Nat :=
  if x.state = .pending ∨ x.state = .loading then 0
  else if discard then 1 else if x.state = .fault then 2 else if !x.converged then 3 else 4

/-- The channel leaves its state for a release that does not save (R87, R88): what is in progress ends ABORTED. -/
def endForRelease (c : Chan) (s : State) : State :=
  match s.chans[c].state with
  | .pending => completeBind c .aborted (removeWait c s)
  | .loading => completeBind c .aborted (cancelJob c s)
  | _ => completeTraining c .aborted s

/-- A release that does not save (R87, R88). -/
def releaseNow (c : Chan) (discard : Bool) (s : State) : State × Answer :=
  let x := s.chans[c]
  (recheck (enterFree c (endForRelease c s)),
   done [word (releaseCause discard x), word x.segs.length, word x.pages.length])

/-- A release that saves, answered DEFERRED (R89). -/
def releaseSaving (rq : Request) (s : State) : State × Answer :=
  let c := rq.chan
  let s1 := emptySlots c ((completeTraining c .aborted (makeDeferred rq s)).modChan c fun x =>
    { x with slot := none, bindLink := some rq.tag })
  (match saveDecision c rq.ctl s1 with
    | .ok r => beginSave c r s1
    | .error why =>
      let x := s1.chans[c]
      recheck (enterFree c (completeRelease c .notSaved why.code (x.bound <|> x.learn) s1)),
   deferred)

/-- RELEASE after its checks (R86, R154). -/
def releaseChan (rq : Request) (s : State) : State × Answer :=
  let s1 := endOwnLock rq.chan rq.ctl s
  let discard := (rq.word 1).getLsbD 0
  if saves discard s1.chans[rq.chan] then releaseSaving rq s1 else releaseNow rq.chan discard s1

/-- The row of Table 5-5 for RELEASE. -/
def releasable (st : ChanState) : Bool := st != .free && st != .releasing

/-- RELEASE (R86). -/
def ownRelease (rq : Request) (s : State) : State × Answer :=
  checked (ownerChecks (rq.plain 2 && decide (rq.num 1 < 2)) rq.chanOk releasable rq s) (releaseChan rq) s

/-- RELEASE is taken (R86, R166). -/
def execRelease (s : State) : Host.Outcome State Fault Refusal :=
  .next (takeRequest (isKind .release) ownRelease s)

end Sys2Proof.Machine
end

