-- ==== Sys2Proof/Machine/Boot.lean ====
section
/-! DEFINITION. The end of the boot load (R191–R193): the image's fields, its validation, its installation, and what the
two-wire port carried. -/

namespace Sys2Proof.Machine

/-- A byte of the image as a number. -/
def byteAt (b : List Byte) (i : Nat) : Nat := (b.getD i 0).toNat

/-- The byte length of bytes 3–4 (Table 11-2). -/
def imageLength (b : List Byte) : Nat := 256 * byteAt b 3 + byteAt b 4

/-- The bytes BTL reads before the load's status is decided (R193): the load stops at its first failure. -/
def bytesNeeded (b : List Byte) : Nat :=
  if byteAt b 0 ≠ 0xC5 then 1 else if byteAt b 1 ≠ 0x3A then 2 else if byteAt b 2 ≠ 1 then 3
  else if imageLength b < 82 then 5 else imageLength b

/-- Words of two bytes, high byte first (R192). -/
def bytesWords : List Byte → List Word
  | hi :: lo :: t => (hi ++ lo) :: bytesWords t
  | _ => []

/-- The words of part 0 (Table 11-2). -/
def imageZero (b : List Byte) : List Word := bytesWords ((b.drop 5).take 30)

/-- The words of part 1 (Table 11-2). -/
def imageOne (b : List Byte) : List Word := bytesWords ((b.drop 35).take 44)

/-- An exponent of a descriptor, where its bit of byte 9 is set (Table 11-3). -/
def imageExponent (b : List Byte) (i : Nat) : Option Nat :=
  if (b.getD 9 0).getLsbD i then some (byteAt b (10 + i)) else none

/-- The descriptor at the head of a list of bytes (Table 11-3). -/
def imageDescriptor (b : List Byte) : Descriptor :=
  { pinned := (b.getD 4 0).getLsbD 0, eq := (b.getD 4 0).getLsbD 1
    near := byteAt b 5, farHint := byteAt b 6, bulkHint := 256 * byteAt b 7 + byteAt b 8
    aEchoTrain := imageExponent b 0, aEchoTrack := imageExponent b 1
    aEqTrain := imageExponent b 2, aEqTrack := imageExponent b 3
    mainTap := byteAt b 14, lag := byteAt b 15, best := byteAt b 16 }

/-- The key at the head of a list of bytes (Table 11-3). -/
def imageKey (b : List Byte) : Key := b.getD 0 0 ++ b.getD 1 0 ++ b.getD 2 0 ++ b.getD 3 0

/-- A descriptor's fields are in range and its reserved bits are zero (R193 step 5). -/
def descriptorOk (b : List Byte) : Bool :=
  imageKey b != 0 && decide (byteAt b 4 < 4) && decide (byteAt b 9 < 16) && (imageDescriptor b).inRange

/-- The bytes of the taps that follow a descriptor (Table 11-3). -/
def tapBytes (d : Descriptor) : Nat := 64 * (d.near + if d.eq then 1 else 0)

/-- The record of an image profile (R193): VALID, origin BOOT, unused and unbound. -/
def imageRecord (b : List Byte) : Profile :=
  let d := imageDescriptor b
  let ws := (bytesWords ((b.drop 17).take (tapBytes d))).map clampWord
  { key := some (imageKey b), state := .valid, desc := d, origin := .boot, useCount := 0, boundChan := none
    written := 0
    chunks := Vector.ofFn fun i =>
      if i.val < 8 then (if i.val < d.near then (ws.drop (32 * i.val)).take 32 else zeroChunk)
      else if d.eq then (ws.drop (32 * d.near)).take 32 else zeroChunk }

/-- Parse n profiles that must end exactly at the end of the bytes (R193 step 5). -/
def parseProfiles : Nat → List Byte → Option (List Profile)
  | 0, b => if b.isEmpty then some [] else none
  | n + 1, b =>
    let size := 17 + tapBytes (imageDescriptor b)
    if descriptorOk b && decide (size ≤ b.length) then
      (parseProfiles n (b.drop size)).map fun ps => imageRecord b :: ps
    else none

/-- The image's profiles, when all of them are well formed and their keys differ (R193 step 5). -/
def imageProfiles (b : List Byte) : Option (List Profile) :=
  if byteAt b 79 ≤ 64 then
    (parseProfiles (byteAt b 79) ((b.take (imageLength b - 2)).drop 80)).filter fun ps => (ps.map (·.key)).Nodup
  else none

/-- The sum of every byte before the checksum (Table 11-2). -/
def imageSum (b : List Byte) : Nat := ((b.take (imageLength b - 2)).map BitVec.toNat).sum % 65536

/-- The stored checksum (Table 11-2). -/
def imageChecksum (b : List Byte) : Nat :=
  256 * byteAt b (imageLength b - 2) + byteAt b (imageLength b - 1)

/-- The status of a load whose address phases were acknowledged (R193). -/
def imageStatus (b : List Byte) : BootStatus :=
  if byteAt b 0 ≠ 0xC5 ∨ byteAt b 1 ≠ 0x3A ∨ byteAt b 2 ≠ 1 then .badSignature
  else if imageLength b < 82 then .badField
  else if imageChecksum b ≠ imageSum b then .badChecksum
  else if zeroInRange (imageZero b) && oneInRange (imageOne b) && (imageProfiles b).isSome then .valid
  else .badField

/-- Install a valid image (R193): both parts of the site defaults, clamped, and the records in image order. The idle
codes follow the law installed at once (R188, log entry 12). -/
def installImage (b : List Byte) (s : State) : State :=
  let ps := (imageProfiles b).getD []
  { s.setBtl { s.btl with part0 := zeroOf (imageZero b), part1 := oneOf (imageOne b) } with
    hwi := { s.hwi with idleLaw := (zeroOf (imageZero b)).law }
    pfs :=
      { recs := Vector.ofFn fun r => ps.getD r.val emptyProfile
        recency := (List.finRange 64).take ps.length } }

/-- The address phases of the transfer: device 54H to write, memory address 0 in two bytes, device 54H to read (R191). -/
def portAddress : List PortOp :=
  [.start, .deviceAddress Config.bootDevice false, .memoryAddress 0, .memoryAddress 0, .start,
   .deviceAddress Config.bootDevice true]

/-- The operations up to and with the i-th sent byte (log entry 25). -/
def portUpTo (i : Fin 4) : List PortOp := portAddress.take (if i = 3 then 6 else i.val + 2)

/-- The whole transfer of n image bytes: no acknowledge after the last, then a stop (R191). -/
def portRead (b : List Byte) : List PortOp :=
  portAddress ++ (b.zipIdx.map fun p => .readByte p.1 (decide (p.2 + 1 < b.length))) ++ [.stop]

/-- The load ends with a status (R193, R194). -/
def endLoad (st : BootStatus) (ops : List PortOp) (s : State) : State :=
  s.setBtl { s.btl with status := st, booting := false, port := ops }

/-- The end of a boot load (R193). Bytes that do not yet decide the status are not the end of a load (log entry 25). -/
def bootLoadEnd (nack : Option (Fin 4)) (image : List Byte) (s : State) : State :=
  if s.btl.booting && s.btl.status == .loading then
    match nack with
    | some i => endLoad .noDevice (portUpTo i) s
    | none =>
      if image.length < bytesNeeded image then s
      else
        let s1 := endLoad (imageStatus image) (portRead (image.take (bytesNeeded image))) s
        if imageStatus image = .valid then installImage image s1 else s1
  else s

/-- BOOT_LOAD_END (R193). -/
def execBootLoadEnd (nack : Option (Fin 4)) (image : List Byte) (s : State) : Host.Outcome State Fault Refusal :=
  .next (bootLoadEnd nack image s)

end Sys2Proof.Machine
end

