-- ==== Sys2Proof/Machine/EventRequests.lean ====
section
/-! DEFINITION. The event requests FETCH EVENTS and SET EVENT TRIGGER (R183, R184). -/

namespace Sys2Proof.Machine

/-- The three words of an entry (Table 10-2). -/
def eventWords (e : Event) : List Word :=
  [word (256 * e.kind.code + bit e.kind.isFault 7 + bit e.chan.isSome 6 + (e.chan.map Fin.val).getD 0), e.detail,
   e.posted.setWidth 16]

/-- The result words of a fetch (Table 10-2). -/
def fetchWords (f : Fifo) : List Word :=
  word (bit f.overflow 15 + 256 * (f.entries.take 8).length + (f.entries.drop 8).length)
    :: (f.entries.take 8).flatMap eventWords

/-- FETCH EVENTS (R183): the oldest entries leave, up to eight, the flag is cleared and the line evaluated (R182). -/
def ownFetchEvents (rq : Request) (s : State) : State × Answer :=
  checked [(!rq.plain 0, refused .badRequest)]
    (fun s =>
      let f := s.fifos[rq.ctl]
      (evalLine rq.ctl (s.setFifo rq.ctl { f with entries := f.entries.drop 8, overflow := false }),
       done (fetchWords f))) s

/-- FETCH EVENTS is taken (R166, R183). -/
def execFetchEvents (s : State) : Host.Outcome State Fault Refusal :=
  .next (takeRequest (isKind .fetchEvents) ownFetchEvents s)

/-- The event state after SET EVENT TRIGGER, but for the line (R184). -/
def setTrigger (level hold : Nat) (flush : Bool) (f : Fifo) : Fifo :=
  { f with
    level := roundLevel level, hold := max 1 hold
    entries := if flush then [] else f.entries
    overflow := if flush then false else f.overflow }

/-- SET EVENT TRIGGER (R184). A form that does not suit is refused before a hold time above 255: R184 gives no order,
the model asks the form first (log entry 45). -/
def ownSetEventTrigger (rq : Request) (s : State) : State × Answer :=
  let flush := (rq.word 2).getLsbD 0
  checked [(!rq.plain 3 || decide (1 < rq.num 2), refused .badRequest), (decide (255 < rq.num 1), refused .outOfRange)]
    (fun s =>
      let f := s.fifos[rq.ctl]
      (evalLine rq.ctl (s.setFifo rq.ctl (setTrigger (rq.num 0) (rq.num 1) flush f)),
       done [word (roundLevel (rq.num 0)), word (max 1 (rq.num 1)),
             word (if flush then f.entries.length else 0)])) s

/-- SET EVENT TRIGGER is taken (R166, R184). -/
def execSetEventTrigger (s : State) : Host.Outcome State Fault Refusal :=
  .next (takeRequest (isKind .setEventTrigger) ownSetEventTrigger s)

end Sys2Proof.Machine
end

