-- ==== Sys2Proof/Machine/Service.lean ====
section
/-! DEFINITION. The channel service (R14) and FEN's work in it: the stages of R18 over history, taps, measures and
counters, the fault service (R32), the service in FAULT (R58), and HWI's selection of outputs (R16). -/

namespace Sys2Proof.Machine

/-! ### Stage 1 and the lags (R19–R24) -/

/-- The ring length H (R19). -/
def Context.ringLength (x : Context) : Nat := 256 * x.pages.length

/-- Stage 1: write r at the write position and advance it (R20). -/
def writeHistory (c : Chan) (r : Int) (s : State) : State :=
  let x := s.chans[c]
  let s' := match x.pages[x.w / 256]? with
    | none => s
    | some p => s.setSal (writeSample p x.w r s.sal)
  s'.modChan c fun x => { x with w := (x.w + 1) % x.ringLength }

/-- The ring index of a lag: (w_t − k) mod H (R21). -/
def lagIndex (x : Context) (wt k : Nat) : Nat := (wt + x.ringLength - k % x.ringLength) % x.ringLength

/-- Read the sample of a ring index; no value on a parity failure (R19, R107). -/
def readRing (sal : Sal) (x : Context) (i : Nat) : Option Int :=
  match x.pages[i / 256]? with
  | none => some 0
  | some p => readSample sal (256 * p.val + i % 256)

/-- The number of echo taps Ln + Lf (R24). -/
def Params.echoTaps (q : Params) : Nat := 32 * q.near + 32 * q.far

/-- The lags the windows weight: 0 to Ln − 1, then D to D + Lf − 1 (R24). -/
def Params.lags (q : Params) : List Nat :=
  List.range (32 * q.near) ++ (List.range (32 * q.far)).map fun j => q.bulk + j

/-- The samples of the windows' lags (R21). -/
def lagSamples (sal : Sal) (x : Context) (wt : Nat) : List (Option Int) :=
  x.par.lags.map fun k => readRing sal x (lagIndex x wt k)

/-! ### Stage 3 (R28, R29) -/

/-- The echo estimate of an accumulator (R28). -/
def estimate (acc : Int) : Int := sat (roundShift acc 15)

/-- Stage 3's effect on the context, with stage 4's (R21, R29, R40, R55). -/
def recordResidual (r y e : Int) (failed : Nat) (x : Context) : Context :=
  measure r y e
    { x with resid := ringPush 40 e x.resid, parityCount := min 255 (x.parityCount + failed) }

/-! ### Stage 5 (R33–R37) -/

/-- The step exponent of the echo taps (R33). -/
def echoExponent (x : Context) : Nat := if x.state == .echoTrain then x.par.aEchoTrain else x.par.aEchoTrack

/-- The echo taps' new values (R35–R37). -/
def newEchoTaps (p : PartOne) (x : Context) (e : Int) (taps samples : List Int) : List Int :=
  List.zipWith (adaptTap (shiftOf x.pr p.pfloor (echoExponent x) 15) e) taps samples

/-- Stage 5: adapt, or count a guarded frame, or keep the taps (R33, R34). -/
def echoStage (c : Chan) (e : Int) (taps samples : List Int) (s : State) : State :=
  let x := s.chans[c]
  let p := s.btl.part1
  if !echoMayAdapt p x then s
  else if guardTrips p x then s.modChan c fun x => { x with guarded := x.guarded + 1 }
  else
    s.setSal (writeSegments (x.segs.take (x.par.near + x.par.far))
      ((newEchoTaps p x e taps samples).map (BitVec.ofInt 16)) s.sal)

/-! ### Stage 6 (R44–R52) -/

/-- The equalizer output: the filter's, or the residual without an equalizer (R44, R45). -/
def equalizerOutput (x : Context) (e : Int) (taps : List Int) : Int :=
  if x.par.eq then sat (roundShift (dot taps x.resid) 14) else e

/-- The equalizer error of a present desired sample against the output Λ services ago (R47, R48). -/
def equalizerError (x : Context) (d : Int) : Int := sat (d - x.lagLine.getD (x.par.lag - 1) 0)

/-- Steps 3 and 4 of R47: P_d and P_ε when d is present, then the lag line. -/
def alignDesired (d : Option Int) (z : Int) (x : Context) : Context :=
  let x' := match d with
    | none => x
    | some v => { x with pd := leak x.pd v, peps := leak x.peps (equalizerError x v) }
  { x' with lagLine := ringPush 8 z x.lagLine }

/-- The step exponent of the equalizer taps (R49). -/
def eqExponent (x : Context) : Nat := if x.state == .eqTrain then x.par.aEqTrain else x.par.aEqTrack

/-- The equalizer taps' new values: tap k moves with entry Λ + k of the residual ring (R50–R52). -/
def newEqTaps (p : PartOne) (x : Context) (eps : Int) (taps : List Int) : List Int :=
  List.zipWith (adaptTap (shiftOf x.pe p.pfloor (eqExponent x) 14) eps) taps (x.resid.drop x.par.lag)

/-- Stage 6 (R47), with its output z. -/
def equalizerStage (c : Chan) (e : Int) (d : Option Int) (taps : List Int) (s : State) : State × Int :=
  let x := s.chans[c]
  let z := equalizerOutput x e taps
  let s1 := s.modChan c (alignDesired d z)
  match d, x.eqSeg with
  | some v, some g =>
    if eqAdapts x x.par true then
      (s1.setSal (writeSegment g
        ((newEqTaps s.btl.part1 x (equalizerError x v) taps).map (BitVec.ofInt 16)) s1.sal), z)
    else (s1, z)
  | _, _ => (s1, z)

/-! ### Stage 7 (R61–R70) -/

/-- A training that has ended: its result recorded, its completion posted, the channel in TRACKING (R64, R65). -/
def finishTraining (c : Chan) (o : Result) (s : State) : State :=
  let s1 := if o = .converged then
      s.modChan c fun x => { x with converged := true, convErle := some (erle x) }
    else s
  (completeTraining c o s1).modChan c fun x => { x with state := .tracking }

/-- The degrade detector, for a service taken in TRACKING (R66). -/
def degradeStage (c : Chan) (taken : ChanState) (s : State) : State :=
  if taken = .tracking then
    let r := degradeStep s.btl.part1 s.chans[c].par s.chans[c]
    let s1 := s.setChan c r.1
    if r.2 then postOwner c .echoDegraded (erle r.1) s1 else s1
  else s

/-- The quiet detector (R68). -/
def quietStage (c : Chan) (s : State) : State :=
  let r := quietStep s.btl.part1 s.chans[c]
  let s1 := s.setChan c r.1
  if r.2 then postOwner c .lineQuiet (logValue r.1.py) s1 else s1

/-- Stage 7 in its order (R70); `taken` is the state in which the service was taken. -/
def stageSeven (c : Chan) (taken : ChanState) (dPresent : Bool) (s : State) : State :=
  let s1 := s.modChan c fun x => countTraining s.btl.part1 x.par dPresent x
  let s2 := match trainingEnd s1.chans[c].par s1.chans[c] with
    | none => s1
    | some o => finishTraining c o s1
  quietStage c (degradeStage c taken s2)

/-! ### The service -/

/-- The stages after a clean tap read (R18 stages 3 to 7): the state, z and e. `wt` is the write position before
stage 1. -/
def conditionedService (c : Chan) (wt : Nat) (y r : Int) (d : Option Int) (taps : List Int) (s : State) :
    State × Int × Int :=
  let x := s.chans[c]
  let n := x.par.echoTaps
  let read := lagSamples s.sal x wt
  let samples := read.map fun v => v.getD 0
  let e := sat (y - estimate (dot (taps.take n) samples))
  let s1 := s.modChan c (recordResidual r y e (read.filter Option.isNone).length)
  let s2 := echoStage c e (taps.take n) samples s1
  let s3 := equalizerStage c e d (taps.drop n) s2
  (stageSeven c x.state d.isSome s3.1, s3.2, e)

/-- A full service (R18): stages 1 and 2, then either the fault service (R32) or the stages after a clean read. The
result holds the modem pair. -/
def fullService (c : Chan) (y r : Int) (d : Option Int) (s : State) : State × Int × Int :=
  let wt := s.chans[c].w
  let s1 := writeHistory c r s
  let rd := readSegments s1.sal s1.chans[c].segs
  let s2 := applyCorrections c rd s1
  match firstOf TapClass.isBad rd with
  | some a => (enterFault c a (s2.modChan c (faultMeasure r y)), y, y)
  | none => conditionedService c wt y r d (rd.map fun t => t.cls.int) s2

/-- A channel's service by state (R14 step 3, R16, Table 1-5): the state and the modem pair; no service outside the
mapped states. -/
def serviceByState (c : Chan) (y r : Int) (d : Option Int) (s : State) : Option (State × Int × Int) :=
  match s.chans[c].state with
  | .bound | .echoTrain | .eqTrain | .tracking => some (fullService c y r d s)
  | .fault => some (s.modChan c (faultMeasure r y), y, y)
  | .pending | .loading => some (s, y, y)
  | .free | .releasing => none

/-- Raise the channel service when the input record is complete, and empty the record (R13, R14); the outputs are marked
for the frames after those in which the inputs arrived (R15). -/
def raiseService (c : Chan) (s : State) : State :=
  match s.hwi.inputs[c] with
  | { code := some (code, n), pair := some (x, d, m) } =>
    let law := s.btl.part0.law
    let out := encodeLine law x.toInt
    let s1 := s.setHwi { s.hwi with inputs := s.hwi.inputs.set c emptyInput }
    match serviceByState c (decodeLine law code) (decodeLine law out) (desiredOf d) s1 with
    | none => s1
    | some (s2, first, second) =>
      s2.setHwi { s2.hwi with
        outputs := s2.hwi.outputs.set c { code := some (out, n + 1), pair := some (first, second, m + 1) } }
  | _ => s

end Sys2Proof.Machine
end

