-- ==== Sys2Proof/Machine/Highway.lean ====
section
/-! DEFINITION. The highway commands of HWI: framing and its loss (R3–R6), arriving inputs (R13), transmit positions
(R15–R17). -/

namespace Sys2Proof.Machine

/-- The nominal frame length in bit clocks (section 1.2). -/
def nominal : Highway → Nat
  | .line => 256
  | .modem => 1024

/-- A highway's record. -/
def syncOf (h : Highway) (s : State) : SyncRec :=
  match h with
  | .line => s.hwi.line
  | .modem => s.hwi.modem

/-- Replace a highway's record. -/
def setSync (h : Highway) (r : SyncRec) (s : State) : State :=
  match h with
  | .line => s.setHwi { s.hwi with line := r }
  | .modem => s.setHwi { s.hwi with modem := r }

/-- The events of a loss and of a regain (R5). -/
def lostKind : Highway → EventKind
  | .line => .lineSyncLost
  | .modem => .modemSyncLost

/-- The event of a regain (R5). -/
def regainedKind : Highway → EventKind
  | .line => .lineSyncRegained
  | .modem => .modemSyncRegained

/-- A frame of a highway in sync begins: its number advances (R15); a line frame takes the law in force for its idle codes
(section 1.3) and is due its XFU step (R132). -/
def beginFrame (h : Highway) (s : State) : State :=
  let r := syncOf h s
  let s1 := setSync h { r with frame := r.frame + 1 } s
  match h with
  | .line => s1.setHwi { s1.hwi with idleLaw := s1.btl.part0.law, frameDue := true }
  | .modem => s1

/-- A highway leaves IN_SYNC with a cause (R4, R5, R6). -/
def loseSync (h : Highway) (cause : Nat) (s : State) : State :=
  let r := syncOf h s
  let now := s.btl.timebase
  let s1 := setSync h { r with inSync := false, run := 0, starting := decide (cause = 1), lossTime := now, watch := now } s
  postAll (lostKind h) none cause
    (s1.setHwi { s1.hwi with
      inputs := Vector.replicate 32 emptyInput, outputs := Vector.replicate 32 emptyHold
      frameDue := match h with
        | .line => false
        | .modem => s1.hwi.frameDue })

/-- A highway becomes IN_SYNC (R3, R5): its first synchronised frame begins. -/
def regainSync (h : Highway) (s : State) : State :=
  let r := syncOf h s
  postAll (regainedKind h) none (min 65535 (elapsed s r.lossTime)) (beginFrame h (setSync h { r with inSync := true } s))

/-- A pulse on a highway that is OUT_OF_SYNC (R3). -/
def searchPulse (h : Highway) (spacing : Nat) (s : State) : State :=
  let r := syncOf h s
  if !r.starting then setSync h { r with starting := true, run := 0 } s
  else if spacing = nominal h then
    let s1 := setSync h { r with run := r.run + 1 } s
    if 3 ≤ r.run + 1 then regainSync h s1 else s1
  else setSync h { r with run := 0 } s

/-- A frame sync pulse (R3, R4). A pulse later than nominal on a highway in sync finds that MISSING SYNC has come first
(log entry 11). -/
def framePulse (h : Highway) (spacing : Nat) (s : State) : State :=
  let s1 := setSync h { syncOf h s with watch := s.btl.timebase } s
  if (syncOf h s).inSync then
    if spacing < nominal h then loseSync h 1 s1
    else if spacing = nominal h then beginFrame h s1
    else searchPulse h spacing (loseSync h 2 s1)
  else searchPulse h spacing s1

/-- FRAME_SYNC_PULSE (R3, R4). -/
def execFrameSyncPulse (h : Highway) (spacing : Nat) (s : State) : Host.Outcome State Fault Refusal :=
  .next (framePulse h spacing s)

/-- MISSING_SYNC (R4): cause 2, on a highway in sync. -/
def execMissingSync (h : Highway) (s : State) : Host.Outcome State Fault Refusal :=
  .next (if (syncOf h s).inSync then loseSync h 2 s else s)

/-- CLOCK_STOPPED (R4, R187): cause 3, on a highway in sync once two milliseconds have passed without a pulse. -/
def execClockStopped (h : Highway) (s : State) : Host.Outcome State Fault Refusal :=
  .next (if (syncOf h s).inSync && timeReached s (syncOf h s).watch 2 then loseSync h 3 s else s)

/-- SYNC_SEARCH_TIMEOUT (R3, R187): the run ends, out of sync, once two milliseconds have passed without a pulse. -/
def execSyncSearchTimeout (h : Highway) (s : State) : Host.Outcome State Fault Refusal :=
  .next (if !(syncOf h s).inSync && timeReached s (syncOf h s).watch 2 then
    setSync h { syncOf h s with run := 0, starting := false } s else s)

/-- Both highways are IN_SYNC (R6). -/
def bothInSync (s : State) : Bool := s.hwi.line.inSync && s.hwi.modem.inSync

/-- The channel a line timeslot is mapped to (R1, R73). -/
def mappedChan (n : Slot) (s : State) : Option Chan := (List.finRange 32).find? fun c => s.chans[c].slot == some n

/-- A line code arrives (R13); it is discarded out of sync (R6) and in an unassigned timeslot (R1). -/
def lineCode (n : Slot) (code : Byte) (s : State) : State :=
  match mappedChan n s with
  | none => s
  | some c =>
    if bothInSync s then
      raiseService c (s.setHwi { s.hwi with
        inputs := s.hwi.inputs.set c { s.hwi.inputs[c] with code := some (code, s.hwi.line.frame) } })
    else s

/-- LINE_CODE_ARRIVES (R13). -/
def execLineCodeArrives (n : Slot) (code : Byte) (s : State) : Host.Outcome State Fault Refusal :=
  .next (lineCode n code s)

/-- A modem pair arrives (R13); it is discarded out of sync (R6) and for a channel without a timeslot (R2). -/
def modemPair (c : Chan) (x d : Word) (s : State) : State :=
  if s.chans[c].slot.isSome && bothInSync s then
    raiseService c (s.setHwi { s.hwi with
      inputs := s.hwi.inputs.set c { s.hwi.inputs[c] with pair := some (x, d, s.hwi.modem.frame) } })
  else s

/-- MODEM_PAIR_ARRIVES (R13). -/
def execModemPairArrives (c : Chan) (x d : Word) (s : State) : Host.Outcome State Fault Refusal :=
  .next (modemPair c x d s)

/-- A held output at its transmit position in frame n (R15): what is sent, and what stays held. An output marked for an
earlier frame is stale and is discarded. -/
def sendHeld {α : Type} (n : Nat) (held : Option (α × Nat)) : Option α × Option (α × Nat) :=
  match held with
  | none => (none, none)
  | some (v, m) => if m = n then (some v, none) else if m < n then (none, none) else (none, some (v, m))

/-- The transmit position of a line timeslot (R15, R17): the held output marked for the frame, else the idle code. -/
def lineSend (n : Slot) (s : State) : State :=
  let idle := idleCode s.hwi.idleLaw
  match mappedChan n s with
  | none => s.setHwi { s.hwi with lhtx := { slot := n, code := idle } }
  | some c =>
    let r := sendHeld s.hwi.line.frame s.hwi.outputs[c].code
    s.setHwi { s.hwi with
      lhtx := { slot := n, code := r.1.getD idle }
      outputs := s.hwi.outputs.set c { s.hwi.outputs[c] with code := r.2 } }

/-- LINE_OUTPUT_SEND (R15). -/
def execLineOutputSend (n : Slot) (s : State) : Host.Outcome State Fault Refusal := .next (lineSend n s)

/-- The transmit positions of a channel's modem slots (R15): the held pair marked for the frame, else 0 and 0. -/
def modemSend (c : Chan) (s : State) : State :=
  let r := sendHeld s.hwi.modem.frame (s.hwi.outputs[c].pair.map fun p => ((p.1, p.2.1), p.2.2))
  let sent := r.1.getD (0, 0)
  s.setHwi { s.hwi with
    mhtx := { chan := c, first := sent.1, second := sent.2 }
    outputs := s.hwi.outputs.set c
      { s.hwi.outputs[c] with pair := r.2.map fun p => (p.1.1, p.1.2, p.2) } }

/-- MODEM_OUTPUT_SEND (R15). -/
def execModemOutputSend (c : Chan) (s : State) : Host.Outcome State Fault Refusal := .next (modemSend c s)

end Sys2Proof.Machine
end

