-- ==== Sys2Proof/Machine/Lane.lean ====
section
/-! DEFINITION. The two lanes of the bus: grants and records received (R157–R159), responses and completions sent
(R165, R166, R171, R172), the effect of PART RESET (R178), and the requests CBI answers by itself (R159, R167). -/

namespace Sys2Proof.Machine

/-! ### The request lane -/

/-- Places of the request queue taken, that of a grant included (R157). -/
def placesTaken (s : State) : Nat := s.cbi.queue.length + if s.cbi.grant.isSome then 1 else 0

/-- The first raised line in the order last granted + 1, + 2, + 3, + 4, modulo 4 (R157). -/
def nextGrant (last : Ctl) (raised : BitVec 4) : Option Ctl :=
  [last + 1, last + 2, last + 3, last].find? fun k => raised.getLsbD k.val

/-- The request-lane arbiter (R157). -/
def laneGrant (raised : BitVec 4) (s : State) : State :=
  if s.cbi.grant.isNone && decide (placesTaken s < Config.queuePlaces) && !s.cbi.resetPending then
    match nextGrant s.cbi.lastGranted raised with
    | none => s
    | some k => s.setCbi { s.cbi with
        grant := some { ctl := k, words := [], parityBad := false, since := s.btl.timebase }, lastGranted := k }
  else s

/-- REQUEST_LANE_GRANT (R157). -/
def execRequestLaneGrant (raised : BitVec 4) (s : State) : Host.Outcome State Fault Refusal :=
  .next (laneGrant raised s)

/-- A record ends with its last word, or at a bad length word (R158); `bad` says that the last word received failed
parity. -/
def recordEnds (words : List Word) (bad : Bool) : Bool :=
  match words with
  | [_, len] => bad || decide (42 < len.toNat) || decide (len.toNat = 0)
  | _ :: len :: rest => decide (len.toNat ≤ rest.length)
  | _ => false

/-- The request of an accepted record (R158, R166). -/
def Grant.request (g : Grant) : Request :=
  { ctl := g.ctl, header := g.words.getD 0 0, length := (g.words.getD 1 0).toNat, words := g.words.drop 2
    parityBad := g.parityBad, answer := none, announces := false }

/-- A strobe (R158, R159); without a grant it is ignored. -/
def receiveWord (data : Word) (parity : Bool) (s : State) : State :=
  match s.cbi.grant with
  | none => s
  | some g =>
    let bad := !parityGood data parity
    let g1 := { g with
      words := g.words ++ [data], parityBad := g.parityBad || bad, since := s.btl.timebase }
    if recordEnds g1.words bad then
      s.setCbi { s.cbi with grant := none, queue := s.cbi.queue ++ [g1.request] }
    else s.setCbi { s.cbi with grant := some g1 }

/-- REQUEST_WORD_STROBE (R158). -/
def execRequestWordStrobe (data : Word) (parity : Bool) (s : State) : Host.Outcome State Fault Refusal :=
  .next (receiveWord data parity s)

/-- RECORD_ABANDONED (R158): two milliseconds of a grant without a strobe. -/
def execRecordAbandoned (s : State) : Host.Outcome State Fault Refusal :=
  .next (match s.cbi.grant with
    | none => s
    | some g => if timeReached s g.since 2 then s.setCbi { s.cbi with grant := none } else s)

/-! ### The reply lane -/

/-- The response that waits: that of the oldest request, once it is decided (R172). -/
def responseWaiting (s : State) : Option (Request × Answer) :=
  s.cbi.queue.head?.bind fun rq => rq.answer.map fun a => (rq, a)

/-- A DEFERRED response has been sent: its entry is announced, and READY if its outcome is known (R171). -/
def announce (rq : Request) (b : Cbi) : Cbi :=
  if rq.announces then
    { b with
      deferred := b.deferred.map fun e =>
        if e.is rq.ctl rq.tag then { e with announced := true, ready := e.outcome.isSome } else e
      ready := if b.deferred.any (fun e => e.is rq.ctl rq.tag && e.outcome.isSome) then b.ready ++ [(rq.ctl, rq.tag)]
        else b.ready }
  else b

/-- The state after PART RESET (R178, R194): what continues is named, everything else takes its reset value, the law of
the idle codes with the built-in defaults (R188, log entry 12). The two-wire port's record keeps the last load until the
new load ends, which is the model's choice (log entry 42); LHTX, MHTX and the line frame start that is due are kept, which
no rule says and is the model's choice too (log entry 44). -/
def partReset (s : State) : State :=
  { State.reset with
    hwi := { initialHwi with
      line := s.hwi.line, modem := s.hwi.modem, frameDue := s.hwi.frameDue, idleLaw := builtInZero.law
      lhtx := s.hwi.lhtx, mhtx := s.hwi.mhtx }
    sal := { initialSal with taps := s.sal.taps, hist := s.sal.hist }
    cbi := { initialCbi with lane := s.cbi.lane }
    btl := { initialBtl with
      timebase := s.btl.timebase, resetLow := s.btl.resetLow, booting := !s.btl.resetLow, port := s.btl.port }
    free := s.free, pending := s.pending }

/-- The response is that of the PART RESET that has been decided (R178). -/
def resetsPart (rq : Request) (a : Answer) (s : State) : Bool :=
  s.cbi.resetPending && rq.kind == some .partReset && a.kind == .done

/-- Send the response of the oldest request (R162, R166, R171, R172); after PART RESET's own the reset takes effect
(R178). -/
def sendHead (rq : Request) (a : Answer) (s : State) : State :=
  let b := announce rq s.cbi
  let s1 := s.setCbi { b with
    lane := onLane (responseRecord rq a), queue := b.queue.tail, preference := .completion }
  if resetsPart rq a s then partReset s1 else s1

/-- The arbiter prefers, or is left with, the response stage (R172). -/
def responseChosen (s : State) : Bool := s.cbi.preference == .response || s.cbi.ready.isEmpty

/-- The arbiter sends a waiting response (R172). -/
def sendResponse (s : State) : State :=
  match responseWaiting s with
  | none => s
  | some (rq, a) => if responseChosen s then sendHead rq a s else s

/-- SEND_RESPONSE (R166, R172). -/
def execSendResponse (s : State) : Host.Outcome State Fault Refusal := .next (sendResponse s)

/-- The arbiter sends the oldest READY entry's completion, and the entry is removed (R171, R172). -/
def sendCompletion (s : State) : State :=
  match s.cbi.ready with
  | [] => s
  | (k, t) :: rest =>
    if s.cbi.preference == .completion || (responseWaiting s).isNone then
      match (s.cbi.deferred.find? fun e => e.is k t).bind Deferred.outcome with
      | none => s
      | some (o, ws) =>
        s.setCbi { s.cbi with
          lane := onLane (completionRecord k t o ws), ready := rest, preference := .response
          deferred := s.cbi.deferred.filter fun e => !e.is k t }
    else s

/-- SEND_COMPLETION (R171, R172). -/
def execSendCompletion (s : State) : Host.Outcome State Fault Refusal := .next (sendCompletion s)

/-- PART_RESET_EFFECT (R178): the last word of PART RESET's own response is sent (log entry 14). -/
def execPartResetEffect (s : State) : Host.Outcome State Fault Refusal :=
  .next (match responseWaiting s with
    | none => s
    | some (rq, a) => if resetsPart rq a s && responseChosen s then sendHead rq a s else s)

/-! ### Requests CBI answers by itself -/

/-- PARITY_FAILED_REQUEST (R159, R167): no other check sees it. -/
def execParityFailedRequest (s : State) : Host.Outcome State Fault Refusal :=
  .next (if s.cbi.resetPending then s
    else match nextRequest s with
      | none => s
      | some rq => if rq.parityBad then answerFirst (parityAnswer rq) s else s)

/-- UNKNOWN_REQUEST_KIND (R167): the checks before it, then BAD_REQUEST. -/
def execUnknownRequestKind (s : State) : Host.Outcome State Fault Refusal :=
  .next (takeRequest (fun rq => !rq.parityBad && rq.kind.isNone) (fun _ s => (s, refused .badRequest)) s)

end Sys2Proof.Machine
end

