-- ==== Sys2Proof/Machine/Profiles.lean ====
section
/-! DEFINITION. The profile requests (R129, R130, R136–R142). -/

namespace Sys2Proof.Machine

/-! ### The ordered checks (R136) -/

/-- The lock step of a profile request, after its form and range checks, and then the request itself (R136). -/
def lockedRequest (early : List (Bool × Answer)) (lock : State → State × Option Answer)
    (rest : State → State × Answer) (s : State) : State × Answer :=
  match firstFail early with
  | some a => (s, a)
  | none =>
    match lock s with
    | (s1, some a) => (s1, a)
    | (s1, none) => rest s1

/-- The channel a profile is bound to. -/
def boundChanOf (k : Key) (s : State) : Option Chan := (findProfile k s).bind fun r => s.pfs.recs[r].boundChan

/-- Step 3 of R149: a BEGIN on a profile. `reads` says that the request reads it. -/
def profileObjCheck (reads : Bool) (rq : Request) (s : State) : Option Answer :=
  let notReady (c : Chan) : Bool :=
    match s.chans[c].state with
    | .pending | .loading | .releasing => true
    | .free | .bound | .echoTrain | .eqTrain | .tracking | .fault => false
  firstFail
    [ (lockedByOther rq.ctl (.profile rq.key) s, retry .locked),
      ((boundChanOf rq.key s).any fun c => heldByOther rq.ctl c s, retry .locked),
      (reads && (boundChanOf rq.key s).any notReady, retry .channelNotReady) ]

/-! ### STORE PROFILE (R129, R137) -/

/-- A fill's record (R137). -/
def filledRecord (k : Key) (d : Descriptor) : Profile :=
  { emptyProfile with key := some k, state := .filling, desc := d, origin := .stored }

/-- The record becomes the object of a fill and leaves the recency list (R137). -/
def placeFill (r : Rec) (k : Key) (d : Descriptor) (s : State) : State :=
  (s.setRec r (filledRecord k d)).setRecency (s.pfs.recency.filter (· != r))

/-- An invalidation's part on the bound channel (R129): a channel in RELEASING loses its save and enters FREE. -/
def invalidate (c : Chan) (k : Key) (s : State) : State :=
  let s1 := s.modChan c fun x => { x with bound := none, load := none, relation := .none }
  if s.chans[c].state = .releasing then
    enterFree c (completeRelease c .notSaved SaveReason.superseded.code (some k) (cancelJob c s1))
  else s1

/-- The fill begins on a record (R129, R137); units returned by a cancelled save cause a head re-check (R113). -/
def beginFill (r : Rec) (k : Key) (d : Descriptor) (s : State) : State :=
  match (if s.pfs.recs[r].key = some k then s.pfs.recs[r].boundChan else none) with
  | none => placeFill r k d s
  | some c =>
    let s1 := placeFill r k d (invalidate c k s)
    if s.chans[c].state = .releasing then recheck s1 else s1

/-- STORE PROFILE after the lock step (R137). -/
def storeProfile (rq : Request) (s : State) : State × Answer :=
  let d := rq.descriptor 2
  if loadSource rq.key s then (s, retry .inTransfer)
  else
    match findProfile rq.key s <|> recordFor s with
    | none => (s, refused .storeFull)
    | some r =>
      (markerEffect rq (.profile rq.key) .fill none (beginFill r rq.key d s),
       done [(namedChunks d.near d.eq).setWidth 16])

/-- STORE PROFILE (R136, R137). -/
def ownStoreProfile (rq : Request) (s : State) : State × Answer :=
  lockedRequest
    [ (!(rq.length == 9 && rq.marker == .begin && decide (rq.num 2 < 64)), refused .badRequest),
      (rq.key == 0 || !(rq.descriptor 2).inRange, refused .outOfRange) ]
    (fun s => lockStep rq (.profile rq.key) (profileObjCheck false rq s) (fun _ => false) s)
    (storeProfile rq) s

/-- STORE PROFILE is taken (R137, R166). -/
def execStoreProfile (s : State) : Host.Outcome State Fault Refusal :=
  .next (takeRequest (isKind .storeProfile) ownStoreProfile s)

/-! ### STORE PROFILE TAPS (R138) -/

/-- The chunk index of a profile request: its parameter word. -/
def Request.chunk (rq : Request) : Fin 9 := Fin.ofNat 9 (rq.num 2)

/-- The request carries data (R138). -/
def Request.hasChunk (rq : Request) : Bool := rq.length == 35

/-- The 32 data words from word i on, clamped (R138, R146). -/
def Request.clampedData (rq : Request) (i : Nat) : List Word := ((rq.words.drop i).take 32).map clampWord

/-- The record with the chunk written, when the request carries one (R138). -/
def writeChunk (rq : Request) (p : Profile) : Profile :=
  if rq.hasChunk then
    { p with
      chunks := p.chunks.set rq.chunk (rq.clampedData 3), written := p.written ||| (1#9 <<< rq.chunk.val) }
  else p

/-- The named chunks still unwritten (R138). -/
def unwritten (p : Profile) : Nat :=
  ((List.range 9).filter fun i => (namedChunks p.desc.near p.desc.eq).getLsbD i && !p.written.getLsbD i).length

/-- An END with every named chunk written (R138). -/
def completeFill (r : Rec) (s : State) : State :=
  (s.setRec r { s.pfs.recs[r] with state := .valid }).setRecency (toFront r s.pfs.recency)

/-- STORE PROFILE TAPS after the lock step (R138). -/
def storeTaps (rq : Request) (s : State) : State × Answer :=
  match findProfile rq.key s with
  | none => (s, refused .noProfile)
  | some r =>
    let p := s.pfs.recs[r]
    if !(namedChunks p.desc.near p.desc.eq).getLsbD rq.chunk.val then (s, refused .outOfRange)
    else
      let q := writeChunk rq p
      let s1 := s.setRec r q
      if rq.marker != .ending then
        (markerEffect rq (.profile rq.key) .fill none s1, done [word (unwritten q)])
      else if unwritten q = 0 then (endLock rq.ctl (completeFill r s1), done [])
      else (endLock rq.ctl (emptyRecord r s1), refused .incomplete)

/-- STORE PROFILE TAPS (R136, R138, R150). -/
def ownStoreProfileTaps (rq : Request) (s : State) : State × Answer :=
  lockedRequest
    [ (!((rq.length == 35 && (rq.marker == .continue || rq.marker == .ending))
          || (rq.length == 3 && rq.marker == .ending)), refused .badRequest),
      (rq.key == 0 || decide (8 < rq.num 2), refused .outOfRange) ]
    (fun s => lockStep rq (.profile rq.key) none (fun l => l.purpose == .profileRead) s)
    (storeTaps rq) s

/-- STORE PROFILE TAPS is taken (R138, R166). -/
def execStoreProfileTaps (s : State) : Host.Outcome State Fault Refusal :=
  .next (takeRequest (isKind .storeProfileTaps) ownStoreProfileTaps s)

/-! ### Reads (R130, R139, R140) -/

/-- The states of a bound channel in which a read is served live (R130). -/
def liveState : ChanState → Bool
  | .bound | .echoTrain | .eqTrain | .tracking | .fault | .releasing => true
  | .free | .pending | .loading => false

/-- The channel that serves a read live (R130). -/
def liveChan (p : Profile) (s : State) : Option Chan := p.boundChan.filter fun c => liveState s.chans[c].state

/-- The channel that a PROFILE READ lock holds (R149): the bound channel in BOUND to FAULT. -/
def readHeld (p : Profile) (s : State) : Option Chan :=
  p.boundChan.filter fun c => liveState s.chans[c].state && s.chans[c].state != .releasing

/-- The descriptor reported live (R130). -/
def liveDescriptor (x : Context) (d : Descriptor) : Descriptor :=
  { d with
    near := x.par.near, farHint := x.par.far, bulkHint := x.par.bulk, mainTap := x.par.mainTap, lag := x.par.lag
    eq := x.par.eq, best := x.convErle.getD d.best }

/-- A descriptor packed in seven words (R164). The byte of an exponent outside the set is a free value (log entry 20). -/
def descriptorWords (free : Nat) (d : Descriptor) : List Word :=
  let byte (i : Nat) (e : Option Nat) : Nat := e.getD (Config.freeByte (free + i)).toNat
  [word (bit d.pinned 0 + bit d.eq 1 + bit d.aEchoTrain.isSome 2 + bit d.aEchoTrack.isSome 3
      + bit d.aEqTrain.isSome 4 + bit d.aEqTrack.isSome 5),
   pack d.near d.farHint, word d.bulkHint, pack (byte 0 d.aEchoTrain) (byte 1 d.aEchoTrack),
   pack (byte 2 d.aEqTrain) (byte 3 d.aEqTrack), pack d.mainTap d.lag, word d.best]

/-- The twelve words of READ PROFILE (R139, R164). -/
def profileWords (free : Nat) (p : Profile) (d : Descriptor) : List Word :=
  [word p.state.code] ++ descriptorWords free d
    ++ [word p.origin.code, word p.useCount, optWord (p.boundChan.map Fin.val),
        if p.state = .filling ∧ p.boundChan = none then p.written.setWidth 16 else 0]

/-- A VALID profile moves to the front of the recency list (R139). -/
def touch (r : Rec) (s : State) : State :=
  if s.pfs.recs[r].state = .valid then s.setRecency (toFront r s.pfs.recency) else s

/-- READ PROFILE after the lock step (R130, R139). -/
def readProfile (rq : Request) (s : State) : State × Answer :=
  match findProfile rq.key s with
  | none => (s, refused .noProfile)
  | some r =>
    let p := s.pfs.recs[r]
    let live := liveChan p s
    let d := match live with
      | none => p.desc
      | some c => liveDescriptor s.chans[c] p.desc
    (markerEffect rq (.profile rq.key) .profileRead (readHeld p s) { touch r s with free := s.free + 4 },
     { done (profileWords s.free p d) with live := live.isSome })

/-- The lock step of the two profile reads (R149, R150): a FILL is not ended by a read. -/
def readLock (rq : Request) (s : State) : State × Option Answer :=
  lockStep rq (.profile rq.key) (profileObjCheck true rq s)
    (fun l => l.purpose == .fill && rq.marker == .ending) s

/-- READ PROFILE (R136, R139). -/
def ownReadProfile (rq : Request) (s : State) : State × Answer :=
  lockedRequest [(rq.length != 2, refused .badRequest), (rq.key == 0, refused .outOfRange)] (readLock rq)
    (readProfile rq) s

/-- READ PROFILE is taken (R139, R166). -/
def execReadProfile (s : State) : Host.Outcome State Fault Refusal :=
  .next (takeRequest (isKind .readProfile) ownReadProfile s)

/-- The invalid-word marks of a read of one chunk, when there are any (R140, R145, R162). -/
def marksOf (rd : List TapRead) : Option (BitVec 32) :=
  if rd.any fun t => t.cls.isBad then
    some (BitVec.ofNat 32 ((rd.zipIdx.map fun p => bit p.1.cls.isBad p.2).sum))
  else none

/-- The words a read returns: an uncorrectable one as 0 (R140, R145). -/
def readWords (rd : List TapRead) : List Word := rd.map fun t => t.cls.value.getD 0

/-- The live channel's segment for a profile chunk (R140). -/
def liveSegment (i : Fin 9) (x : Context) : Option Seg := if i = 8 then x.eqSeg else x.segs[i.val]?

/-- A chunk served from the live channel (R140). -/
def readLive (c : Chan) (i : Fin 9) (s : State) : State × Answer :=
  match liveSegment i s.chans[c] with
  | none => (s, { done zeroChunk with live := true })
  | some g =>
    let rd := readSegment s.sal g
    (applyCorrections c rd s, { done (readWords rd) with live := true, marks := marksOf rd })

/-- The checks of the index against the source that serves the read (R140). -/
def chunkChecks (i : Fin 9) (near : Nat) (eq : Bool) : List (Bool × Answer) :=
  [(i == 8 && !eq, refused .noEqualizer), (i != 8 && decide (near ≤ i.val), refused .outOfRange)]

/-- READ PROFILE TAPS after the lock step (R130, R140). -/
def readProfileTaps (rq : Request) (s : State) : State × Answer :=
  match findProfile rq.key s with
  | none => (s, refused .noProfile)
  | some r =>
    let p := s.pfs.recs[r]
    let live := liveChan p s
    let checks := match live with
      | none => chunkChecks rq.chunk p.desc.near p.desc.eq
      | some c => chunkChecks rq.chunk s.chans[c].par.near s.chans[c].par.eq
    checked checks
      (fun s =>
        let out := match live with
          | none => (s, done p.chunks[rq.chunk])
          | some c => readLive c rq.chunk s
        (markerEffect rq (.profile rq.key) .profileRead (readHeld p s) out.1, out.2)) s

/-- READ PROFILE TAPS (R136, R140). -/
def ownReadProfileTaps (rq : Request) (s : State) : State × Answer :=
  lockedRequest
    [(rq.length != 3, refused .badRequest), (rq.key == 0 || decide (8 < rq.num 2), refused .outOfRange)]
    (readLock rq) (readProfileTaps rq) s

/-- READ PROFILE TAPS is taken (R140, R166). -/
def execReadProfileTaps (s : State) : Host.Outcome State Fault Refusal :=
  .next (takeRequest (isKind .readProfileTaps) ownReadProfileTaps s)

/-! ### DROP PROFILE and LIST PROFILES (R141, R142) -/

/-- DROP PROFILE after its form and range checks (R141). -/
def dropProfile (rq : Request) (s : State) : State × Answer :=
  match findProfile rq.key s with
  | none => (s, refused .noProfile)
  | some r =>
    checked
      [ (s.pfs.recs[r].boundChan.isSome || lockedByAny (.profile rq.key) s, refused .profileBusy),
        (loadSource rq.key s, retry .inTransfer) ]
      (fun s => (emptyRecord r s, done [])) s

/-- DROP PROFILE (R136, R141). -/
def ownDropProfile (rq : Request) (s : State) : State × Answer :=
  checked [(!rq.plain 2, refused .badRequest), (rq.key == 0, refused .outOfRange)] (dropProfile rq) s

/-- DROP PROFILE is taken (R141, R166). -/
def execDropProfile (s : State) : Host.Outcome State Fault Refusal :=
  .next (takeRequest (isKind .dropProfile) ownDropProfile s)

/-- The three words of a listed profile (R142, R164). -/
def listEntry (p : Profile) : List Word :=
  keyWords p.key ++ [word (bit p.desc.pinned 0 + bit p.boundChan.isSome 1 + 4 * p.origin.code)]

/-- The result words of LIST PROFILES (R142). -/
def listProfiles (start : Nat) (s : State) : List Word :=
  [word s.pfs.recency.length, word start]
    ++ ((s.pfs.recency.drop start).take 8).flatMap fun r => listEntry s.pfs.recs[r]

/-- LIST PROFILES (R136, R142). -/
def ownListProfiles (rq : Request) (s : State) : State × Answer :=
  checked [(!rq.plain 1, refused .badRequest), (decide (63 < rq.num 0), refused .outOfRange)]
    (fun s => (s, done (listProfiles (rq.num 0) s))) s

/-- LIST PROFILES is taken (R142, R166). -/
def execListProfiles (s : State) : Host.Outcome State Fault Refusal :=
  .next (takeRequest (isKind .listProfiles) ownListProfiles s)

end Sys2Proof.Machine
end

