-- ==== Sys2Proof/Machine/Taps.lean ====
section
/-! DEFINITION. READ TAPS and WRITE TAPS (R143–R146, R149). -/

namespace Sys2Proof.Machine

/-- The largest chunk index of a window (Table 8-1 step 3). -/
def Window.maxChunk : Window → Nat
  | .near => 7
  | .far => 15
  | .equalizer => 0

/-- The window a request names (R143). -/
def Request.window (rq : Request) : Option Window := windowOfCode (rq.num 1)

/-- Step 3 of Table 8-1. -/
def Request.tapRange (rq : Request) : Bool :=
  rq.chanOk && (rq.window.any fun w => rq.num 2 ≤ w.maxChunk)

/-- The segment list entry of a window's chunk (R143). -/
def chunkEntry (w : Window) (i : Nat) (x : Context) : Nat :=
  match w with
  | .near => i
  | .far => x.par.near + i
  | .equalizer => x.par.near + x.par.far

/-- Step 7 of Table 8-1. -/
def windowChecks (w : Window) (i : Nat) (x : Context) : List (Bool × Answer) :=
  match w with
  | .near => [(decide (x.par.near ≤ i), refused .outOfRange)]
  | .far => [(decide (x.par.far ≤ i), refused .outOfRange)]
  | .equalizer => [(!x.par.eq, refused .noEqualizer)]

/-- The segment of the request's chunk (R143). -/
def Request.tapSegment (rq : Request) (x : Context) : Option Seg :=
  rq.window.bind fun w => x.segs[chunkEntry w (rq.num 2) x]?

/-- Step 7 of Table 8-1 for the request. -/
def Request.windowStep (rq : Request) (x : Context) : List (Bool × Answer) :=
  match rq.window with
  | none => []
  | some w => windowChecks w (rq.num 2) x

/-- Step 2 of R149: a BEGIN on a channel. -/
def chanObjCheck (rq : Request) (s : State) : Option Answer :=
  let x := s.chans[rq.chan]
  firstFail
    [ (x.owner != some rq.ctl, refused .notOwner), (x.state == .loading, retry .channelNotReady),
      (x.state == .free || x.state == .pending || x.state == .releasing, refused .wrongState),
      (heldByOther rq.ctl rq.chan s, retry .locked) ]

/-- The lock step of READ TAPS and WRITE TAPS (step 4 of Table 8-1). -/
def tapLock (rq : Request) (s : State) : State × Option Answer :=
  lockStep rq (.chan rq.chan) (chanObjCheck rq s) (fun _ => false) s

/-! ### READ TAPS (R145) -/

/-- The states in which READ TAPS is taken (Table 8-1 step 6). -/
def readable : ChanState → Bool
  | .loading | .bound | .echoTrain | .eqTrain | .tracking | .fault | .releasing => true
  | .free | .pending => false

/-- The states in which an uncorrectable word read moves the channel to FAULT (R95, R145). -/
def faultsOnRead (st : ChanState) : Bool := boundToTracking st || st == .loading

/-- The read of one segment of a channel (R145): its corrections, and the fault its first uncorrectable word causes. -/
def readChunk (c : Chan) (g : Seg) (s : State) : State × Answer :=
  let rd := readSegment s.sal g
  let s1 := applyCorrections c rd s
  (match firstOf TapClass.isBad rd with
    | none => s1
    | some a => if faultsOnRead s.chans[c].state then enterFault c a s1 else s1,
   { done (readWords rd) with corrected := correctedCount rd, marks := marksOf rd })

/-- READ TAPS after the lock step (R144, R145). -/
def readTaps (rq : Request) (s : State) : State × Answer :=
  let x := s.chans[rq.chan]
  checked ((!readable x.state, refused .wrongState) :: rq.windowStep x)
    (fun s =>
      let out := match rq.tapSegment x with
        | none => (s, done zeroChunk)
        | some g => readChunk rq.chan g s
      (markerEffect rq (.chan rq.chan) .channel (some rq.chan) out.1, out.2)) s

/-- READ TAPS (R144, R145). -/
def ownReadTaps (rq : Request) (s : State) : State × Answer :=
  lockedRequest (openChecks (rq.length == 3) rq.tapRange s) (tapLock rq) (readTaps rq) s

/-- READ TAPS is taken (R145, R166). -/
def execReadTaps (s : State) : Host.Outcome State Fault Refusal :=
  .next (takeRequest (isKind .readTaps) ownReadTaps s)

/-! ### WRITE TAPS (R146) -/

/-- Step 8 of Table 8-1 (R146): the lock that the request begins counts as the requester's. -/
def holdChecks (rq : Request) (s : State) : List (Bool × Answer) :=
  [ (heldByOther rq.ctl rq.chan s, retry .locked),
    (!(s.chans[rq.chan].freeze || heldBy rq.ctl rq.chan s || rq.marker == .begin), refused .wrongState) ]

/-- The number of data words that are clamped (R146). -/
def clampedCount (ws : List Word) : Nat := (ws.filter (· == 0x8000)).length

/-- WRITE TAPS after the lock step (R144, R146). -/
def writeTaps (rq : Request) (s : State) : State × Answer :=
  let x := s.chans[rq.chan]
  checked
    ([(x.owner != some rq.ctl, refused .notOwner), (!boundToTracking x.state, refused .wrongState)]
      ++ rq.windowStep x ++ holdChecks rq s)
    (fun s =>
      let s1 := match rq.tapSegment x with
        | none => s
        | some g => s.setSal (writeSegment g (rq.clampedData 3) s.sal)
      (markerEffect rq (.chan rq.chan) .channel (some rq.chan) s1,
       done [word (clampedCount ((rq.words.drop 3).take 32))])) s

/-- WRITE TAPS (R144, R146). -/
def ownWriteTaps (rq : Request) (s : State) : State × Answer :=
  lockedRequest (openChecks (rq.length == 35) rq.tapRange s) (tapLock rq) (writeTaps rq) s

/-- WRITE TAPS is taken (R146, R166). -/
def execWriteTaps (s : State) : Host.Outcome State Fault Refusal :=
  .next (takeRequest (isKind .writeTaps) ownWriteTaps s)

end Sys2Proof.Machine
end

