-- ==== Sys2Proof/Machine/Timers.lean ====
section
/-! DEFINITION. The commands of time: RESET and REFCLK (R187, R194), and the expiries of waits (R115), locks (R152) and
event hold times (R182). -/

namespace Sys2Proof.Machine

/-- Power-on (R194): every block takes its power-on values. The part writes neither memory then (R100). -/
def powerOn (s : State) : State :=
  { State.reset with
    sal := { initialSal with taps := s.sal.taps, hist := s.sal.hist }, free := s.free, pending := s.pending }

/-- POWER_ON (R194). -/
def execPowerOn (s : State) : Host.Outcome State Fault Refusal := .next (powerOn s)

/-- RESET_ASSERTED (R187, R194): the timebase is 0 while RESET is low, and a boot load is abandoned. -/
def execResetAsserted (s : State) : Host.Outcome State Fault Refusal :=
  .next (s.setBtl { s.btl with timebase := 0, resetLow := true, booting := false })

/-- TIMEBASE_TICK (R187): the count advances, modulo 2^32, unless RESET is held low. -/
def execTimebaseTick (s : State) : Host.Outcome State Fault Refusal :=
  .next (if s.btl.resetLow then s else s.setBtl { s.btl with timebase := s.btl.timebase + 1 })

/-- A wait entry leaves by its deadline (R83, R115): its BIND completes NO_ROOM and its channel enters FREE. -/
def expireWait (s : State) (e : WaitEntry) : State :=
  enterFree e.chan (completeBind e.chan .noRoom (removeWait e.chan s))

/-- Every entry whose deadline is reached leaves, in queue order; one head re-check follows (R115). -/
def waitDeadline (s : State) : State :=
  match s.sal.waitQ.filter fun e => timeReached s e.accepted e.limit with
  | [] => s
  | es => recheck (es.foldl expireWait s)

/-- WAIT_DEADLINE (R115). -/
def execWaitDeadline (s : State) : Host.Outcome State Fault Refusal := .next (waitDeadline s)

/-- LOCK_EXPIRY (R152). -/
def execLockExpiry (k : Ctl) (s : State) : Host.Outcome State Fault Refusal := .next (expireLock k s)

/-- EVENT_HOLD_REACHED (R182): the line rises when the age of the oldest entry has reached the hold time. -/
def execEventHoldReached (k : Ctl) (s : State) : Host.Outcome State Fault Refusal :=
  .next (if s.cbi.attached[k] && !s.btl.resetLow && holdReached s.btl.timebase s.fifos[k] then
    s.setFifo k { s.fifos[k] with line := true } else s)

end Sys2Proof.Machine
end

