-- ==== Sys2Proof/Machine/Transfer.lean ====
section
/-! DEFINITION. The Transfer Unit's step at the start of a line frame (R132–R135). -/

namespace Sys2Proof.Machine

/-- The chunk that segment move j of a job copies (R126, R128): near chunk j, or the equalizer chunk 8. -/
def Job.chunk (j : Job) : Fin 9 := if j.eqLast && j.moved + 1 == j.count then 8 else Fin.ofNat 9 j.moved

/-- The channel's segment for that chunk (R133, R134). -/
def Job.segment (j : Job) (x : Context) : Option Seg := if j.chunk = 8 then x.eqSeg else x.segs[j.moved]?

/-- The job's last segment is being moved (R132). -/
def Job.lastMove (j : Job) : Bool := decide (j.count ≤ j.moved + 1)

/-- Replace the head job, or drop it (R132). -/
def setHead (j : Option Job) (s : State) : State :=
  s.setJobs (match j with
    | none => s.jobs.tail
    | some j => j :: s.jobs.tail)

/-- The words of a chunk of the profile under a key (R133). -/
def chunkOf (key : Key) (i : Fin 9) (s : State) : List Word :=
  match findProfile key s with
  | none => zeroChunk
  | some r => s.pfs.recs[r].chunks[i]

/-- One LOAD move (R133); the last ends the job: the channel enters BOUND and its BIND completes (R84). -/
def moveLoad (j : Job) (s : State) : State :=
  let s1 := match j.segment s.chans[j.chan] with
    | none => s
    | some g => s.setSal (writeSegment g (chunkOf j.key j.chunk s) s.sal)
  if j.lastMove then
    completeBind j.chan .bound ((setHead none s1).modChan j.chan fun x => { x with state := .bound })
  else setHead (some { j with moved := j.moved + 1 }) s1

/-- A SAVE stops on an uncorrectable word (R134): the profile becomes EMPTY, the channel FREE. -/
def stopSave (j : Job) (s : State) : State :=
  let s1 := completeRelease j.chan .notSaved SaveReason.fault.code (some j.key) (setHead none s)
  let s2 := match findProfile j.key s1 with
    | none => s1
    | some r => emptyRecord r s1
  recheck (enterFree j.chan s2)

/-- The end of a SAVE (R128): the profile becomes VALID at the front of the recency list, the channel FREE. -/
def endSave (j : Job) (r : Rec) (s : State) : State :=
  let s1 := ((setHead none s).setRec r { s.pfs.recs[r] with state := .valid, boundChan := none }).setRecency
    (toFront r s.pfs.recency)
  recheck (enterFree j.chan (completeRelease j.chan .saved 0 (some j.key) s1))

/-- One SAVE move (R134). -/
def moveSave (j : Job) (s : State) : State :=
  match j.segment s.chans[j.chan], findProfile j.key s with
  | some g, some r =>
    let rd := readSegment s.sal g
    let s1 := applyCorrections j.chan rd s
    if rd.any fun t => t.cls.isBad then stopSave j s1
    else
      let p := s1.pfs.recs[r]
      let s2 := s1.setRec r { p with chunks := p.chunks.set j.chunk (rd.map fun t => t.cls.value.getD 0) }
      if j.lastMove then endSave j r s2 else setHead (some { j with moved := j.moved + 1 }) s2
  | _, _ => s

/-- XFU's step (R132): one segment of the head job, once a line frame in sync and never in the frame in which the job
was queued (log entry 10). -/
def lineFrameStart (s : State) : State :=
  if s.hwi.line.inSync && s.hwi.frameDue then
    let s1 := s.setHwi { s.hwi with frameDue := false }
    match s.jobs with
    | [] => s1
    | j :: _ =>
      if j.queuedAt < s.hwi.line.frame then
        match j.kind with
        | .load => moveLoad j s1
        | .save => moveSave j s1
      else s1
  else s

/-- LINE_FRAME_START (R132). -/
def execLineFrameStart (s : State) : Host.Outcome State Fault Refusal := .next (lineFrameStart s)

end Sys2Proof.Machine
end

