-- ==== Sys2Proof/Machine/Dispatch.lean ====
section
/-! DEFINITION. The one place where a command meets its meaning: one arm for each constructor of Instr. -/

namespace Sys2Proof.Machine

/-- The effect of a command on everything but the queue of waiting commands. -/
def exec (i : Instr) (s : State) : Host.Outcome State Fault Refusal :=
  match i with
  | .powerOn => Sys2Proof.Machine.execPowerOn s
  | .resetAsserted => Sys2Proof.Machine.execResetAsserted s
  | .timebaseTick => Sys2Proof.Machine.execTimebaseTick s
  | .bootLoadEnd nack image => Sys2Proof.Machine.execBootLoadEnd nack image s
  | .frameSyncPulse h spacing => Sys2Proof.Machine.execFrameSyncPulse h spacing s
  | .missingSync h => Sys2Proof.Machine.execMissingSync h s
  | .clockStopped h => Sys2Proof.Machine.execClockStopped h s
  | .syncSearchTimeout h => Sys2Proof.Machine.execSyncSearchTimeout h s
  | .lineCodeArrives slot code => Sys2Proof.Machine.execLineCodeArrives slot code s
  | .modemPairArrives c x d => Sys2Proof.Machine.execModemPairArrives c x d s
  | .lineOutputSend slot => Sys2Proof.Machine.execLineOutputSend slot s
  | .modemOutputSend c => Sys2Proof.Machine.execModemOutputSend c s
  | .lineFrameStart => Sys2Proof.Machine.execLineFrameStart s
  | .waitDeadline => Sys2Proof.Machine.execWaitDeadline s
  | .lockExpiry k => Sys2Proof.Machine.execLockExpiry k s
  | .eventHoldReached k => Sys2Proof.Machine.execEventHoldReached k s
  | .requestLaneGrant raised => Sys2Proof.Machine.execRequestLaneGrant raised s
  | .requestWordStrobe data parity => Sys2Proof.Machine.execRequestWordStrobe data parity s
  | .recordAbandoned => Sys2Proof.Machine.execRecordAbandoned s
  | .sendResponse => Sys2Proof.Machine.execSendResponse s
  | .sendCompletion => Sys2Proof.Machine.execSendCompletion s
  | .partResetEffect => Sys2Proof.Machine.execPartResetEffect s
  | .parityFailedRequest => Sys2Proof.Machine.execParityFailedRequest s
  | .unknownRequestKind => Sys2Proof.Machine.execUnknownRequestKind s
  | .attach => Sys2Proof.Machine.execAttach s
  | .detach => Sys2Proof.Machine.execDetach s
  | .openService => Sys2Proof.Machine.execOpenService s
  | .closeService => Sys2Proof.Machine.execCloseService s
  | .queryPart => Sys2Proof.Machine.execQueryPart s
  | .partReset => Sys2Proof.Machine.execPartReset s
  | .setDefaults => Sys2Proof.Machine.execSetDefaults s
  | .readDefaults => Sys2Proof.Machine.execReadDefaults s
  | .bind => Sys2Proof.Machine.execBind s
  | .release => Sys2Proof.Machine.execRelease s
  | .trainEcho => Sys2Proof.Machine.execTrainEcho s
  | .trainEqualizer => Sys2Proof.Machine.execTrainEqualizer s
  | .track => Sys2Proof.Machine.execTrack s
  | .freeze => Sys2Proof.Machine.execFreeze s
  | .thaw => Sys2Proof.Machine.execThaw s
  | .restart => Sys2Proof.Machine.execRestart s
  | .setFarWindow => Sys2Proof.Machine.execSetFarWindow s
  | .adopt => Sys2Proof.Machine.execAdopt s
  | .queryChannel => Sys2Proof.Machine.execQueryChannel s
  | .queryStore => Sys2Proof.Machine.execQueryStore s
  | .storeProfile => Sys2Proof.Machine.execStoreProfile s
  | .storeProfileTaps => Sys2Proof.Machine.execStoreProfileTaps s
  | .readProfile => Sys2Proof.Machine.execReadProfile s
  | .readProfileTaps => Sys2Proof.Machine.execReadProfileTaps s
  | .dropProfile => Sys2Proof.Machine.execDropProfile s
  | .listProfiles => Sys2Proof.Machine.execListProfiles s
  | .readTaps => Sys2Proof.Machine.execReadTaps s
  | .writeTaps => Sys2Proof.Machine.execWriteTaps s
  | .fetchEvents => Sys2Proof.Machine.execFetchEvents s
  | .setEventTrigger => Sys2Proof.Machine.execSetEventTrigger s

end Sys2Proof.Machine
end

