-- ==== Sys2Proof/WellFormed.lean ====
section
/-! DEFINITION. The commands the outside world can bring: what a command's operands must satisfy beyond their types. -/

namespace Sys2Proof

/-- A command is well formed. A pulse comes at least one bit clock after the one before (section 1.2). A boot load that
ended on an unacknowledged byte returned no image byte (R191); any other returned at least one, and no more than a
16-bit byte length can count (R192). -/
def Instr.wf : Instr → Bool
  | .frameSyncPulse _ spacing => decide (0 < spacing)
  | .bootLoadEnd (some _) image => image.isEmpty
  | .bootLoadEnd none image => decide (0 < image.length ∧ image.length ≤ 65535)
  | _ => true

end Sys2Proof
end

