-- ==== Sys2Proof/Safety.lean ====
section
/-! DEFINITION. The notions that claims about the part are stated in: a request that reaches its block, the canonical
form of both memories, and the laws the spec gives its lists and tables. -/

namespace Sys2Proof.Machine

/-! ### Requests (R166, R167) -/

/-- The oldest undecided request is rq: sound, of kind k, from the controller it names, its tag not outstanding, and no
PART RESET decided. -/
structure Reaches (k : Kind) (rq : Request) (s : State) : Prop where
  running : s.cbi.resetPending = false
  oldest : nextRequest s = some rq
  sound : rq.parityBad = false
  kind : rq.kind = some k
  requester : rq.requester = rq.ctl
  tagFree : tagOutstanding s rq.ctl rq.tag = false

/-- The request passes every check of the response stage (R167) and is handed to its block. -/
structure Admitted (k : Kind) (rq : Request) (s : State) : Prop extends Reaches k rq s where
  booted : s.btl.status ≠ .loading
  attached : s.cbi.attached[rq.ctl] = true

/-- A channel request that needs ownership passes checks 2 to 5 of R76: gate, range, free channel, ownership. -/
structure Owned (k : Kind) (rq : Request) (s : State) : Prop extends Admitted k rq s where
  gate : s.btl.gateOpen = true
  range : rq.num 0 < 32
  busy : s.chans[rq.chan].state ≠ .free
  owner : s.chans[rq.chan].owner = some rq.ctl

/-- A BIND passes every check of its kind (R79): the form, the gate, the ranges, a FREE channel, a usable timeslot that
no channel has, and the window constraint on its resolved parameters. -/
structure Bindable (rq : Request) (s : State) : Prop extends Admitted .bind rq s where
  form : rq.bindForm = true
  gate : s.btl.gateOpen = true
  range : rq.bindRange = true
  free : s.chans[rq.chan].state = .free
  usable : s.btl.part0.usable.getLsbD (rq.num 1) = true
  unused : ∀ c : Chan, s.chans[c].slot ≠ some (Fin.ofNat 32 (rq.num 1))
  window : (bindParams rq s).far = 0 ∨
    (32 * (bindParams rq s).near ≤ (bindParams rq s).bulk ∧ (bindParams rq s).bulk ≤ 5120)

/-- The lock step of a request passes (R148–R150): a BEGIN finds no ACTIVE entry of its controller and `begins` holds, a
CONTINUE or END finds its own ACTIVE entry on the object, which `admits` the request. -/
structure LockPasses (rq : Request) (obj : LockObj) (begins : Prop) (admits : Lock → Prop) (s : State) : Prop where
  begin : rq.marker = .begin → (∀ l, s.locks[rq.ctl] = some l → l.active = false) ∧ begins
  held : rq.marker = .continue ∨ rq.marker = .ending →
    ∃ l, s.locks[rq.ctl] = some l ∧ l.active = true ∧ l.obj = obj ∧ admits l

/-- The state after the lock step: a BEGIN discards its controller's broken entry (R148). -/
def unbroken (rq : Request) (s : State) : State :=
  if rq.marker = .begin then { s with locks := s.locks.set rq.ctl none } else s

/-- No controller but k has an ACTIVE lock on the object. -/
def NoOtherLock (k : Ctl) (obj : LockObj) (s : State) : Prop :=
  ∀ (j : Ctl) (l : Lock), j ≠ k → s.locks[j] = some l → l.active = true → l.obj ≠ obj

/-- No controller but k holds the channel by an ACTIVE lock. -/
def NoOtherHold (k : Ctl) (c : Chan) (s : State) : Prop :=
  ∀ (j : Ctl) (l : Lock), j ≠ k → s.locks[j] = some l → l.active = true → l.held ≠ some c

/-- The command in which a request of a kind is taken (Table 9-9 and the table of steps). -/
def Kind.command : Kind → Instr
  | .attach => .attach | .detach => .detach | .openService => .openService | .closeService => .closeService
  | .queryPart => .queryPart | .partReset => .partReset | .setDefaults => .setDefaults
  | .readDefaults => .readDefaults | .bind => .bind | .release => .release | .trainEcho => .trainEcho
  | .trainEqualizer => .trainEqualizer | .track => .track | .freeze => .freeze | .thaw => .thaw
  | .restart => .restart | .setFarWindow => .setFarWindow | .adopt => .adopt | .queryChannel => .queryChannel
  | .queryStore => .queryStore | .storeProfile => .storeProfile | .storeProfileTaps => .storeProfileTaps
  | .readProfile => .readProfile | .readProfileTaps => .readProfileTaps | .dropProfile => .dropProfile
  | .listProfiles => .listProfiles | .readTaps => .readTaps | .writeTaps => .writeTaps
  | .fetchEvents => .fetchEvents | .setEventTrigger => .setEventTrigger

/-- The length word of the kinds that have one length and accept marker NONE only (Tables 9-7 and 9-10). -/
def Kind.plainWords : Kind → Option Nat
  | .attach | .openService | .closeService | .queryPart | .partReset | .fetchEvents => some 0
  | .detach | .readDefaults | .trainEcho | .trainEqualizer | .track | .freeze | .thaw | .restart | .adopt
  | .queryStore | .listProfiles => some 1
  | .release | .queryChannel | .dropProfile => some 2
  | .setFarWindow | .setEventTrigger => some 3
  | .setDefaults | .bind | .storeProfile | .storeProfileTaps | .readProfile | .readProfileTaps | .readTaps
  | .writeTaps => none

/-! ### Events (R179–R182) -/

/-- Event e has been placed for controller k between s and t: nothing while k is DETACHED (R179), at the tail when the
FIFO has room, else the overflow flag alone (R181); the settings stay and the line is evaluated (R182). -/
structure Placed (k : Ctl) (e : Event) (s t : State) : Prop where
  detached : s.cbi.attached[k] = false → t.fifos[k] = s.fifos[k]
  stored : s.cbi.attached[k] = true → s.fifos[k].entries.length < 32 →
    t.fifos[k].entries = s.fifos[k].entries ++ [e] ∧ t.fifos[k].overflow = s.fifos[k].overflow
  lost : s.cbi.attached[k] = true → 32 ≤ s.fifos[k].entries.length →
    t.fifos[k].entries = s.fifos[k].entries ∧ t.fifos[k].overflow = true
  settings : t.fifos[k].level = s.fifos[k].level ∧ t.fifos[k].hold = s.fifos[k].hold
  evaluated : s.cbi.attached[k] = true →
    t.fifos[k].line = lineAsserted true s.btl.resetLow s.btl.timebase t.fifos[k]

/-! ### Highways (R4–R6, R13–R16) -/

/-- What a loss of sync with a cause leaves (R4, R5, R6): the record of the search, both gathered records of every
channel empty, one SYNC LOST event for each attached controller, and everything else as it was. -/
structure SyncLost (h : Highway) (cause : Nat) (s t : State) : Prop where
  search : syncOf h t = { syncOf h s with
    inSync := false, run := 0, starting := decide (cause = 1), lossTime := s.btl.timebase, watch := s.btl.timebase }
  emptied : ∀ c : Chan, t.hwi.inputs[c] = emptyInput ∧ t.hwi.outputs[c] = emptyHold
  other : ∀ g : Highway, g ≠ h → syncOf g t = syncOf g s
  sent : t.hwi.lhtx = s.hwi.lhtx ∧ t.hwi.mhtx = s.hwi.mhtx ∧ t.hwi.idleLaw = s.hwi.idleLaw
  events : ∀ k : Ctl, Placed k
    { kind := lostKind h, chan := none, detail := word cause, posted := s.btl.timebase } s t
  frame : { t with hwi := s.hwi, fifos := s.fifos } = s

/-- The command completes a channel's input record (R13): its line code, of line frame n, and its modem pair x, d, of
modem frame m, are then both present, and a service is raised with them. -/
inductive Raises (i : Instr) (c : Chan) (code : Byte) (x d : Word) (n m : Nat) (s : State) : Prop
  | byLine (slot : Slot) (command : i = .lineCodeArrives slot code) (mapped : mappedChan slot s = some c)
      (sync : bothInSync s = true) (held : s.hwi.inputs[c].pair = some (x, d, m)) (now : n = s.hwi.line.frame)
  | byModem (command : i = .modemPairArrives c x d) (mapped : s.chans[c].slot.isSome = true)
      (sync : bothInSync s = true) (held : s.hwi.inputs[c].code = some (code, n)) (now : m = s.hwi.modem.frame)

/-- HWI after a service of channel c: its input record empty, its outputs held for the next frames (R13, R15). -/
def served (c : Chan) (code : Byte) (first second : Int) (n m : Nat) (b : Hwi) : Hwi :=
  { b with
    inputs := b.inputs.set c emptyInput
    outputs := b.outputs.set c { code := some (code, n + 1), pair := some (first, second, m + 1) } }

/-! ### The quantities of a service (R14, R18, R21, R24, R28, R29, R44) -/

/-- The states whose services are full ones (R14). -/
def Conditioned (st : ChanState) : Prop := st = .bound ∨ st = .echoTrain ∨ st = .eqTrain ∨ st = .tracking

/-- The line code that a service sends for the modem's sample x (R14). -/
def sentCode (x : Word) (s : State) : Byte := encodeLine s.btl.part0.law x.toInt

/-- The reference sample r: the sent code decoded (R14). -/
def refSample (x : Word) (s : State) : Int := decodeLine s.btl.part0.law (sentCode x s)

/-- The received sample y (R14). -/
def recvSample (code : Byte) (s : State) : Int := decodeLine s.btl.part0.law code

/-- Stage 2: every tap word of the channel, in list order (R27). -/
def tapsRead (c : Chan) (s : State) : List TapRead := readSegments s.sal s.chans[c].segs

/-- The values of the tap words that stage 2 hands over (R31). -/
def tapValues (c : Chan) (s : State) : List Int := (tapsRead c s).map fun t => t.cls.int

/-- The number of echo taps (R24). -/
def echoTapCount (c : Chan) (s : State) : Nat := 32 * s.chans[c].par.near + 32 * s.chans[c].par.far

/-- The samples of the windows' lags, r written first; no value where parity fails (R20, R21). -/
def lagsRead (c : Chan) (x : Word) (s : State) : List (Option Int) :=
  let u := writeHistory c (refSample x s) s
  lagSamples u.sal u.chans[c] s.chans[c].w

/-- The samples that the estimate and the echo taps use: 0 where parity fails (R21). -/
def lagValues (c : Chan) (x : Word) (s : State) : List Int := (lagsRead c x s).map fun v => v.getD 0

/-- The residual e (R28, R29). -/
def residual (c : Chan) (code : Byte) (x : Word) (s : State) : Int :=
  sat (recvSample code s
    - sat ((dot ((tapValues c s).take (echoTapCount c s)) (lagValues c x s) + 16384) / 32768))

/-- The residual ring with e at its front (R40). -/
def residualRing (c : Chan) (code : Byte) (x : Word) (s : State) : List Int :=
  (residual c code x s :: s.chans[c].resid).take 40

/-- The equalizer output z (R44, R45). -/
def equalized (c : Chan) (code : Byte) (x : Word) (s : State) : Int :=
  if s.chans[c].par.eq then
    sat ((dot ((tapValues c s).drop (echoTapCount c s)) (residualRing c code x s) + 8192) / 16384)
  else residual c code x s

/-- The command raises a full service with no uncorrectable tap word (R14, R18, R32). -/
structure FullService (i : Instr) (c : Chan) (code : Byte) (x d : Word) (n m : Nat) (s : State) : Prop where
  raised : Raises i c code x d n m s
  state : Conditioned s.chans[c].state
  clean : ∀ t ∈ tapsRead c s, t.cls ≠ .uncorrectable

/-- The context's correction count and flag after a read (R31): one more for each corrected word, up to 255. -/
def countCorrections (rd : List TapRead) (x : Context) : Context :=
  if ∃ t ∈ rd, t.cls.isCorrected = true then
    { x with
      eccCount := min 255 (x.eccCount + (rd.filter fun t => t.cls.isCorrected).length), firstCorr := true }
  else x

/-- What a read posts (R31): ECC CORRECTED with the address of its first corrected word, unless one was reported since
bind. -/
def correctionEvent (c : Chan) (rd : List TapRead) (s : State) : State :=
  match s.chans[c].firstCorr, rd.find? fun t => t.cls.isCorrected with
  | false, some t => postOwner c .eccCorrected t.addr s
  | _, _ => s

/-- The tap store word at an address (R100). -/
def tapAt (s : State) (a : Nat) : BitVec 22 := cellRead tapBlank s.sal.taps a

/-- What a read leaves in the tap store (R105): every corrected word written back, every other word as it was. -/
def WrittenBack (rd : List TapRead) (s t : State) : Prop :=
  (∀ w ∈ rd, ∀ v, w.cls = .corrected v → tapAt t w.addr = eccEncode v) ∧
    ∀ a, (∀ w ∈ rd, w.addr = a → w.cls.isCorrected = false) → tapAt t a = tapAt s a

/-! ### The memories (R100) -/

/-- Both memories are in canonical form: rising addresses within the store, no blank word listed. -/
def MemoryOk (m : Sal) : Prop := Memory.wf tapBlank 8192 m.taps ∧ Memory.wf histBlank 65536 m.hist

/-- The history store sample word at an address (R100). -/
def sampleAt (s : State) (a : Nat) : BitVec 17 := cellRead histBlank s.sal.hist a

/-- Stage 1 has written r at the write position of x (R19, R20): in the page of its ring index, with fresh parity, and no
other sample has changed. -/
def SampleWritten (x : Context) (r : Int) (s t : State) : Prop :=
  MemoryOk s.sal → ∀ p, x.pages[x.w / 256]? = some p →
    sampleAt t (256 * p.val + x.w % 256) = parityEncode (BitVec.ofInt 16 r) ∧
      ∀ a, a ≠ 256 * p.val + x.w % 256 → sampleAt t a = sampleAt s a

/-- Address a lies in one of these segments. -/
def inSegments (gs : List Seg) (a : Nat) : Prop := ∃ g ∈ gs, 32 * g.val ≤ a ∧ a < 32 * g.val + 32

/-- Address a lies in one of these pages. -/
def inPages (ps : List Page) (a : Nat) : Prop := ∃ p ∈ ps, 256 * p.val ≤ a ∧ a < 256 * p.val + 256

/-! ### Lists and tables -/

/-- The bounds of the part's lists: the request queue's places (R166), the wait queue's (R111) and the FIFOs' (R180). -/
def ListsBounded (s : State) : Prop :=
  placesTaken s ≤ Config.queuePlaces ∧ s.sal.waitQ.length ≤ Config.waitPlaces ∧
    ∀ k : Ctl, s.fifos[k].entries.length ≤ Config.fifoPlaces

/-- A record received without a parity failure and not cut off at its length word holds as many words as its length word
says, and one in reception fewer (R158). -/
def RecordsOk (s : State) : Prop :=
  (∀ rq ∈ s.cbi.queue, rq.parityBad = false → rq.length ≤ 42 → rq.words.length = rq.length) ∧
    ∀ g header len rest, s.cbi.grant = some g → g.words = header :: len :: rest →
      len.toNat ≤ 42 ∧ rest.length < len.toNat

/-- No two entries of the deferred table have the same controller and tag (R170). -/
def TagsDistinct (s : State) : Prop := (s.cbi.deferred.map fun e => (e.ctl, e.tag)).Nodup

/-- Trigger settings lie in their ranges (R182). -/
def TriggersInRange (s : State) : Prop :=
  s.btl.part0.evLevel ∈ [1, 4, 8, 16] ∧ 1 ≤ s.btl.part0.evHold ∧ s.btl.part0.evHold ≤ 255 ∧
    ∀ k : Ctl, s.fifos[k].level ∈ [1, 4, 8, 16] ∧ 1 ≤ s.fifos[k].hold ∧ s.fifos[k].hold ≤ 255

/-- The recency list holds each VALID record once and nothing else, and no two records in use hold the same key (R121,
R123). -/
def ProfilesOk (s : State) : Prop :=
  s.pfs.recency.Nodup ∧ (∀ r : Rec, r ∈ s.pfs.recency ↔ s.pfs.recs[r].state = .valid) ∧
    ∀ r r' : Rec, s.pfs.recs[r].state ≠ .empty → s.pfs.recs[r'].state ≠ .empty →
      s.pfs.recs[r].key = s.pfs.recs[r'].key → r = r'

/-- The state in which a channel has a job of a kind (R131). -/
def jobState : JobKind → ChanState
  | .load => .loading
  | .save => .releasing

/-- Wait entries stand for distinct PENDING channels (R111), jobs for distinct LOADING or RELEASING channels (R131), and
while the gate is closed every channel is FREE (R176). -/
structure CallsOk (s : State) : Prop where
  waits : (s.sal.waitQ.map WaitEntry.chan).Nodup
  waitState : ∀ e ∈ s.sal.waitQ, s.chans[e.chan].state = .pending
  jobs : (s.jobs.map Job.chan).Nodup
  jobStates : ∀ j ∈ s.jobs, s.chans[j.chan].state = jobState j.kind
  gate : s.btl.gateOpen = false → ∀ c : Chan, s.chans[c].state = .free

/-- The states in which a channel is mapped to a timeslot (R73). -/
def mappedState : ChanState → Bool
  | .pending | .loading | .bound | .echoTrain | .eqTrain | .tracking | .fault => true
  | .free | .releasing => false

/-- A timeslot is mapped to at most one channel, and a channel is mapped exactly in the mapped states (R73). -/
def SlotsOk (s : State) : Prop :=
  (∀ c : Chan, s.chans[c].slot.isSome = mappedState s.chans[c].state) ∧
    ∀ c c' : Chan, s.chans[c].slot.isSome = true → s.chans[c].slot = s.chans[c'].slot → c = c'

/-- The segments that a controller's channels hold (R108). -/
def ownedSegs (k : Ctl) (s : State) : Nat :=
  ((s.chans.toList.filter fun x => x.owner == some k).map fun x => x.segs.length).sum

/-- The pages that a controller's channels hold (R108). -/
def ownedPages (k : Ctl) (s : State) : Nat :=
  ((s.chans.toList.filter fun x => x.owner == some k).map fun x => x.pages.length).sum

/-- Every unit is in its free set or on one channel's list, once (R100); the free sets are listed in ascending order, so
that the first of them are the lowest-numbered (R102); a FREE or PENDING channel holds none (R74); the holdings count the
units of the owners' channels (R108). -/
structure StoreOk (s : State) : Prop where
  segs : (s.sal.freeSegs ++ s.chans.toList.flatMap Context.segs).Perm (List.finRange 256)
  pages : (s.sal.freePages ++ s.chans.toList.flatMap Context.pages).Perm (List.finRange 256)
  segsRise : s.sal.freeSegs.Pairwise (· < ·)
  pagesRise : s.sal.freePages.Pairwise (· < ·)
  empty : ∀ c : Chan, s.chans[c].state = .free ∨ s.chans[c].state = .pending →
    s.chans[c].segs = [] ∧ s.chans[c].pages = []
  heldSegs : ∀ k : Ctl, s.sal.heldSeg[k] = ownedSegs k s
  heldPages : ∀ k : Ctl, s.sal.heldPage[k] = ownedPages k s

/-- Every power estimator of every channel lies within 0…2^30 (R56). -/
def EstimatorsOk (s : State) : Prop :=
  ∀ c : Chan, s.chans[c].pr ≤ 2 ^ 30 ∧ s.chans[c].py ≤ 2 ^ 30 ∧ s.chans[c].pe ≤ 2 ^ 30 ∧ s.chans[c].pd ≤ 2 ^ 30 ∧
    s.chans[c].peps ≤ 2 ^ 30

/-- The lock table (R147): an object has at most one ACTIVE lock, a channel carries LOCK exactly while it is the held
channel of an ACTIVE entry, and of one only. What keeps that true: a broken entry holds nothing, an ACTIVE CHANNEL lock
holds its object, which its controller owns and serves (R149, R155), the other purposes have a profile for object, a FILL
holds nothing, and a detached controller has no entry (R155). -/
structure LocksOk (s : State) : Prop where
  objects : ∀ (j k : Ctl) (l m : Lock), s.locks[j] = some l → s.locks[k] = some m → l.active = true →
    m.active = true → l.obj = m.obj → j = k
  holds : ∀ c : Chan, s.chans[c].lock = true ↔
    ∃ (k : Ctl) (l : Lock), s.locks[k] = some l ∧ l.active = true ∧ l.held = some c
  once : ∀ (j k : Ctl) (l m : Lock) (c : Chan), s.locks[j] = some l → s.locks[k] = some m → l.held = some c →
    m.held = some c → j = k
  broken : ∀ (k : Ctl) (l : Lock), s.locks[k] = some l → l.active = false → l.held = none
  channel : ∀ (k : Ctl) (l : Lock), s.locks[k] = some l → l.active = true → l.purpose = .channel →
    ∃ c : Chan, l.obj = .chan c ∧ l.held = some c ∧ s.chans[c].owner = some k ∧ s.chans[c].state ≠ .free ∧
      s.chans[c].state ≠ .pending ∧ s.chans[c].state ≠ .releasing
  profile : ∀ (k : Ctl) (l : Lock), s.locks[k] = some l → l.purpose ≠ .channel → ∃ key, l.obj = .profile key
  fill : ∀ (k : Ctl) (l : Lock), s.locks[k] = some l → l.purpose = .fill → l.held = none
  attached : ∀ k : Ctl, s.cbi.attached[k] = false → s.locks[k] = none

/-- The binding of profiles and channels is recorded on both sides (R125). What keeps that true: a FREE channel has none
(R72), a SAVE runs on the channel's bound profile (R127), an ACTIVE FILL has its FILLING record, which no channel is bound
to (R122), and while the boot load runs the gate is closed and no lock stands (R167, R176). -/
structure BindingsOk (s : State) : Prop where
  ofProfile : ∀ (r : Rec) (c : Chan), s.pfs.recs[r].boundChan = some c →
    s.pfs.recs[r].state ≠ .empty ∧ ∃ key, s.pfs.recs[r].key = some key ∧ s.chans[c].bound = some key
  ofChannel : ∀ (c : Chan) (key : Key), s.chans[c].bound = some key →
    ∃ r : Rec, s.pfs.recs[r].state ≠ .empty ∧ s.pfs.recs[r].key = some key ∧ s.pfs.recs[r].boundChan = some c
  free : ∀ c : Chan, s.chans[c].state = .free → s.chans[c].bound = none
  saves : ∀ j ∈ s.jobs, j.kind = .save → s.chans[j.chan].bound = some j.key
  fills : ∀ (k : Ctl) (l : Lock) (key : Key), s.locks[k] = some l → l.active = true → l.purpose = .fill →
    l.obj = .profile key →
    ∃ r : Rec, s.pfs.recs[r].state = .filling ∧ s.pfs.recs[r].key = some key ∧ s.pfs.recs[r].boundChan = none
  booting : s.btl.status = .loading → s.btl.gateOpen = false ∧ ∀ k : Ctl, s.locks[k] = none

/-! ### The boot image (R192) -/

/-- The byte at which the descriptor of profile k of an image begins (Tables 11-2, 11-3). -/
def profileStart (b : List Byte) : Nat → Nat
  | 0 => 80
  | k + 1 => profileStart b k + 17 + tapBytes (imageDescriptor (b.drop (profileStart b k)))

/-- Word j of the i-th chunk behind that descriptor, high byte first, clamped (R192, R193). -/
def imageTap (b : List Byte) (k i j : Nat) : Word :=
  let a := profileStart b k + 17 + 64 * i + 2 * j
  clampWord (b.getD a 0 ++ b.getD (a + 1) 0)

end Sys2Proof.Machine
end

