-- ==== Sys2Proof/Certificates/Slice0/Obligations.lean ====
section
/-! DEFINITION. The statements for the provers, from the numbered rules of the spec. A limit in milliseconds is reached as
`timeReached` says: by the elapsed time modulo 2^32 (log entry 29), and never while RESET is low (log entry 6). -/

open Sys2Proof Sys2Proof.Machine

/-! ### The block as a whole -/

/-- A step takes the command at the front of the queue and executes it on the state with the rest; an empty queue idles
(the block's convention, log entries 1 and 2). -/
def Obligations.StepRunsTheFrontCommand : Prop :=
  (∀ (c : Instr) (rest : List Instr) (s : State), s.pending = c :: rest →
    step s = exec c { s with pending := rest }) ∧
  ∀ s : State, s.pending = [] → step s = .next s

/-- Every command has an effect: none ends in a fault or a refusal. -/
def Obligations.EveryCommandRuns : Prop := ∀ (c : Instr) (s : State), ∃ t, exec c s = .next t

/-- The state after RESET has risen, as the rules give it, field by field (R194 with R71 and Table 5-1, R100, R108, R111,
R121, R123, R131, R147, R157, R166, R170–R173, R176, R185 and Table 10-3, R187, R188 and Table 11-1, R13, R15 and section
1.2). A context's profile relation is part of its profile relation group, which is absent. -/
def Obligations.ResetTakesTheStatedValues : Prop :=
  (∀ c : Chan, State.reset.chans[c] =
      { state := .free, owner := none, slot := none, params := none, segs := [], pages := [], w := 0
        resid := List.replicate 40 0, lagLine := List.replicate 8 0, pr := 0, py := 0, pe := 0, pd := 0, peps := 0
        trainFrames := 0, streak := 0, guarded := 0, degradeStreak := 0, quietStreak := 0, eccCount := 0
        parityCount := 0, convErle := none, converged := false, degraded := false, quiet := false, firstCorr := false
        freeze := false, lock := false, bound := none, learn := none, load := none, relation := .none
        trainLink := none, bindLink := none } ∧
    State.reset.hwi.inputs[c] = { code := none, pair := none } ∧
    State.reset.hwi.outputs[c] = { code := none, pair := none }) ∧
  (∀ h : Highway, (syncOf h State.reset).inSync = false ∧ (syncOf h State.reset).run = 0 ∧
    (syncOf h State.reset).starting = false ∧ (syncOf h State.reset).lossTime = 0) ∧
  State.reset.sal.freeSegs = List.finRange 256 ∧ State.reset.sal.freePages = List.finRange 256 ∧
  (∀ k : Ctl, State.reset.sal.heldSeg[k] = 0 ∧ State.reset.sal.heldPage[k] = 0 ∧ State.reset.locks[k] = none ∧
    State.reset.cbi.attached[k] = false ∧
    State.reset.fifos[k] = { entries := [], overflow := false, level := 4, hold := 20, line := false }) ∧
  State.reset.sal.waitQ = [] ∧ (∀ r : Rec, State.reset.pfs.recs[r].state = .empty) ∧ State.reset.pfs.recency = [] ∧
  State.reset.jobs = [] ∧ State.reset.cbi.queue = [] ∧ State.reset.cbi.grant = none ∧
  State.reset.cbi.lastGranted = 3 ∧ State.reset.cbi.deferred = [] ∧ State.reset.cbi.ready = [] ∧
  State.reset.cbi.preference = .response ∧ State.reset.btl.timebase = 0 ∧ State.reset.btl.gateOpen = false ∧
  State.reset.btl.status = .loading ∧ State.reset.btl.booting = true ∧
  State.reset.btl.part0 =
    { law := .mu, usable := 0xFFFFFFFF, shareSeg := #v[0, 0, 0, 0], sharePage := #v[0, 0, 0, 0], lockLimit := 100
      waitLimit := 2000, evLevel := 4, evHold := 20 } ∧
  State.reset.btl.part1 =
    { aEchoTrain := 8, aEchoTrack := 13, aEqTrain := 7, aEqTrack := 12, erleTarget := 64, qualTarget := 48
      holdCount := 400, timeout := 16000, gate := 96, pfloor := 1024, guard := 0, degradeMargin := 24
      degradeCount := 800, quietLevel := 64, quietLimit := 16000, mainTap := 4, lag := 2, near := 4, far := 0
      bulk := 0, eq := true }

/-! ### Invariants -/

/-- The state after reset meets every invariant stated below. -/
def Obligations.ResetMeetsTheInvariants : Prop :=
  MemoryOk State.reset.sal ∧ ProfilesOk State.reset ∧ CallsOk State.reset ∧ SlotsOk State.reset ∧
    StoreOk State.reset ∧ ListsBounded State.reset ∧ RecordsOk State.reset ∧ TagsDistinct State.reset ∧
    TriggersInRange State.reset ∧ EstimatorsOk State.reset ∧ LocksOk State.reset ∧ BindingsOk State.reset

/-- Every step keeps the model's form of both memories: rising addresses and no blank word listed (the representation is
the model's own, log entries 7 and 8), every address within the store's 8192 words and 65 536 samples (R100). -/
def Obligations.StepsKeepTheMemoriesCanonical : Prop :=
  ∀ s t : State, MemoryOk s.sal → step s = .next t → MemoryOk t.sal

/-- Every step keeps the laws of the profile store: the recency list holds each VALID record once and nothing else, and
no two records in use hold one key (R121, R123). -/
def Obligations.StepsKeepTheProfileStore : Prop :=
  ∀ s t : State, ProfilesOk s → step s = .next t → ProfilesOk t

/-- Every step keeps the lock table: an object has at most one ACTIVE lock, and a channel carries LOCK in its hold set
exactly while it is the held channel of an ACTIVE entry, and of one entry only (R147, with what R149, R154 and R155 need
for it). -/
def Obligations.StepsKeepTheLockTable : Prop :=
  ∀ s t : State, CallsOk s → LocksOk s → step s = .next t → LocksOk t

/-- Every step keeps the binding of profiles and channels recorded on both sides: a profile's bound channel has its key as
bound profile, and a channel's bound profile has it as bound channel (R125, with what R72, R122 and R127 need for it). -/
def Obligations.StepsKeepProfileBindings : Prop :=
  ∀ s t : State, CallsOk s → ProfilesOk s → LocksOk s → BindingsOk s → step s = .next t → BindingsOk t

/-- Every step keeps the laws of calls, timeslots and store items together: wait entries and jobs stand for channels in
their states (R111, R131), a closed gate finds every channel FREE (R176), the timeslot map is one-to-one on the mapped
states (R73), every unit is free or on one list, with the holdings counting the owners' units (R74, R100, R108), and the
free sets are listed in ascending order, so that the first of them are the lowest-numbered (R102). -/
def Obligations.StepsKeepCallsSlotsAndStore : Prop :=
  ∀ s t : State, CallsOk s → SlotsOk s → StoreOk s → step s = .next t → CallsOk t ∧ SlotsOk t ∧ StoreOk t

/-- Every step keeps the bounds of the request queue, the wait queue and the event FIFOs (R111, R166, R180), the fit of
a received record to its length word (R158), the tags of the deferred table distinct for each controller (R170), and the
trigger settings in their ranges (R182, R184, R188). -/
def Obligations.StepsKeepListsRecordsTagsAndTriggers : Prop :=
  ∀ s t : State, step s = .next t →
    (ListsBounded s → ListsBounded t) ∧ (RecordsOk s → RecordsOk t) ∧ (TagsDistinct s → TagsDistinct t) ∧
      (TriggersInRange s → TriggersInRange t)

/-! ### Start-up and time -/

/-- POWER_ON gives every block its reset value; what the memories hold stays, for the part does not initialise it (R100,
R194). The timebase is 0 while RESET is low and a boot load is abandoned then; it advances by 1 modulo 2^32 at a tick
otherwise (R187, R194). That a tick is ignored while RESET is low is log entry 6's reading. How the limits of the other
rules are measured: by the milliseconds elapsed modulo 2^32 (log entry 29), with RESET high (log entry 6). -/
def Obligations.PowerOnResetsAndTimebaseCounts : Prop :=
  (∀ (s : State) (t : Time) (n : Nat), elapsed s t = (s.btl.timebase - t).toNat ∧
    (timeReached s t n = true ↔ s.btl.resetLow = false ∧ n ≤ (s.btl.timebase - t).toNat)) ∧
  (∀ s : State, exec .powerOn s = .next
    { State.reset with
      sal := { State.reset.sal with taps := s.sal.taps, hist := s.sal.hist }, free := s.free, pending := s.pending }) ∧
  (∀ s : State, exec .resetAsserted s = .next
    { s with btl := { s.btl with timebase := 0, resetLow := true, booting := false } }) ∧
  (∀ s : State, s.btl.resetLow = true → exec .timebaseTick s = .next s) ∧
  ∀ s : State, s.btl.resetLow = false →
    exec .timebaseTick s = .next { s with btl := { s.btl with timebase := s.btl.timebase + 1 } }

/-- A boot load whose image is valid installs the image's site defaults and its profiles in image order: each VALID, of
origin BOOT, unused and unbound, with the descriptor and taps that stand in the image at its place (R192, R193). The idle
codes follow the installed law at once (R188, log entry 12), the port's record is the whole read (the model's record, log
entry 25), and nothing else changes. Where the fields stand: the words of both parts, each descriptor and each tap word at
the bytes of Tables 11-2 and 11-3, high byte first; the parts as O51 installs them. -/
def Obligations.ValidImageIsInstalled : Prop :=
  (∀ (image : List Byte) (i : Nat), byteAt image i = (image.getD i 0).toNat) ∧
  (∀ image : List Byte, imageLength image = 256 * byteAt image 3 + byteAt image 4) ∧
  (∀ image : List Byte, 79 ≤ image.length →
    (imageZero image).length = 15 ∧ (imageOne image).length = 22 ∧
    (∀ i, i < 15 → (imageZero image).getD i 0 = image.getD (5 + 2 * i) 0 ++ image.getD (6 + 2 * i) 0) ∧
    ∀ i, i < 22 → (imageOne image).getD i 0 = image.getD (35 + 2 * i) 0 ++ image.getD (36 + 2 * i) 0) ∧
  (∀ d : List Byte,
    let exponent (i : Nat) : Option Nat := if (d.getD 9 0).getLsbD i then some (byteAt d (10 + i)) else none
    imageKey d = d.getD 0 0 ++ d.getD 1 0 ++ d.getD 2 0 ++ d.getD 3 0 ∧
    imageDescriptor d =
      { pinned := (d.getD 4 0).getLsbD 0, eq := (d.getD 4 0).getLsbD 1, near := byteAt d 5, farHint := byteAt d 6
        bulkHint := 256 * byteAt d 7 + byteAt d 8, aEchoTrain := exponent 0, aEchoTrack := exponent 1
        aEqTrain := exponent 2, aEqTrack := exponent 3, mainTap := byteAt d 14, lag := byteAt d 15
        best := byteAt d 16 }) ∧
  (∀ (image : List Byte) (k : Nat),
    let start := profileStart image k
    profileStart image 0 = 80 ∧
    profileStart image (k + 1) = start + 17 +
      64 * (byteAt image (start + 5) + if (image.getD (start + 4) 0).getLsbD 1 then 1 else 0) ∧
    ∀ i j : Nat,
      let a := start + 17 + 64 * i + 2 * j
      let w : Word := image.getD a 0 ++ image.getD (a + 1) 0
      imageTap image k i j = if w = 0x8000 then 0x8001 else w) ∧
  ∀ (image : List Byte) (s : State), s.btl.booting = true → s.btl.status = .loading →
    imageStatus image = .valid → imageLength image ≤ image.length →
    ∃ t, exec (.bootLoadEnd none image) s = .next t ∧
      t.btl = { s.btl with
        status := .valid, booting := false, part0 := zeroOf (imageZero image), part1 := oneOf (imageOne image)
        port := portRead (image.take (imageLength image)) } ∧
      t.hwi = { s.hwi with idleLaw := (zeroOf (imageZero image)).law } ∧
      byteAt image 79 ≤ 64 ∧ t.pfs.recency.map Fin.val = List.range (byteAt image 79) ∧
      (∀ r : Rec, byteAt image 79 ≤ r.val → t.pfs.recs[r] = emptyProfile) ∧
      (∀ r : Rec, r.val < byteAt image 79 →
        let d := image.drop (profileStart image r.val)
        let p := t.pfs.recs[r]
        p.state = .valid ∧ p.origin = .boot ∧ p.useCount = 0 ∧ p.boundChan = none ∧ p.key = some (imageKey d) ∧
          imageKey d ≠ 0 ∧ p.desc = imageDescriptor d ∧
          (∀ i : Fin 9, i.val < p.desc.near → i.val < 8 → ∀ j, j < 32 →
            p.chunks[i].getD j 0 = imageTap image r.val i.val j) ∧
          (p.desc.eq = true → ∀ j, j < 32 →
            p.chunks[(8 : Fin 9)].getD j 0 = imageTap image r.val p.desc.near j)) ∧
      (∀ r r' : Rec, r.val < byteAt image 79 → r'.val < byteAt image 79 →
        t.pfs.recs[r].key = t.pfs.recs[r'].key → r = r') ∧
      { t with btl := s.btl, pfs := s.pfs, hwi := s.hwi } = s

/-- A boot load that fails installs nothing and names its first failure: an unacknowledged byte, a wrong signature or
version, a byte length below 82, a wrong checksum, or a field that fails (R193). What the port carries: device 54H and
memory address 0 in the phases of R191, up to the byte that was not acknowledged, or every byte read up to where the load
stopped, all acknowledged but the last, and a stop (R191; the record is the model's, log entry 25). The sum and the stored
checksum (Table 11-2), and when the profiles of the checked bytes pass: at most 64, each with a key of its own that is not
0, its fields in the ranges of Table 11-3 and its reserved bits zero, the last one ending exactly at the checksum (R193;
the ranges of the defaults block are those of O51, the bytes those of O12). -/
def Obligations.FailedBootLoadInstallsNothing : Prop :=
  (∀ (i : Fin 4) (image : List Byte) (s : State), s.btl.booting = true → s.btl.status = .loading →
    exec (.bootLoadEnd (some i) image) s = .next
      { s with btl := { s.btl with status := .noDevice, booting := false, port := portUpTo i } }) ∧
  (∀ (image : List Byte) (s : State), s.btl.booting = true → s.btl.status = .loading →
    imageStatus image ≠ .valid → bytesNeeded image ≤ image.length →
    exec (.bootLoadEnd none image) s = .next
      { s with btl := { s.btl with
        status := imageStatus image, booting := false, port := portRead (image.take (bytesNeeded image)) } }) ∧
  (∀ image : List Byte,
    (byteAt image 0 ≠ 0xC5 ∨ byteAt image 1 ≠ 0x3A ∨ byteAt image 2 ≠ 1 → imageStatus image = .badSignature) ∧
    (byteAt image 0 = 0xC5 → byteAt image 1 = 0x3A → byteAt image 2 = 1 →
      (imageLength image < 82 → imageStatus image = .badField) ∧
      (82 ≤ imageLength image → imageChecksum image ≠ imageSum image → imageStatus image = .badChecksum) ∧
      (82 ≤ imageLength image → imageChecksum image = imageSum image →
        (zeroInRange (imageZero image) = false ∨ oneInRange (imageOne image) = false ∨
          imageProfiles image = none) → imageStatus image = .badField) ∧
      (82 ≤ imageLength image → imageChecksum image = imageSum image → zeroInRange (imageZero image) = true →
        oneInRange (imageOne image) = true → imageProfiles image ≠ none → imageStatus image = .valid))) ∧
  (∀ image : List Byte,
    imageSum image = ((image.take (imageLength image - 2)).map BitVec.toNat).sum % 65536 ∧
    imageChecksum image = 256 * byteAt image (imageLength image - 2) + byteAt image (imageLength image - 1) ∧
    bytesNeeded image = (if byteAt image 0 ≠ 0xC5 then 1 else if byteAt image 1 ≠ 0x3A then 2
      else if byteAt image 2 ≠ 1 then 3 else if imageLength image < 82 then 5 else imageLength image)) ∧
  (∀ image : List Byte, 82 ≤ imageLength image → imageLength image ≤ image.length →
    let count := byteAt image 79
    let key (k : Nat) : Key := imageKey (image.drop (profileStart image k))
    let fieldsGood (k : Nat) : Prop :=
      let b (i : Nat) : Nat := byteAt image (profileStart image k + i)
      b 4 < 4 ∧ 1 ≤ b 5 ∧ b 5 ≤ 8 ∧ b 6 ≤ 16 ∧ 256 * b 7 + b 8 ≤ 5120 ∧ b 9 < 16 ∧
        (∀ i, i < 4 → (b 9).testBit i = true → b (10 + i) ≤ 31) ∧ b 14 ≤ 31 ∧ 1 ≤ b 15 ∧ b 15 ≤ 8 ∧ b 16 ≤ 240
    (imageProfiles image ≠ none ↔ count ≤ 64 ∧ (∀ k, k < count → key k ≠ 0 ∧ fieldsGood k) ∧
      (∀ j k, j < k → k < count → key j ≠ key k) ∧ profileStart image count = imageLength image - 2)) ∧
  (portUpTo 0 = [.start, .deviceAddress 0x54 false] ∧ portUpTo 1 = portUpTo 0 ++ [.memoryAddress 0] ∧
    portUpTo 2 = portUpTo 1 ++ [.memoryAddress 0] ∧
    portUpTo 3 = portUpTo 2 ++ [.start, .deviceAddress 0x54 true]) ∧
  ∀ (b : List Byte) (last : Byte), portRead (b ++ [last]) =
    portUpTo 3 ++ (b.map fun v => .readByte v true) ++ [.readByte last false, .stop]

/-! ### Highways -/

/-- A pulse on a highway out of sync follows the record: it becomes the starting pulse, adds to the run or restarts it,
and the third nominal spacing regains sync, begins the first synchronised frame and posts SYNC REGAINED; nothing else of
HWI changes (R3, R5). Two milliseconds without a pulse end the search; sooner, and on a highway in sync, nothing happens
(R3, R187). The nominal spacings are those of section 1.2. -/
def Obligations.SearchFollowsThePulses : Prop :=
  (nominal .line = 256 ∧ nominal .modem = 1024 ∧ regainedKind .line = .lineSyncRegained ∧
    regainedKind .modem = .modemSyncRegained) ∧
  (∀ (h : Highway) (spacing : Nat) (s : State), (syncOf h s).inSync = false →
    ((syncOf h s).starting = false → exec (.frameSyncPulse h spacing) s = .next
      (setSync h { syncOf h s with starting := true, run := 0, watch := s.btl.timebase } s)) ∧
    ((syncOf h s).starting = true → spacing ≠ nominal h → exec (.frameSyncPulse h spacing) s = .next
      (setSync h { syncOf h s with run := 0, watch := s.btl.timebase } s)) ∧
    ((syncOf h s).starting = true → spacing = nominal h → (syncOf h s).run + 1 < 3 →
      exec (.frameSyncPulse h spacing) s = .next
        (setSync h { syncOf h s with run := (syncOf h s).run + 1, watch := s.btl.timebase } s)) ∧
    ((syncOf h s).starting = true → spacing = nominal h → 3 ≤ (syncOf h s).run + 1 →
      ∃ t, exec (.frameSyncPulse h spacing) s = .next t ∧ (syncOf h t).inSync = true ∧
        (let r : SyncRec := { syncOf h s with
          inSync := true, run := (syncOf h s).run + 1, frame := (syncOf h s).frame + 1, watch := s.btl.timebase }
         (h = .line → t.hwi = { s.hwi with line := r, idleLaw := s.btl.part0.law, frameDue := true }) ∧
         (h = .modem → t.hwi = { s.hwi with modem := r })) ∧
        (∀ k : Ctl, Placed k
          { kind := regainedKind h, chan := none, detail := word (min 65535 (elapsed s (syncOf h s).lossTime))
            posted := s.btl.timebase } s t) ∧
        { t with hwi := s.hwi, fifos := s.fifos } = s)) ∧
  ∀ (h : Highway) (s : State),
    ((syncOf h s).inSync = false → timeReached s (syncOf h s).watch 2 = true →
      exec (.syncSearchTimeout h) s = .next
        (setSync h { syncOf h s with run := 0, starting := false } s)) ∧
    ((syncOf h s).inSync = true ∨ timeReached s (syncOf h s).watch 2 = false →
      exec (.syncSearchTimeout h) s = .next s)

/-- A highway in sync loses it on a pulse before the nominal spacing, on a missing pulse, and on two milliseconds without
one, with causes 1, 2 and 3 (R4, R5, R6). -/
def Obligations.LossOfSyncEmptiesTheGatheredState : Prop :=
  (lostKind .line = .lineSyncLost ∧ lostKind .modem = .modemSyncLost) ∧
  ∀ (h : Highway) (s : State), (syncOf h s).inSync = true →
    (∀ spacing, spacing < nominal h → ∃ t, exec (.frameSyncPulse h spacing) s = .next t ∧ SyncLost h 1 s t) ∧
    (∃ t, exec (.missingSync h) s = .next t ∧ SyncLost h 2 s t) ∧
    (timeReached s (syncOf h s).watch 2 = true → ∃ t, exec (.clockStopped h) s = .next t ∧ SyncLost h 3 s t)

/-- A pulse at the nominal spacing begins the next frame of a highway in sync; a line frame takes the law then in force
for its idle codes and is due its transfer step (R4, R15, R132, R189). A later pulse acts as MISSING SYNC and then as a
pulse of the search (the model's reading, log entry 11). -/
def Obligations.PulseInSyncBeginsAFrame : Prop :=
  (∀ s : State, s.hwi.line.inSync = true → exec (.frameSyncPulse .line 256) s = .next
    { s with hwi := { s.hwi with
      line := { s.hwi.line with frame := s.hwi.line.frame + 1, watch := s.btl.timebase }
      idleLaw := s.btl.part0.law, frameDue := true } }) ∧
  (∀ s : State, s.hwi.modem.inSync = true → exec (.frameSyncPulse .modem 1024) s = .next
    { s with hwi := { s.hwi with
      modem := { s.hwi.modem with frame := s.hwi.modem.frame + 1, watch := s.btl.timebase } } }) ∧
  ∀ (h : Highway) (spacing : Nat) (s t : State), (syncOf h s).inSync = true → nominal h < spacing →
    exec (.missingSync h) s = .next t → exec (.frameSyncPulse h spacing) s = exec (.frameSyncPulse h spacing) t

/-- An input that does not complete its channel's record is placed in it, replacing what stood there; an input of an
unmapped timeslot or channel, or while a highway is out of sync, is discarded (R1, R6, R13). -/
def Obligations.InputsFillTheInputRecord : Prop :=
  (∀ s : State, bothInSync s = true ↔ s.hwi.line.inSync = true ∧ s.hwi.modem.inSync = true) ∧
  (∀ (n : Slot) (s : State), (mappedChan n s = none ↔ ∀ c : Chan, s.chans[c].slot ≠ some n) ∧
    ∀ c : Chan, (∀ c' : Chan, c' ≠ c → s.chans[c'].slot ≠ some n) →
      (mappedChan n s = some c ↔ s.chans[c].slot = some n)) ∧
  (∀ (n : Slot) (code : Byte) (c : Chan) (s : State), mappedChan n s = some c → bothInSync s = true →
    s.hwi.inputs[c].pair = none → exec (.lineCodeArrives n code) s = .next
      { s with hwi := { s.hwi with
        inputs := s.hwi.inputs.set c { code := some (code, s.hwi.line.frame), pair := none } } }) ∧
  (∀ (c : Chan) (x d : Word) (s : State), s.chans[c].slot.isSome = true → bothInSync s = true →
    s.hwi.inputs[c].code = none → exec (.modemPairArrives c x d) s = .next
      { s with hwi := { s.hwi with
        inputs := s.hwi.inputs.set c { code := none, pair := some (x, d, s.hwi.modem.frame) } } }) ∧
  (∀ (n : Slot) (code : Byte) (s : State), mappedChan n s = none ∨ bothInSync s = false →
    exec (.lineCodeArrives n code) s = .next s) ∧
  ∀ (c : Chan) (x d : Word) (s : State), s.chans[c].slot = none ∨ bothInSync s = false →
    exec (.modemPairArrives c x d) s = .next s

/-- The services that pass the received sample through. In PENDING and LOADING nothing else happens; in FAULT P_r, P_y and
P_e are updated (R14, R16, R58). A service of a conditioned channel that meets an uncorrectable tap word is a fault
service: r is written at the write position, the corrections are applied, no other stage but the measures is carried out,
and the channel enters FAULT with its training completed FAULTED and CHANNEL FAULT posted with the address of the first
such word (R14, R19, R20, R31, R32, R58, R95). -/
def Obligations.PassThroughAndFaultServices : Prop :=
  ∀ (i : Instr) (c : Chan) (code : Byte) (x d : Word) (n m : Nat) (s : State), Raises i c code x d n m s →
    let law := s.btl.part0.law
    let out := encodeLine law x.toInt
    let y := decodeLine law code
    let r := decodeLine law out
    let x0 := s.chans[c]
    (x0.state = .pending ∨ x0.state = .loading →
      exec i s = .next { s with hwi := served c out y y n m s.hwi }) ∧
    (x0.state = .fault →
      exec i s = .next { s with
        hwi := served c out y y n m s.hwi
        chans := s.chans.set c { x0 with pr := leak x0.pr r, py := leak x0.py y, pe := leak x0.py y } }) ∧
    ∀ (pre post : List TapRead) (b : TapRead), Conditioned x0.state → tapsRead c s = pre ++ b :: post →
      b.cls = .uncorrectable → (∀ t ∈ pre, t.cls ≠ .uncorrectable) →
      ∃ t, exec i s = .next t ∧ t.hwi = served c out y y n m s.hwi ∧
        t.chans = s.chans.set c { countCorrections (tapsRead c s) x0 with
          state := .fault, w := (x0.w + 1) % (256 * x0.pages.length)
          pr := leak x0.pr r, py := leak x0.py y, pe := leak x0.py y
          trainLink := if x0.state = .echoTrain ∨ x0.state = .eqTrain then none else x0.trainLink } ∧
        (∀ k g, x0.state = .echoTrain ∨ x0.state = .eqTrain → x0.owner = some k → x0.trainLink = some g →
          t.cbi = (postOutcome k g .faulted
            [if x0.state = .echoTrain then 0 else 1, if x0.state = .echoTrain then 0 else word (quality x0),
             if x0.state = .echoTrain then word (quality x0) else 0,
             word x0.trainFrames, word x0.streak, word x0.guarded] s).cbi) ∧
        ((x0.state = .bound ∨ x0.state = .tracking) ∨ x0.owner = none ∨ x0.trainLink = none → t.cbi = s.cbi) ∧
        t.fifos = (postOwner c .channelFault b.addr (correctionEvent c (tapsRead c s) s)).fifos ∧
        (MemoryOk s.sal → x0.segs.Nodup → WrittenBack (tapsRead c s) s t) ∧ SampleWritten x0 r s t ∧
        t.sal = { s.sal with taps := t.sal.taps, hist := (writeHistory c r s).sal.hist } ∧
        { t with hwi := s.hwi, chans := s.chans, sal := s.sal, cbi := s.cbi, fifos := s.fifos } = s

/-- The full service of a channel in BOUND, ECHO_TRAIN, EQ_TRAIN or TRACKING that meets no uncorrectable tap word: the
sample written and the samples read in the ring, the estimate, the residual, the equalizer output, the measures and what is
sent, and the stages that make up the step: the corrections of stage 2, the echo taps of stage 5, the equalizer of stage 6,
the counters and detectors of stage 7 (R18–R21, R24, R28, R29, R31, R40, R41, R44, R45, R47, R48, R55). -/
def Obligations.FullServiceCancelsTheEstimate : Prop :=
  ∀ (i : Instr) (c : Chan) (code : Byte) (x d : Word) (n m : Nat) (s : State), FullService i c code x d n m s →
    let x0 := s.chans[c]
    let y := recvSample code s
    let r := refSample x s
    let u := writeHistory c r s
    let taps := (tapsRead c s).map fun t => t.cls.int
    let echo := 32 * x0.par.near + 32 * x0.par.far
    let read := lagSamples u.sal u.chans[c] x0.w
    let samples := read.map fun v => v.getD 0
    let lost := (read.filter Option.isNone).length
    let e := sat (y - sat ((dot (taps.take echo) samples + 16384) / 32768))
    let resid := (e :: x0.resid).take 40
    let z := if x0.par.eq then sat ((dot (taps.drop echo) resid + 8192) / 16384) else e
    let u1 := writeHistory c r { s with hwi := { s.hwi with inputs := s.hwi.inputs.set c emptyInput } }
    let v := (applyCorrections c (tapsRead c s) u1).modChan c (recordResidual r y e lost)
    let w := equalizerStage c e (desiredOf d) (taps.drop echo) (echoStage c e (taps.take echo) samples v)
    let ring := 256 * x0.pages.length
    let lag (i : Nat) : Nat := if i < 32 * x0.par.near then i else x0.par.bulk + (i - 32 * x0.par.near)
    e = residual c code x s ∧ z = equalized c code x s ∧ read.length = echo ∧
    ∃ t, exec i s = .next t ∧ SampleWritten x0 r s t ∧
      (∀ i, i < echo → ∀ p, x0.pages[(x0.w + ring - lag i % ring) % ring / 256]? = some p →
        let held := sampleAt t (256 * p.val + (x0.w + ring - lag i % ring) % ring % 256)
        read[i]? = some (if held = parityEncode (held.setWidth 16) then some (held.setWidth 16).toInt else none)) ∧
      t.hwi = served c (sentCode x s) z e n m s.hwi ∧
      t = { stageSeven c x0.state (desiredOf d).isSome w.1 with hwi := t.hwi } ∧
      t.chans[c].w = (x0.w + 1) % (256 * x0.pages.length) ∧
      t.chans[c].resid = resid ∧ t.chans[c].lagLine = (z :: x0.lagLine).take 8 ∧
      t.chans[c].pr = leak x0.pr r ∧ t.chans[c].py = leak x0.py y ∧ t.chans[c].pe = leak x0.pe e ∧
      (desiredOf d = none → t.chans[c].pd = x0.pd ∧ t.chans[c].peps = x0.peps) ∧
      (∀ v, desiredOf d = some v → t.chans[c].pd = leak x0.pd v ∧
        t.chans[c].peps = leak x0.peps (sat (v - x0.lagLine.getD (x0.par.lag - 1) 0))) ∧
      t.chans[c].parityCount = min 255 (x0.parityCount + lost) ∧
      (x0.state = .bound ∨ x0.state = .tracking → t.chans[c].state = x0.state ∧ t.cbi = s.cbi) ∧
      { t.chans[c] with
        state := x0.state, w := x0.w, resid := x0.resid, lagLine := x0.lagLine, pr := x0.pr, py := x0.py
        pe := x0.pe, pd := x0.pd, peps := x0.peps, trainFrames := x0.trainFrames, streak := x0.streak
        guarded := x0.guarded, degradeStreak := x0.degradeStreak, quietStreak := x0.quietStreak
        eccCount := x0.eccCount, parityCount := x0.parityCount, convErle := x0.convErle, converged := x0.converged
        degraded := x0.degraded, quiet := x0.quiet, firstCorr := x0.firstCorr, trainLink := x0.trainLink } = x0 ∧
      t.sal = { s.sal with taps := t.sal.taps, hist := u.sal.hist } ∧
      (x0.state = .bound → (∀ t ∈ tapsRead c s, ∃ v, t.cls = .good v) → t.sal.taps = s.sal.taps) ∧
      (∀ c', c' ≠ c → t.chans[c'] = s.chans[c']) ∧
      { t with hwi := s.hwi, sal := s.sal, chans := s.chans, fifos := s.fifos, cbi := s.cbi } = s

/-- What a full service does with the tap words that read corrected: each is written back, counted up to 255, and the
first since bind reported; after the service every word of the channel reads good, adapted or not, and no word outside its
segments has changed (R31, R105). The event ECC CORRECTED comes before those of the detectors (R180). -/
def Obligations.ServicesWriteCorrectionsBack : Prop :=
  ∀ (i : Instr) (c : Chan) (code : Byte) (x d : Word) (n m : Nat) (s : State), FullService i c code x d n m s →
    MemoryOk s.sal → s.chans[c].segs.Nodup →
    let x0 := s.chans[c]
    let rd := tapsRead c s
    let post (b : Bool) (kind : EventKind) (detail : Nat) (u : State) : State :=
      if b then postOwner c kind detail u else u
    ∃ t, exec i s = .next t ∧
      t.chans[c].eccCount = (if ∃ w ∈ rd, w.cls.isCorrected = true then
        min 255 (x0.eccCount + (rd.filter fun w => w.cls.isCorrected).length) else x0.eccCount) ∧
      (t.chans[c].firstCorr = true ↔ x0.firstCorr = true ∨ ∃ w ∈ rd, w.cls.isCorrected = true) ∧
      (∀ w ∈ tapsRead c t, ∃ v, w.cls = .good v) ∧
      (x0.state = .bound → WrittenBack rd s t) ∧
      (∀ a, ¬ inSegments x0.segs a → tapAt t a = tapAt s a) ∧
      ∃ degraded quiet : Bool,
        let u := match x0.firstCorr, rd.find? fun w => w.cls.isCorrected with
          | false, some w => postOwner c .eccCorrected w.addr s
          | _, _ => s
        t.fifos = (post quiet .lineQuiet (logValue t.chans[c].py)
          (post degraded .echoDegraded (erle t.chans[c]) u)).fifos

/-- Stage 5: the echo taps move in ECHO_TRAIN, EQ_TRAIN and TRACKING with an empty hold set and L(P_r) at or above the gate
level, unless the training guard withholds it and is counted, and then each by its own product, clamped; otherwise nothing
happens (R33–R37). O19 says on what state a service carries the stage out. -/
def Obligations.EchoTapsAdaptByTheRule : Prop :=
  ∀ (c : Chan) (e : Int) (taps samples : List Int) (s : State),
    let x := s.chans[c]
    let adapts := (x.state = .echoTrain ∨ x.state = .eqTrain ∨ x.state = .tracking) ∧ x.freeze = false ∧
      x.lock = false ∧ s.btl.part1.gate ≤ logValue x.pr
    let guarded := x.state = .echoTrain ∧ logValue x.pr + s.btl.part1.guard ≤ logValue x.py
    (¬ adapts → echoStage c e taps samples s = s) ∧
    (adapts → guarded → echoStage c e taps samples s = s.setChan c { x with guarded := x.guarded + 1 }) ∧
    (adapts → ¬ guarded → MemoryOk s.sal → (x.segs.take (x.par.near + x.par.far)).Nodup →
      x.par.near + x.par.far ≤ x.segs.length → taps.length = 32 * (x.par.near + x.par.far) →
      samples.length = taps.length →
      let t := echoStage c e taps samples s
      let b := (x.pr + s.btl.part1.pfloor).log2
      let shift := b + (if x.state = .echoTrain then x.par.aEchoTrain else x.par.aEchoTrack) - 15
      let delta (q : Int) : Int := if shift = 0 then q else (q + 2 ^ (shift - 1)) / 2 ^ shift
      (∀ i, i < x.par.near + x.par.far → ∀ j, j < 32 → ∀ g, x.segs[i]? = some g →
        tapAt t (32 * g.val + j) = eccEncode (BitVec.ofInt 16
          (sat (taps.getD (32 * i + j) 0 + delta (e * samples.getD (32 * i + j) 0))))) ∧
      (∀ a, ¬ inSegments (x.segs.take (x.par.near + x.par.far)) a → tapAt t a = tapAt s a) ∧
      { t with sal := { t.sal with taps := s.sal.taps } } = s)

/-- When and how a full service adapts the equalizer taps: in EQ_TRAIN and TRACKING with an empty hold set and a present
desired sample, tap k by the error times entry Λ + k of the residual ring, scaled by the shift of the updated P_e, rounded
and clamped; otherwise they stay, corrected where they read so (R49–R52). -/
def Obligations.EqualizerTapsAdaptByTheRule : Prop :=
  ∀ (i : Instr) (c : Chan) (code : Byte) (x d : Word) (n m : Nat) (g : Seg) (s : State),
    FullService i c code x d n m s → MemoryOk s.sal → s.chans[c].segs.Nodup → s.chans[c].eqSeg = some g →
    s.chans[c].segs.length = s.chans[c].par.near + s.chans[c].par.far + 1 → s.chans[c].resid.length = 40 →
    1 ≤ s.chans[c].par.lag → s.chans[c].par.lag ≤ 8 →
    let x0 := s.chans[c]
    let q := x0.par
    let e := residual c code x s
    let before (j : Nat) : Int := (tapValues c s).getD (32 * q.near + 32 * q.far + j) 0
    let adapts := (x0.state = .eqTrain ∨ x0.state = .tracking) ∧ x0.freeze = false ∧ x0.lock = false
    ∃ t, exec i s = .next t ∧
      (∀ v, adapts → desiredOf d = some v →
        let eps := sat (v - x0.lagLine.getD (q.lag - 1) 0)
        let b := (leak x0.pe e + s.btl.part1.pfloor).log2
        let shift := b + (if x0.state = .eqTrain then q.aEqTrain else q.aEqTrack) - 14
        let delta (p : Int) : Int := if shift = 0 then p else (p + 2 ^ (shift - 1)) / 2 ^ shift
        ∀ j, j < 32 → tapAt t (32 * g.val + j) = eccEncode (BitVec.ofInt 16
          (sat (before j + delta (eps * ((e :: x0.resid).take 40).getD (q.lag + j) 0))))) ∧
      (¬ adapts ∨ desiredOf d = none → ∀ j, j < 32 → tapAt t (32 * g.val + j) =
        match classify (tapAt s (32 * g.val + j)) with
        | .corrected v => eccEncode v
        | _ => tapAt s (32 * g.val + j))

/-- The counters of a training and its end. A full service taken in ECHO_TRAIN or EQ_TRAIN counts one frame, moves the
streak by ERLE and the gate, or by quality and the presence of the desired sample, counts a service that the guard
withheld, and ends the training CONVERGED when the streak has reached the hold count, else TIMED_OUT when the frames have
reached the timeout: the result is recorded, the completion carries the words of R65 and the channel enters TRACKING (R34,
R61–R65). In BOUND and TRACKING the counters stay (R61). -/
def Obligations.TrainingEndsByStreakOrTimeout : Prop :=
  (∀ (q : Params) (x : Context), x.state = .echoTrain ∨ x.state = .eqTrain →
    (q.holdCount ≤ x.streak → trainingEnd q x = some .converged) ∧
    (x.streak < q.holdCount → q.timeout ≤ x.trainFrames → trainingEnd q x = some .timedOut) ∧
    (x.streak < q.holdCount → x.trainFrames < q.timeout → trainingEnd q x = none)) ∧
  (∀ (c : Chan) (o : Result) (s : State), s.chans[c].state = .echoTrain ∨ s.chans[c].state = .eqTrain →
    o = .converged ∨ o = .timedOut →
    (finishTraining c o s).chans = s.chans.set c { s.chans[c] with
      state := .tracking, trainLink := none
      converged := s.chans[c].converged || decide (o = .converged)
      convErle := if o = .converged then some (erle s.chans[c]) else s.chans[c].convErle } ∧
    (∀ k t, s.chans[c].owner = some k → s.chans[c].trainLink = some t →
      finishTraining c o s =
        (postOutcome k t o
          [if s.chans[c].state = .echoTrain then 0 else 1,
           word (if s.chans[c].state = .echoTrain then erle s.chans[c] else quality s.chans[c]),
           word (if s.chans[c].state = .echoTrain then quality s.chans[c] else erle s.chans[c]),
           word s.chans[c].trainFrames, word s.chans[c].streak, word s.chans[c].guarded] s).setChan c
          (finishTraining c o s).chans[c])) ∧
  ∀ (i : Instr) (c : Chan) (code : Byte) (x d : Word) (n m : Nat) (s : State), FullService i c code x d n m s →
    let x0 := s.chans[c]
    let q := x0.par
    ∃ t, exec i s = .next t ∧
      let y := t.chans[c]
      let gate : Bool := decide (s.btl.part1.gate ≤ logValue y.pr)
      let frames := x0.trainFrames + 1
      let streak :=
        if x0.state = .echoTrain then
          (if gate = true then (if q.erleTarget ≤ erle y then x0.streak + 1 else 0) else x0.streak)
        else
          (if (desiredOf d).isSome = true then (if q.qualTarget ≤ quality y then x0.streak + 1 else 0)
           else x0.streak)
      (x0.state = .bound ∨ x0.state = .tracking →
        y.trainFrames = x0.trainFrames ∧ y.streak = x0.streak ∧ y.guarded = x0.guarded ∧
        y.trainLink = x0.trainLink ∧ y.converged = x0.converged ∧ y.convErle = x0.convErle) ∧
      (x0.state = .echoTrain ∨ x0.state = .eqTrain →
        y.trainFrames = frames ∧ y.streak = streak ∧
        y.guarded = (if x0.state = .echoTrain ∧ x0.freeze = false ∧ x0.lock = false ∧ gate = true ∧
          logValue y.pr + s.btl.part1.guard ≤ logValue y.py then x0.guarded + 1 else x0.guarded) ∧
        (∀ o, q.holdCount ≤ streak ∧ o = .converged ∨
            streak < q.holdCount ∧ q.timeout ≤ frames ∧ o = .timedOut →
          y.state = .tracking ∧ y.trainLink = none ∧ y.converged = (x0.converged || decide (o = .converged)) ∧
          y.convErle = (if o = .converged then some (erle y) else x0.convErle) ∧
          (∀ k g, x0.owner = some k → x0.trainLink = some g → t.cbi = (postOutcome k g o
            [if x0.state = .echoTrain then 0 else 1, word (if x0.state = .echoTrain then erle y else quality y),
             word (if x0.state = .echoTrain then quality y else erle y), word frames, word streak,
             word y.guarded] s).cbi) ∧
          (x0.owner = none ∨ x0.trainLink = none → t.cbi = s.cbi)) ∧
        (streak < q.holdCount → frames < q.timeout →
          y.state = x0.state ∧ y.trainLink = x0.trainLink ∧ y.converged = x0.converged ∧
          y.convErle = x0.convErle ∧ t.cbi = s.cbi))

/-- The degrade and quiet detectors in a full service: the degrade detector watches ERLE against the target and its margin
in services taken in TRACKING above the gate, the quiet detector L(P_y) in all four states; each reports once when its
streak reaches the count, and is armed again by its level; ECHO DEGRADED is posted before LINE QUIET (R66–R70). -/
def Obligations.DetectorsReportOnceAndRearm : Prop :=
  ∀ (i : Instr) (c : Chan) (code : Byte) (x d : Word) (n m : Nat) (s : State), FullService i c code x d n m s →
    let x0 := s.chans[c]
    let p := s.btl.part1
    let post (b : Bool) (kind : EventKind) (detail : Nat) (u : State) : State :=
      if b then postOwner c kind detail u else u
    ∃ t, exec i s = .next t ∧
      let y := t.chans[c]
      let watched : Bool := decide (x0.state = .tracking ∧ p.gate ≤ logValue y.pr)
      let low : Bool := decide (erle y + p.degradeMargin < x0.par.erleTarget)
      let trips : Bool := watched && !x0.degraded && low && decide (x0.degradeStreak + 1 = p.degradeCount)
      let silent : Bool := decide (logValue y.py < p.quietLevel)
      let rings : Bool := !x0.quiet && silent && decide (x0.quietStreak + 1 = p.quietLimit)
      y.degraded = (if watched = false then x0.degraded
        else if x0.degraded = true then decide (erle y < x0.par.erleTarget) else trips) ∧
      y.degradeStreak = (if watched = false ∨ x0.degraded = true then x0.degradeStreak
        else if low = false ∨ trips = true then 0 else x0.degradeStreak + 1) ∧
      y.quiet = (if x0.quiet = true then silent else rings) ∧
      y.quietStreak = (if x0.quiet = true then x0.quietStreak
        else if silent = false ∨ rings = true then 0 else x0.quietStreak + 1) ∧
      t.fifos = (post rings .lineQuiet (logValue y.py)
        (post trips .echoDegraded (erle y) (correctionEvent c (tapsRead c s) s))).fifos

/-- A held output is sent at its position in the frame it is marked for, and removed; otherwise the idle code of the
frame's law, or 0 and 0, is sent, and a stale output is discarded (R15, R17). -/
def Obligations.OutputsAreSentInTheirFrame : Prop :=
  (∀ (n : Slot) (c : Chan) (s : State) (v : Byte) (f : Nat), mappedChan n s = some c →
    s.hwi.outputs[c].code = some (v, f) →
    exec (.lineOutputSend n) s = .next { s with hwi := { s.hwi with
      lhtx := { slot := n, code := if f = s.hwi.line.frame then v else idleCode s.hwi.idleLaw }
      outputs := s.hwi.outputs.set c { s.hwi.outputs[c] with
        code := if f ≤ s.hwi.line.frame then none else some (v, f) } } }) ∧
  (∀ (n : Slot) (s : State), (∀ c, mappedChan n s = some c → s.hwi.outputs[c].code = none) →
    exec (.lineOutputSend n) s = .next
      { s with hwi := { s.hwi with lhtx := { slot := n, code := idleCode s.hwi.idleLaw } } }) ∧
  (∀ (c : Chan) (s : State) (v w : Int) (f : Nat), s.hwi.outputs[c].pair = some (v, w, f) →
    exec (.modemOutputSend c) s = .next { s with hwi := { s.hwi with
      mhtx := { chan := c, first := if f = s.hwi.modem.frame then v else 0
                second := if f = s.hwi.modem.frame then w else 0 }
      outputs := s.hwi.outputs.set c { s.hwi.outputs[c] with
        pair := if f ≤ s.hwi.modem.frame then none else some (v, w, f) } } }) ∧
  ∀ (c : Chan) (s : State), s.hwi.outputs[c].pair = none →
    exec (.modemOutputSend c) s = .next
      { s with hwi := { s.hwi with mhtx := { chan := c, first := 0, second := 0 } } }

/-! ### Line code and measures -/

/-- Decoding of every line code under both laws: magnitude, sign, extremes and idle codes (R8, R9). -/
def Obligations.LineCodesDecodeByTheLaws : Prop :=
  (∀ code : Byte,
    let f := ~~~code
    let magnitude : Int := (8 * ((f.toNat % 16 : Nat) : Int) + 132) * 2 ^ (f.toNat / 16 % 8) - 132
    decodeLine .mu code = if f.getLsbD 7 then -magnitude else magnitude) ∧
  (∀ code : Byte, (decodeLine .mu code).natAbs ≤ 32124) ∧ decodeLine .mu 0xFF = 0 ∧ decodeLine .mu 0x7F = 0 ∧
  decodeLine .mu 0x80 = 32124 ∧
  (∀ code : Byte,
    let f := code ^^^ 0x55
    let q : Int := ((f.toNat % 16 : Nat) : Int)
    let s := f.toNat / 16 % 8
    let magnitude : Int := if s = 0 then 16 * q + 8 else (16 * q + 264) * 2 ^ (s - 1)
    decodeLine .a code = if f.getLsbD 7 then magnitude else -magnitude) ∧
  (∀ code : Byte, 8 ≤ (decodeLine .a code).natAbs ∧ (decodeLine .a code).natAbs ≤ 32256) ∧
  (0xD5 : Byte) ^^^ 0x55 = 0x80 ∧ decodeLine .a 0xD5 = 8 ∧ decodeLine .a (0xFF ^^^ 0x55) = 32256

/-- Encoding of every sample under both laws: the clamped magnitude, its segment from the leading one, its step by
floor, the sign, and the line form of the field form so made; it gives back every code's sample, clamps what lies beyond
the law's range, and gives the idle code for 0 (R7, R10, R11, R12). -/
def Obligations.EncodingReturnsEveryDecodedSample : Prop :=
  (∀ x : Int,
    let v := min x.natAbs 32635 + 132
    let s := v.log2 - 7
    let q := v / 2 ^ (s + 3) - 16
    encodeLine .mu x = ~~~(BitVec.ofNat 8 ((if x < 0 then 128 else 0) + 16 * s + q)) ∧
      132 ≤ v ∧ v ≤ 32767 ∧ s ≤ 7 ∧ q ≤ 15) ∧
  (∀ x : Int,
    let a := min x.natAbs 32767
    let s := if a < 256 then 0 else a.log2 - 7
    let q := if a < 256 then a / 16 else a / 2 ^ (s + 3) - 16
    encodeLine .a x = BitVec.ofNat 8 ((if 0 ≤ x then 128 else 0) + 16 * s + q) ^^^ 0x55 ∧
      (256 ≤ a → 1 ≤ s) ∧ s ≤ 7 ∧ q ≤ 15) ∧
  (∀ (l : Law) (code : Byte), reference l (decodeLine l code) = decodeLine l code) ∧
  (∀ l : Law, encodeLine l 0 = idleCode l) ∧
  (∀ x : Int, 32635 ≤ x → encodeLine .mu x = 0x80 ∧ encodeLine .mu (-x) = 0x00) ∧
  ∀ x : Int, 32767 ≤ x → encodeLine .a x = 0xAA ∧ encodeLine .a (-x) = 0x2A

/-- Every power estimator value lies within 0…2^30: every step keeps those of every channel there, no clamp being needed,
for the update rule keeps one there for every sample that can be presented, and below 2^30 for those that are; and what an
estimator does on silence (R56). The formulas of the update and of the saturation that the presented samples go through. -/
def Obligations.EstimatorsStayWithinTheirRange : Prop :=
  (∀ (p : Nat) (v : Int), leak p v = p - p / 128 + v.natAbs ^ 2 / 128) ∧
  (∀ x : Int, sat x = max (-32767) (min 32767 x)) ∧
  (∀ s t : State, EstimatorsOk s → step s = .next t → EstimatorsOk t) ∧
  (∀ (p : Nat) (v : Int), p ≤ 2 ^ 30 → v.natAbs ≤ 32768 → leak p v ≤ 2 ^ 30) ∧
  (∀ (p : Nat) (v : Int), p < 2 ^ 30 → v.natAbs ≤ 32767 → leak p v < 2 ^ 30) ∧
  (2 ^ 30 - 2 ^ 30 / 128 = 127 * 2 ^ 23 ∧ ∀ p q : Nat, p ≤ q → p - p / 128 ≤ q - q / 128) ∧
  (∀ v : Int, v.natAbs ≤ 32768 → v.natAbs * v.natAbs / 128 ≤ 2 ^ 23) ∧
  (∀ (l : Law) (code : Byte), (decodeLine l code).natAbs ≤ 32256) ∧ (∀ x : Int, (sat x).natAbs ≤ 32767) ∧
  (∀ (d : Word) (v : Int), desiredOf d = some v → v.natAbs ≤ 32767) ∧
  leak 0 0 = 0 ∧ (∀ p : Nat, leak p 0 = p - p / 128) ∧ (∀ p : Nat, p < 128 → leak p 0 = p) ∧
  (∀ p : Nat, 128 ≤ p → ∃ n, (fun q => leak q 0)^[n] p = 127 ∧ ∀ k, (fun q => leak q 0)^[n + k] p = 127) ∧
  (∀ p : Nat, p ≤ 127 → logValue p ≤ 56) ∧ 56 < builtInOne.gate

/-- The log scale: its two parts, its bounds and its growth, and the two figures of merit formed from it (R59, R60). -/
def Obligations.LogValuesAndFiguresOfMerit : Prop :=
  (∀ p b : Nat, 2 ^ b ≤ p + 1 → p + 1 < 2 ^ (b + 1) →
    logValue p = 8 * b + (p + 1 - 2 ^ b) * 8 / 2 ^ b ∧ (p + 1 - 2 ^ b) * 8 / 2 ^ b ≤ 7) ∧
  (∀ p q : Nat, p ≤ q → logValue p ≤ logValue q) ∧ logValue 0 = 0 ∧ logValue (2 ^ 30) = 240 ∧
  ∀ x : Context,
    (erle x : Int) = max 0 ((logValue x.py : Int) - logValue x.pe) ∧
    (quality x : Int) = max 0 ((logValue x.pd : Int) - logValue x.peps)

/-! ### The stores -/

/-- A tap word reads good as written, one flipped bit is corrected to the value written, and two are uncorrectable (R104).
A history sample reads back as written, a stored zero carries its parity bit, and one flipped bit always leaves no value
(R107). -/
def Obligations.StoredWordsShowTheirErrors : Prop :=
  (∀ v : Word, correctedValue v = if v = 0x8000 then 0x8001 else v) ∧
  (∀ v : Word,
    classify (eccEncode v) = .good v ∧
    (∀ i, i < 22 → classify (eccEncode v ^^^ (1#22 <<< i)) = .corrected (correctedValue v)) ∧
    ∀ i j, i < 22 → j < 22 → i ≠ j →
      classify (eccEncode v ^^^ (1#22 <<< i) ^^^ (1#22 <<< j)) = .uncorrectable) ∧
  (∀ (m : Sal) (p : Page) (off : Nat) (v : Int), MemoryOk m → -32768 ≤ v → v ≤ 32767 →
    readSample (writeSample p off v m) (256 * p.val + off % 256) = some v) ∧
  (parityEncode 0).getLsbD 16 = true ∧
  ∀ (m : Sal) (a : Nat) (v : Word) (i : Nat), i < 17 →
    cellRead histBlank m.hist a = parityEncode v ^^^ (1#17 <<< i) → readSample m a = none

/-- The re-check grants the head of the wait queue while it passes the reservation check, and stops at the first head
that fails (R110, R113). The reserves of that check, against which O52 and O55 measure room too: what the other attached
controllers are promised and do not hold (R110). -/
def Obligations.RecheckGrantsFromTheHead : Prop :=
  (∀ (c : Ctl) (s : State),
    let unused (share held : Ctl → Nat) : Int :=
      ((List.finRange 4).map fun j =>
        if j ≠ c ∧ s.cbi.attached[j] = true then max 0 ((share j : Int) - held j) else 0).sum
    (reserveSeg c s : Int) = unused (fun j => s.btl.part0.shareSeg[j]) (fun j => s.sal.heldSeg[j]) ∧
    (reservePage c s : Int) = unused (fun j => s.btl.part0.sharePage[j]) (fun j => s.sal.heldPage[j])) ∧
  (∀ s : State, s.sal.waitQ = [] → recheck s = s) ∧
  (∀ (e : WaitEntry) (rest : List WaitEntry) (s : State), s.sal.waitQ = e :: rest →
    ¬ (reserveSeg e.ctl s + e.segs ≤ s.sal.freeSegs.length ∧ reservePage e.ctl s + e.pages ≤ s.sal.freePages.length) →
    recheck s = s) ∧
  ∀ (e : WaitEntry) (rest : List WaitEntry) (s : State), s.sal.waitQ = e :: rest →
    reserveSeg e.ctl s + e.segs ≤ s.sal.freeSegs.length → reservePage e.ctl s + e.pages ≤ s.sal.freePages.length →
    recheck s = recheck (grant e.chan e.segs e.pages { s with sal := { s.sal with waitQ := rest } })

/-- A grant takes the lowest free units (the first of the free sets, which ascend: O9), zeroes them but for the unit
equalizer, credits the owner and initialises the whole context; where the load key names a VALID profile the channel
enters LOADING with a LOAD job, otherwise it enters BOUND without a load key and a BIND that waited for it completes BOUND
(R43, R82, R83, R85, R102, R114, R126). -/
def Obligations.GrantAllocatesZeroedUnits : Prop :=
  ∀ (c : Chan) (n p : Nat) (k : Ctl) (s : State), s.chans[c].owner = some k →
    MemoryOk s.sal → s.sal.freeSegs.Nodup → n ≤ s.sal.freeSegs.length → p ≤ s.sal.freePages.length →
    let x := s.chans[c]
    let q := x.par
    let t := grant c n p s
    let granted (st : ChanState) (link : Option Tag) : Context := { x with
      state := st, segs := s.sal.freeSegs.take n, pages := s.sal.freePages.take p, w := 0
      resid := List.replicate 40 0, lagLine := List.replicate 8 0, pr := 0, py := 0, pe := 0, pd := 0, peps := 0
      trainFrames := 0, streak := 0, guarded := 0, degradeStreak := 0, quietStreak := 0, eccCount := 0
      parityCount := 0, convErle := none, converged := false, degraded := false, quiet := false, firstCorr := false
      load := none, bindLink := link }
    ((∀ key, x.load = some key → findValid key s = none) →
      t.chans = s.chans.set c (granted .bound none) ∧
      (∀ g, x.bindLink = some g → t.cbi = (postOutcome k g .bound
        [word c.val, 1, 3, word x.relation.code, word q.near, word q.far, word q.bulk, if q.eq then 1 else 0,
         word q.mainTap, word q.lag] s).cbi) ∧
      (x.bindLink = none → t.cbi = s.cbi) ∧ { t with sal := s.sal, chans := s.chans, cbi := s.cbi } = s) ∧
    (∀ key r, x.load = some key → findValid key s = some r →
      let d := s.pfs.recs[r].desc
      t.chans = s.chans.set c (granted .loading x.bindLink) ∧
      t.jobs = s.jobs ++ [{ kind := .load, chan := c, key, count := min d.near q.near
        + (if d.eq && q.eq then 1 else 0), moved := 0, eqLast := d.eq && q.eq, queuedAt := s.hwi.line.frame }] ∧
      t.pfs = { recs := s.pfs.recs.set r { s.pfs.recs[r] with useCount := min 65535 (s.pfs.recs[r].useCount + 1) }
                recency := r :: s.pfs.recency.filter (· != r) } ∧
      { t with sal := s.sal, chans := s.chans, jobs := s.jobs, pfs := s.pfs } = s) ∧
    t.sal.freeSegs = s.sal.freeSegs.drop n ∧ t.sal.freePages = s.sal.freePages.drop p ∧
    t.sal.heldSeg = s.sal.heldSeg.set k (s.sal.heldSeg[k] + n) ∧
    t.sal.heldPage = s.sal.heldPage.set k (s.sal.heldPage[k] + p) ∧ t.sal.waitQ = s.sal.waitQ ∧
    (∀ a, inSegments (s.sal.freeSegs.take n) a →
      (∀ g, t.chans[c].eqSeg = some g → a < 32 * g.val ∨ 32 * g.val + 32 ≤ a) → tapAt t a = eccEncode 0) ∧
    (∀ g, t.chans[c].eqSeg = some g → ∀ i, i < 32 →
      tapAt t (32 * g.val + i) = eccEncode (if i = q.mainTap then 16384 else 0)) ∧
    (∀ a, ¬ inSegments (s.sal.freeSegs.take n) a → tapAt t a = tapAt s a) ∧
    (∀ a, inPages (s.sal.freePages.take p) a → sampleAt t a = parityEncode 0) ∧
    (∀ a, ¬ inPages (s.sal.freePages.take p) a → sampleAt t a = sampleAt s a)

/-- A channel enters FREE: its units return, its holdings fall, its timeslot, holds, profile relation and links go, and
what R72 names stays (R72, R117). -/
def Obligations.EnteringFreeReturnsTheUnits : Prop :=
  ∀ (c : Chan) (s : State),
    let x := s.chans[c]
    let t := enterFree c s
    t.chans = s.chans.set c { x with
      state := .free, owner := none, slot := none, segs := [], pages := [], freeze := false, lock := false
      bound := none, learn := none, load := none, relation := .none, trainLink := none, bindLink := none } ∧
    t.sal.taps = s.sal.taps ∧ t.sal.hist = s.sal.hist ∧ t.sal.waitQ = s.sal.waitQ ∧
    (∀ g : Seg, g ∈ t.sal.freeSegs ↔ g ∈ s.sal.freeSegs ∨ g ∈ x.segs) ∧
    (∀ p : Page, p ∈ t.sal.freePages ↔ p ∈ s.sal.freePages ∨ p ∈ x.pages) ∧
    (∀ k, x.owner = some k → t.sal.heldSeg = s.sal.heldSeg.set k (s.sal.heldSeg[k] - x.segs.length) ∧
      t.sal.heldPage = s.sal.heldPage.set k (s.sal.heldPage[k] - x.pages.length)) ∧
    (x.owner = none → t.sal.heldSeg = s.sal.heldSeg ∧ t.sal.heldPage = s.sal.heldPage) ∧
    t.hwi = { s.hwi with inputs := s.hwi.inputs.set c emptyInput, outputs := s.hwi.outputs.set c emptyHold } ∧
    (∀ r : Rec, t.pfs.recs[r] = if s.pfs.recs[r].boundChan = some c then { s.pfs.recs[r] with boundChan := none }
      else s.pfs.recs[r]) ∧ t.pfs.recency = s.pfs.recency ∧
    (∀ k : Ctl, t.locks[k] = s.locks[k].map fun l => if l.held = some c then { l with held := none } else l) ∧
    { t with chans := s.chans, sal := s.sal, hwi := s.hwi, pfs := s.pfs, locks := s.locks } = s

/-! ### Transfers and expiries -/

/-- At the start of an in-sync line frame a LOAD moves one chunk into its segment; its last move takes the channel to BOUND
and completes the BIND. Out of sync, without a frame due or with nothing queued earlier, nothing moves (R84, R132,
R133). -/
def Obligations.LoadMovesOneSegmentAFrame : Prop :=
  (∀ (s : State) (j : Job) (rest : List Job) (g : Seg) (r : Rec), s.hwi.line.inSync = true → s.hwi.frameDue = true →
    s.jobs = j :: rest → j.kind = .load → j.queuedAt < s.hwi.line.frame → j.segment s.chans[j.chan] = some g →
    findProfile j.key s = some r →
    let u := { s with
      hwi := { s.hwi with frameDue := false }, sal := writeSegment g s.pfs.recs[r].chunks[j.chunk] s.sal }
    (j.moved + 1 < j.count → exec .lineFrameStart s = .next
      { u with jobs := { j with moved := j.moved + 1 } :: rest }) ∧
    (j.count ≤ j.moved + 1 → exec .lineFrameStart s = .next
      (completeBind j.chan .bound { u with
        jobs := rest, chans := s.chans.set j.chan { s.chans[j.chan] with state := .bound } }))) ∧
  (∀ s : State, s.hwi.line.inSync = false ∨ s.hwi.frameDue = false → exec .lineFrameStart s = .next s) ∧
  (∀ s : State, s.hwi.line.inSync = true → s.hwi.frameDue = true →
    (∀ j ∈ s.jobs.head?, s.hwi.line.frame ≤ j.queuedAt) →
    exec .lineFrameStart s = .next { s with hwi := { s.hwi with frameDue := false } }) ∧
  ∀ (m : Sal) (g : Seg) (vs : List Word), MemoryOk m → vs.length = 32 →
    (∀ i, i < 32 → cellRead tapBlank (writeSegment g vs m).taps (32 * g.val + i) = eccEncode (vs.getD i 0)) ∧
    ∀ a, (a < 32 * g.val ∨ 32 * g.val + 32 ≤ a) →
      cellRead tapBlank (writeSegment g vs m).taps a = cellRead tapBlank m.taps a

/-- A SAVE copies one segment into its chunk, a corrected word by its corrected value; corrected words are written back,
counted, and the first since bind reported. Its last move makes the profile VALID at the front of the recency list and
frees the channel, SAVED. An uncorrectable word makes the profile EMPTY and frees the channel, NOT_SAVED with reason FAULT.
What a RELEASE completion carries: the channel, the reason and the key (R31, R89, R105, R128, R132, R134). -/
def Obligations.SaveMovesOneSegmentAFrame : Prop :=
  (∀ (s : State) (j : Job) (rest : List Job) (g : Seg) (r : Rec), s.hwi.line.inSync = true → s.hwi.frameDue = true →
    s.jobs = j :: rest → j.kind = .save → j.queuedAt < s.hwi.line.frame → j.segment s.chans[j.chan] = some g →
    findProfile j.key s = some r → s.pfs.recs[r].boundChan = some j.chan → s.chans[j.chan].state = .releasing →
    let p := s.pfs.recs[r]
    let rd := readSegment s.sal g
    let copied := p.chunks.set j.chunk (rd.map fun t => t.cls.value.getD 0)
    let due := { s with hwi := { s.hwi with frameDue := false } }
    let front := r :: s.pfs.recency.filter (· != r)
    ∃ u : State, u.chans = s.chans.set j.chan (countCorrections rd s.chans[j.chan]) ∧
      u.fifos = (correctionEvent j.chan rd s).fifos ∧ (MemoryOk s.sal → WrittenBack rd s u) ∧
      { u with chans := s.chans, fifos := s.fifos, sal := { u.sal with taps := s.sal.taps } } = due ∧
      ((∀ t ∈ rd, ∃ v, t.cls = .good v) → u = due) ∧
      ((∀ t ∈ rd, t.cls ≠ .uncorrectable) → j.moved + 1 < j.count → exec .lineFrameStart s = .next { u with
        pfs := { s.pfs with recs := s.pfs.recs.set r { p with chunks := copied } }
        jobs := { j with moved := j.moved + 1 } :: rest }) ∧
      ((∀ t ∈ rd, t.cls ≠ .uncorrectable) → j.count ≤ j.moved + 1 →
        exec .lineFrameStart s = .next (recheck (enterFree j.chan (completeRelease j.chan .saved 0 (some j.key) { u with
          pfs := { recs := s.pfs.recs.set r { p with chunks := copied, state := .valid, boundChan := none }
                   recency := front }
          jobs := rest })))) ∧
      ((∃ t ∈ rd, t.cls = .uncorrectable) →
        let v := completeRelease j.chan .notSaved 2 (some j.key) { u with jobs := rest }
        exec .lineFrameStart s = .next (recheck (enterFree j.chan { v with
          pfs := { recs := s.pfs.recs.set r emptyProfile, recency := s.pfs.recency.filter (· != r) }
          chans := v.chans.set j.chan { v.chans[j.chan] with bound := none } })))) ∧
  ∀ (c : Chan) (o : Result) (why : Nat) (key : Key) (s : State),
    let unlinked (u : State) : State := { u with chans := s.chans.set c { s.chans[c] with bindLink := none } }
    (∀ k t, s.chans[c].owner = some k → s.chans[c].bindLink = some t → completeRelease c o why (some key) s =
      unlinked (postOutcome k t o [word c.val, word why, word (key.toNat / 65536), word key.toNat] s)) ∧
    (s.chans[c].owner = none ∨ s.chans[c].bindLink = none → completeRelease c o why (some key) s = unlinked s)

/-- Every wait entry whose deadline is reached leaves wherever it stands, in queue order; its BIND completes NO_ROOM, its
channel enters FREE and one head re-check follows; with none due nothing happens (R83, R115). That the words of the
completion (R85) are those of the channel before its entry to FREE is log entry 17's reading. -/
def Obligations.DueWaitEndsInNoRoom : Prop :=
  (∀ (c : Chan) (x : Context), bindWords c .noRoom x =
    [word c.val, 2, word x.state.code, word x.relation.code, word x.par.near, word x.par.far, word x.par.bulk,
     if x.par.eq then 1 else 0, word x.par.mainTap, word x.par.lag]) ∧
  (∀ s : State, (∀ e ∈ s.sal.waitQ, timeReached s e.accepted e.limit = false) → exec .waitDeadline s = .next s) ∧
  (∀ (s : State) (e : WaitEntry), (s.sal.waitQ.filter fun e => timeReached s e.accepted e.limit) = [e] →
    exec .waitDeadline s = .next (recheck (enterFree e.chan (completeBind e.chan .noRoom
      { s with sal := { s.sal with waitQ := s.sal.waitQ.filter fun f => f.chan != e.chan } }))) ∧
    (∀ k t, s.chans[e.chan].owner = some k → s.chans[e.chan].bindLink = some t →
      (completeBind e.chan .noRoom s).cbi =
        (postOutcome k t .noRoom (bindWords e.chan .noRoom s.chans[e.chan]) s).cbi)) ∧
  ∀ (s : State) (e : WaitEntry) (es : List WaitEntry),
    (s.sal.waitQ.filter fun e => timeReached s e.accepted e.limit) = e :: es →
    exec .waitDeadline s = .next (recheck ((e :: es).foldl (fun u f => enterFree f.chan (completeBind f.chan .noRoom
      { u with sal := { u.sal with waitQ := u.sal.waitQ.filter fun h => h.chan != f.chan } })) s))

/-- A lock that has reached the lock limit breaks: LOCK leaves the held channel, a fill's record becomes EMPTY, LOCK
BROKEN goes to the holder and the entry stays BROKEN; before the limit nothing happens (R138, R152). -/
def Obligations.LockBreaksAtItsLimit : Prop :=
  (∀ (k : Ctl) (l : Lock) (s : State), s.locks[k] = some l → l.active = true →
    timeReached s l.last s.btl.part0.lockLimit = true →
    ∃ t, exec (.lockExpiry k) s = .next t ∧
      t.locks = s.locks.set k (some { l with active := false, held := none }) ∧
      Placed k { kind := .lockBroken, chan := l.held, detail := word l.purpose.code, posted := s.btl.timebase } s t ∧
      (∀ j, j ≠ k → t.fifos[j] = s.fifos[j]) ∧
      (l.purpose ≠ .fill ∨ (∀ key, l.obj = .profile key → findProfile key s = none) → t.pfs = s.pfs ∧
        ∀ c : Chan, t.chans[c] = if l.held = some c then { s.chans[c] with lock := false } else s.chans[c]) ∧
      (∀ key r, l.purpose = .fill → l.obj = .profile key → findProfile key s = some r →
        t.pfs = { recs := s.pfs.recs.set r emptyProfile, recency := s.pfs.recency.filter (· != r) } ∧
        (∀ c : Chan, t.chans[c] = { s.chans[c] with
          lock := if l.held = some c then false else s.chans[c].lock
          bound := if s.pfs.recs[r].boundChan = some c then none else s.chans[c].bound }) ∧
        t.pfs.recs[r].state = .empty ∧ findProfile key t ≠ some r) ∧
      { t with locks := s.locks, fifos := s.fifos, pfs := s.pfs, chans := s.chans } = s) ∧
  ∀ (k : Ctl) (s : State), (∀ l, s.locks[k] = some l → l.active = false ∨
    timeReached s l.last s.btl.part0.lockLimit = false) → exec (.lockExpiry k) s = .next s

/-- The event line of an attached controller rises when its oldest entry reaches the hold time, and the step does nothing
else (R182; with RESET high, log entry 6). An event reaches the FIFO of its recipient alone, at its tail while there is
room, and otherwise sets the overflow flag (R179–R182). -/
def Obligations.EventsJoinTheFifoAndRaiseTheLine : Prop :=
  (∀ (k : Ctl) (s : State) (e : Event) (rest : List Event), s.cbi.attached[k] = true → s.btl.resetLow = false →
    s.fifos[k].entries = e :: rest → s.fifos[k].hold ≤ elapsed s e.posted →
    exec (.eventHoldReached k) s = .next
      { s with fifos := s.fifos.set k { s.fifos[k] with line := true } }) ∧
  (∀ (k : Ctl) (s : State), s.cbi.attached[k] = false ∨ s.fifos[k].entries = [] ∨
    (∀ e ∈ s.fifos[k].entries.head?, elapsed s e.posted < s.fifos[k].hold) →
    exec (.eventHoldReached k) s = .next s) ∧
  ∀ (k : Ctl) (kind : EventKind) (chan : Option Chan) (detail : Nat) (s : State),
    Placed k { kind, chan, detail := word detail, posted := s.btl.timebase } s (postTo k kind chan detail s) ∧
    (∀ j, j ≠ k → (postTo k kind chan detail s).fifos[j] = s.fifos[j]) ∧
    { postTo k kind chan detail s with fifos := s.fifos } = s

/-! ### The lanes -/

/-- The request-lane arbiter grants the first raised line after the controller last granted, and grants nothing with a
grant outstanding, a full queue, a PART RESET decided or no line raised (R157). -/
def Obligations.GrantsGoRoundTheControllers : Prop :=
  (∀ (raised : BitVec 4) (k : Ctl) (s : State), s.cbi.grant = none → s.cbi.queue.length < 8 →
    s.cbi.resetPending = false → raised.getLsbD k.val = true →
    (∀ j : Ctl, raised.getLsbD j.val = true → k - (s.cbi.lastGranted + 1) ≤ j - (s.cbi.lastGranted + 1)) →
    exec (.requestLaneGrant raised) s = .next { s with cbi := { s.cbi with
      grant := some { ctl := k, words := [], parityBad := false, since := s.btl.timebase }, lastGranted := k } }) ∧
  ∀ (raised : BitVec 4) (s : State),
    s.cbi.grant.isSome = true ∨ 8 ≤ s.cbi.queue.length ∨ s.cbi.resetPending = true ∨ raised = 0 →
    exec (.requestLaneGrant raised) s = .next s

/-- A strobe under a grant receives one word and notes a parity failure; the record is accepted with its last word, or at
a length word that exceeds 42 or fails parity; without a grant a strobe is ignored. Two milliseconds of a grant without a
strobe abandon the record and free its place (R158, R159, R166). That a length word of 0 ends its record is the reading of
R158's "last word". -/
def Obligations.StrobesReceiveARecord : Prop :=
  (∀ (w : Word) (p : Bool) (s : State), s.cbi.grant = none → exec (.requestWordStrobe w p) s = .next s) ∧
  (∀ (g : Grant) (s : State), s.cbi.grant = some g → timeReached s g.since 2 = true →
    exec .recordAbandoned s = .next { s with cbi := { s.cbi with grant := none } }) ∧
  (∀ s : State, (∀ g, s.cbi.grant = some g → timeReached s g.since 2 = false) →
    exec .recordAbandoned s = .next s) ∧
  ∀ (w : Word) (p : Bool) (g : Grant) (s : State), s.cbi.grant = some g →
    let bad := !parityGood w p
    let going : State := { s with cbi := { s.cbi with grant := some { g with
      words := g.words ++ [w], parityBad := g.parityBad || bad, since := s.btl.timebase } } }
    let accepted (header len : Word) (rest : List Word) : State := { s with cbi := { s.cbi with
      grant := none
      queue := s.cbi.queue ++ [{ ctl := g.ctl, header, length := len.toNat, words := rest
                                 parityBad := g.parityBad || bad, answer := none, announces := false }] } }
    (g.words = [] → exec (.requestWordStrobe w p) s = .next going) ∧
    (∀ header, g.words = [header] →
      exec (.requestWordStrobe w p) s = .next
        (if bad = true ∨ 42 < w.toNat ∨ w.toNat = 0 then accepted header w [] else going)) ∧
    ∀ header len rest, g.words = header :: len :: rest →
      exec (.requestWordStrobe w p) s = .next
        (if len.toNat ≤ rest.length + 1 then accepted header len (rest ++ [w]) else going)

/-- The reply-lane arbiter: with both sources waiting it sends the preferred one's record, with one waiting that one's,
and the preference becomes the other source; a deferred entry that the sent response announces is READY from then on if
its outcome is known, and a completion removes its entry; the responses ahead of a decided PART RESET are sent like any
other (R165, R166, R171, R172, R178). What posting an outcome does: its entry takes it, and is READY once its DEFERRED
response has been sent (R171). The layout of both records, with the codes of their headers and reason words (Table
9-3, R162, R163). -/
def Obligations.ReplyLaneSendsByPreference : Prop :=
  (∀ (k : Ctl) (t : Tag) (o : Result) (ws : List Word) (s : State),
    postOutcome k t o ws s = { s with cbi := { s.cbi with
      deferred := s.cbi.deferred.map fun e =>
        if e.ctl = k ∧ e.tag = t then { e with outcome := some (o, ws), ready := e.announced } else e
      ready := if ∃ e ∈ s.cbi.deferred, e.ctl = k ∧ e.tag = t ∧ e.announced = true then s.cbi.ready ++ [(k, t)]
        else s.cbi.ready } }) ∧
  (∀ (rq : Request) (a : Answer) (rest : List Request) (s : State), s.cbi.queue = rq :: rest → rq.answer = some a →
    s.cbi.preference = .response ∨ s.cbi.ready = [] →
    s.cbi.resetPending = false ∨ rq.kind ≠ some .partReset ∨ a.kind ≠ .done →
    (rq.announces = false → exec .sendResponse s = .next { s with cbi := { s.cbi with
      lane := (responseRecord rq a).map fun w => (w, parityBit w), queue := rest, preference := .completion } }) ∧
    (rq.announces = true → exec .sendResponse s = .next { s with cbi := { s.cbi with
      lane := (responseRecord rq a).map fun w => (w, parityBit w), queue := rest, preference := .completion
      deferred := s.cbi.deferred.map fun e =>
        if e.ctl = rq.ctl ∧ e.tag = rq.tag then { e with announced := true, ready := e.outcome.isSome } else e
      ready := if ∃ e ∈ s.cbi.deferred, e.ctl = rq.ctl ∧ e.tag = rq.tag ∧ e.outcome.isSome = true then
          s.cbi.ready ++ [(rq.ctl, rq.tag)] else s.cbi.ready } })) ∧
  (∀ (k : Ctl) (t : Tag) (rest : List (Ctl × Tag)) (e : Deferred) (o : Result) (ws : List Word) (s : State),
    s.cbi.ready = (k, t) :: rest →
    s.cbi.preference = .completion ∨ (∀ rq ∈ s.cbi.queue.head?, rq.answer = none) →
    s.cbi.deferred.find? (fun e => e.is k t) = some e → e.outcome = some (o, ws) →
    exec .sendCompletion s = .next { s with cbi := { s.cbi with
      lane := (completionRecord k t o ws).map fun w => (w, parityBit w), ready := rest, preference := .response
      deferred := s.cbi.deferred.filter fun e => !e.is k t } }) ∧
  (∀ s : State, (∀ rq ∈ s.cbi.queue.head?, rq.answer = none) ∨
    (s.cbi.preference = .completion ∧ s.cbi.ready ≠ []) → exec .sendResponse s = .next s) ∧
  (∀ s : State, s.cbi.ready = [] ∨
    (s.cbi.preference = .response ∧ ∃ rq ∈ s.cbi.queue.head?, rq.answer ≠ none) → exec .sendCompletion s = .next s) ∧
  (∀ (rq : Request) (a : Answer),
    let kind : Nat := match a.kind with
      | .done => 1
      | .deferred => 2
      | .retry => 3
      | .refused => 4
      | .parity => 5
    let marks : List Word := match a.marks with
      | none => []
      | some m => [m.setWidth 16, (m >>> 16).setWidth 16]
    responseRecord rq a =
      [word (16384 * rq.ctl.val + 1024 * rq.tag.val + 256 + kind), word (1 + a.results.length + marks.length),
       word (a.code % 256 + (if a.live then 256 else 0) + (if a.marks.isSome then 512 else 0) + 1024 * (a.corrected % 64))]
        ++ a.results ++ marks) ∧
  (∀ (k : Ctl) (t : Tag) (o : Result) (ws : List Word),
    let outcome : Nat := match o with
      | .bound => 1
      | .noRoom => 2
      | .aborted => 3
      | .faulted => 4
      | .converged => 5
      | .timedOut => 6
      | .superseded => 7
      | .saved => 8
      | .notSaved => 9
    completionRecord k t o ws = word (16384 * k.val + 1024 * t.val + 512 + outcome) :: word ws.length :: ws) ∧
  ([Reason.badRequest, .outOfRange, .notAttached, .notOwner, .wrongState, .slotInUse, .slotUnusable, .tagInUse,
    .gateClosed, .gateOpen, .noRoom, .noProfile, .profileBusy, .storeFull, .lockHeld, .lockBroken, .notLocked,
    .incomplete, .noEqualizer].map fun r => (refused r).code) = List.range' 1 19 ∧
  ([Cause.booting, .waitQueueFull, .locked, .inTransfer, .channelNotReady].map fun c => (retry c).code)
    = List.range' 1 5 ∧
  ∀ ws : List Word, (done ws).code = 0 ∧ deferred.code = 0

/-- PART RESET takes effect when its own response is sent: the timebase, both sync records and the memories' contents
continue, what waits behind it is discarded, everything else takes its reset value and the boot load starts (R178, R194),
the law of the idle codes with the built-in defaults (R188, log entry 12). That PART_RESET_EFFECT and SEND_RESPONSE both
do it is log entry 14's reading, that no load runs while RESET is low log entry 6's, that the port keeps the record of the
last load log entry 42's; what LHTX and MHTX last sent and a line frame start that is due are left out here, since no rule
speaks of them (log entry 44). -/
def Obligations.PartResetTakesEffectWithItsResponse : Prop :=
  ∀ (rq : Request) (a : Answer) (rest : List Request) (s : State), s.cbi.resetPending = true →
    s.cbi.queue = rq :: rest → rq.kind = some .partReset → rq.answer = some a → a.kind = .done →
    s.cbi.preference = .response ∨ s.cbi.ready = [] →
    ∃ t, exec .partResetEffect s = .next t ∧ exec .sendResponse s = .next t ∧
      t.hwi.line = s.hwi.line ∧ t.hwi.modem = s.hwi.modem ∧ t.hwi.inputs = State.reset.hwi.inputs ∧
      t.hwi.outputs = State.reset.hwi.outputs ∧ t.hwi.idleLaw = .mu ∧ t.chans = State.reset.chans ∧
      t.sal = { State.reset.sal with taps := s.sal.taps, hist := s.sal.hist } ∧ t.pfs = State.reset.pfs ∧
      t.jobs = [] ∧ t.locks = State.reset.locks ∧ t.fifos = State.reset.fifos ∧
      t.cbi = { State.reset.cbi with lane := (responseRecord rq a).map fun w => (w, parityBit w) } ∧
      t.btl.timebase = s.btl.timebase ∧ t.btl.gateOpen = false ∧ t.btl.status = .loading ∧
      t.btl.booting = !s.btl.resetLow ∧ t.btl.part0 = builtInZero ∧ t.btl.part1 = builtInOne ∧
      t.btl.port = s.btl.port

/-- The two answers CBI gives by itself: a record with a parity failure is answered PARITY with its header, whatever
else it holds (R159, R167); a kind that names no request is refused BAD_REQUEST once the requester, boot and attachment
checks pass (R163, R167). The fields of a request's header and the kind codes (R160, Tables 9-1 and 9-9). -/
def Obligations.ParityAndUnknownKindsAreAnsweredByTheBus : Prop :=
  (∀ rq : Request,
    let h := rq.header.toNat
    let kinds : List (Nat × Kind) :=
      [(0x01, .attach), (0x02, .detach), (0x03, .openService), (0x04, .closeService), (0x05, .queryPart),
       (0x06, .partReset), (0x10, .setDefaults), (0x11, .readDefaults), (0x20, .bind), (0x21, .release),
       (0x22, .trainEcho), (0x23, .trainEqualizer), (0x24, .track), (0x25, .freeze), (0x26, .thaw),
       (0x27, .restart), (0x28, .setFarWindow), (0x29, .adopt), (0x2A, .queryChannel), (0x30, .queryStore),
       (0x40, .storeProfile), (0x41, .storeProfileTaps), (0x42, .readProfile), (0x43, .readProfileTaps),
       (0x44, .dropProfile), (0x45, .listProfiles), (0x50, .readTaps), (0x51, .writeTaps), (0x60, .fetchEvents),
       (0x61, .setEventTrigger)]
    rq.requester.val = h / 16384 ∧ rq.tag.val = h / 1024 % 16 ∧
    rq.marker = (match h / 256 % 4 with
      | 0 => .none
      | 1 => .begin
      | 2 => .continue
      | _ => .ending) ∧
    ∀ k : Kind, rq.kind = some k ↔ (h % 256, k) ∈ kinds) ∧
  ∀ (rq : Request) (s : State), s.cbi.resetPending = false → nextRequest s = some rq →
    (rq.parityBad = true →
      exec .parityFailedRequest s = .next (answerFirst { done [rq.header] with kind := .parity } s) ∧
      ∀ k : Kind, exec k.command s = .next s) ∧
    (rq.parityBad = false → rq.kind = none →
      (rq.requester ≠ rq.ctl → exec .unknownRequestKind s = .next (answerFirst (refused .badRequest) s)) ∧
      (rq.requester = rq.ctl → s.btl.status = .loading →
        exec .unknownRequestKind s = .next (answerFirst (retry .booting) s)) ∧
      (rq.requester = rq.ctl → s.btl.status ≠ .loading → s.cbi.attached[rq.ctl] = false →
        exec .unknownRequestKind s = .next (answerFirst (refused .notAttached) s)) ∧
      (rq.requester = rq.ctl → s.btl.status ≠ .loading → s.cbi.attached[rq.ctl] = true →
        exec .unknownRequestKind s = .next (answerFirst (refused .badRequest) s)))

/-! ### The response stage -/

/-- Forming an answer decides the oldest undecided request, in its place, and changes nothing else (R166). A request
command without its request at the head of what is undecided, or after a PART RESET is decided, takes nothing (R166, R178;
log entries 1 and 3). -/
def Obligations.OldestRequestIsTakenAndAnswered : Prop :=
  (∀ (a : Answer) (rq : Request) (s : State), nextRequest s = some rq →
    ∃ pre post, s.cbi.queue = pre ++ rq :: post ∧ (∀ r ∈ pre, r.answer.isSome = true) ∧
      answerFirst a s = { s with cbi := { s.cbi with
        queue := pre ++ { rq with answer := some a, announces := decide (a.kind = .deferred) } :: post } }) ∧
  ∀ (k : Kind) (s : State),
    (s.cbi.resetPending = true ∨ nextRequest s = none ∨
      ∃ rq, nextRequest s = some rq ∧ (rq.parityBad = true ∨ rq.kind ≠ some k)) →
    exec k.command s = .next s

/-- The checks of the response stage in order, for every request kind; a request that fails one changes nothing but its
own answer (R167). A tag is outstanding while an entry of the deferred table has it (R170). -/
def Obligations.BusChecksAnswerInOrder : Prop :=
  (∀ (s : State) (k : Ctl) (t : Tag), tagOutstanding s k t = true ↔ ∃ e ∈ s.cbi.deferred, e.ctl = k ∧ e.tag = t) ∧
  ∀ (k : Kind) (rq : Request) (s : State), s.cbi.resetPending = false → nextRequest s = some rq →
    rq.parityBad = false → rq.kind = some k →
    (rq.requester ≠ rq.ctl → exec k.command s = .next (answerFirst (refused .badRequest) s)) ∧
    (rq.requester = rq.ctl → s.btl.status = .loading → k ≠ .queryPart →
      exec k.command s = .next (answerFirst (retry .booting) s)) ∧
    (rq.requester = rq.ctl → (s.btl.status ≠ .loading ∨ k = .queryPart) → s.cbi.attached[rq.ctl] = false →
      k ≠ .attach → k ≠ .queryPart → exec k.command s = .next (answerFirst (refused .notAttached) s)) ∧
    (rq.requester = rq.ctl → (s.btl.status ≠ .loading ∨ k = .queryPart) →
      (s.cbi.attached[rq.ctl] = true ∨ k = .attach ∨ k = .queryPart) → tagOutstanding s rq.ctl rq.tag = true →
      exec k.command s = .next (answerFirst (refused .tagInUse) s))

/-- A record whose length, marker or words do not suit its kind is refused BAD_REQUEST and changes nothing else: the kinds
of one fixed length, ATTACH from a detached controller and QUERY PART during the boot load among them; the parts of SET
DEFAULTS; the profile requests and the tap requests (R136, R144, R148, R160, R164, R189; for STORE PROFILE and BIND, O57
and O47). A profile request of suitable form with key 0 or a chunk index above 8 is refused OUT_OF_RANGE (R136, R138,
R140). That the form comes before the range in DETACH, QUERY STORE and SET EVENT TRIGGER is the choice of log entries 41,
43 and 45, and that the index is asked of an END without data log entry 34's reading. -/
def Obligations.UnsuitableFormIsBadRequest : Prop :=
  (∀ (k : Kind) (n : Nat) (rq : Request) (s : State), k.plainWords = some n → rq.plain n = false →
    Admitted k rq s ∨ (k = .attach ∧ Reaches .attach rq s ∧ s.btl.status ≠ .loading) ∨
      (k = .queryPart ∧ Reaches .queryPart rq s) →
    exec k.command s = .next (answerFirst (refused .badRequest) s)) ∧
  (∀ (rq : Request) (s : State), Admitted .setDefaults rq s →
    rq.num 0 = 0 ∧ rq.plain 16 = false ∨ rq.num 0 = 1 ∧ rq.plain 23 = false →
    exec .setDefaults s = .next (answerFirst (refused .badRequest) s)) ∧
  ∀ (rq : Request) (s : State),
    let filling := rq.length = 35 ∧ (rq.marker = .continue ∨ rq.marker = .ending) ∨ rq.length = 3 ∧ rq.marker = .ending
    (Admitted .storeProfileTaps rq s →
      (¬ filling → exec .storeProfileTaps s = .next (answerFirst (refused .badRequest) s)) ∧
      (filling → rq.key = 0 ∨ 8 < rq.num 2 →
        exec .storeProfileTaps s = .next (answerFirst (refused .outOfRange) s))) ∧
    (Admitted .readProfile rq s →
      (rq.length ≠ 2 → exec .readProfile s = .next (answerFirst (refused .badRequest) s)) ∧
      (rq.length = 2 → rq.key = 0 → exec .readProfile s = .next (answerFirst (refused .outOfRange) s))) ∧
    (Admitted .readProfileTaps rq s →
      (rq.length ≠ 3 → exec .readProfileTaps s = .next (answerFirst (refused .badRequest) s)) ∧
      (rq.length = 3 → rq.key = 0 ∨ 8 < rq.num 2 →
        exec .readProfileTaps s = .next (answerFirst (refused .outOfRange) s))) ∧
    (Admitted .dropProfile rq s → rq.plain 2 = true → rq.key = 0 →
      exec .dropProfile s = .next (answerFirst (refused .outOfRange) s)) ∧
    (Admitted .readTaps rq s → rq.length ≠ 3 → exec .readTaps s = .next (answerFirst (refused .badRequest) s)) ∧
    (Admitted .writeTaps rq s → rq.length ≠ 35 → exec .writeTaps s = .next (answerFirst (refused .badRequest) s))

/-- The common checks of the channel requests that need ownership, in order: a closed gate, a channel number above 31, a
FREE channel, another owner (R76). ADOPT's gate and range (R76). BIND's checks in order: its form, the gate, the ranges of
Table 5-3 on what is given, a channel that is not FREE, a timeslot that is unusable or in use, and the window constraint on
what is resolved (R25, R76, R78, R79, R161). -/
def Obligations.ChannelChecksAnswerInOrder : Prop :=
  (∀ (k : Kind) (n : Nat) (rq : Request) (s : State),
    k ∈ [Kind.release, .trainEcho, .trainEqualizer, .track, .freeze, .thaw, .restart, .setFarWindow] →
    k.plainWords = some n → Admitted k rq s → rq.plain n = true → (k = .release → rq.num 1 < 2) →
    (k = .setFarWindow → rq.num 1 ≤ 16 ∧ rq.num 2 ≤ 5120) →
    (s.btl.gateOpen = false → exec k.command s = .next (answerFirst (refused .gateClosed) s)) ∧
    (s.btl.gateOpen = true → 31 < rq.num 0 → exec k.command s = .next (answerFirst (refused .outOfRange) s)) ∧
    (s.btl.gateOpen = true → rq.num 0 ≤ 31 → s.chans[rq.chan].state = .free →
      exec k.command s = .next (answerFirst (refused .wrongState) s)) ∧
    (s.btl.gateOpen = true → rq.num 0 ≤ 31 → s.chans[rq.chan].state ≠ .free →
      s.chans[rq.chan].owner ≠ some rq.ctl → exec k.command s = .next (answerFirst (refused .notOwner) s))) ∧
  (∀ (rq : Request) (s : State), Admitted .adopt rq s → rq.plain 1 = true →
    (s.btl.gateOpen = false → exec .adopt s = .next (answerFirst (refused .gateClosed) s)) ∧
    (s.btl.gateOpen = true → 31 < rq.num 0 → exec .adopt s = .next (answerFirst (refused .outOfRange) s))) ∧
  (∀ (rq : Request) (s : State), Admitted .release rq s → rq.plain 2 = true → 1 < rq.num 1 →
    exec .release s = .next (answerFirst (refused .badRequest) s)) ∧
  (∀ (rq : Request) (s : State), Admitted .setFarWindow rq s → rq.plain 3 = true → s.btl.gateOpen = true →
    16 < rq.num 1 ∨ 5120 < rq.num 2 → exec .setFarWindow s = .next (answerFirst (refused .outOfRange) s)) ∧
  ∀ (rq : Request) (s : State), Admitted .bind rq s → rq.words.length = rq.length →
    let flag (i : Nat) : Bool := (rq.word 2).getLsbD i
    let given (i : Nat) : Bool := (rq.word 5).getLsbD i
    let value (i : Nat) : Nat := rq.num (6 + ((List.range i).filter given).length)
    let ranges : List (Nat × Nat) :=
      [(1, 8), (0, 16), (0, 5120), (0, 1), (0, 31), (0, 31), (0, 31), (0, 31), (0, 240), (0, 240), (1, 4095),
       (1, 65535), (0, 31), (1, 8), (1, 65535)]
    let formed := rq.marker = .none ∧ rq.length = 6 + ((List.range 16).filter given).length ∧ rq.num 2 < 8 ∧
      given 15 = false ∧ (flag 1 = true → flag 0 = true)
    let inRanges := rq.num 0 ≤ 31 ∧ rq.num 1 ≤ 31 ∧ (flag 0 = true → rq.word 3 ≠ 0 ∨ rq.word 4 ≠ 0) ∧
      ∀ i, i < 15 → given i = true → (ranges.getD i (0, 0)).1 ≤ value i ∧ value i ≤ (ranges.getD i (0, 0)).2
    let mapped := ∃ c : Chan, s.chans[c].slot = some (Fin.ofNat 32 (rq.num 1))
    let q := bindParams rq s
    (¬ formed → exec .bind s = .next (answerFirst (refused .badRequest) s)) ∧
    (formed → s.btl.gateOpen = false → exec .bind s = .next (answerFirst (refused .gateClosed) s)) ∧
    (formed → s.btl.gateOpen = true → ¬ inRanges → exec .bind s = .next (answerFirst (refused .outOfRange) s)) ∧
    (formed → s.btl.gateOpen = true → inRanges →
      (s.chans[rq.chan].state ≠ .free → exec .bind s = .next (answerFirst (refused .wrongState) s)) ∧
      (s.chans[rq.chan].state = .free → s.btl.part0.usable.getLsbD (rq.num 1) = false →
        exec .bind s = .next (answerFirst (refused .slotUnusable) s)) ∧
      (s.chans[rq.chan].state = .free → s.btl.part0.usable.getLsbD (rq.num 1) = true → mapped →
        exec .bind s = .next (answerFirst (refused .slotInUse) s)) ∧
      (s.chans[rq.chan].state = .free → s.btl.part0.usable.getLsbD (rq.num 1) = true → ¬ mapped → q.far ≠ 0 →
        q.bulk < 32 * q.near ∨ 5120 < q.bulk → exec .bind s = .next (answerFirst (refused .outOfRange) s)))

/-! ### Administration, defaults and queries -/

/-- ATTACH enters the requester in the controller table with an empty FIFO, the site's trigger settings and no lock, or
changes nothing when it stands there (R173, R185). DETACH takes its target out: its deferred entries, lock, holdings and
FIFO go, its PENDING channels are freed, its others are orphaned with an event each and keep all but their owner, their
links and the LOCK of its own lock, a fill it had begun is lost, and one head re-check follows (R97, R138, R155, R174); no
other channel, record, lock or unit changes. Its requests stay in the queue and are answered (R175); that a response so
sent announces nothing is log entry 16's reading, the zeros for a target that is not ATTACHED log entry 30's, and the form
before the range log entry 41's choice. -/
def Obligations.AttachAndDetachChangeTheControllerTable : Prop :=
  (∀ (rq : Request) (s : State), Reaches .attach rq s → s.btl.status ≠ .loading → rq.plain 0 = true →
    let answer (t : State) : Answer := done [word rq.ctl.val,
      word ((List.finRange 4).map fun k => if t.cbi.attached[k] then 2 ^ k.val else 0).sum]
    let t : State := { s with
      cbi := { s.cbi with attached := s.cbi.attached.set rq.ctl true }
      fifos := s.fifos.set rq.ctl
        { entries := [], overflow := false, level := s.btl.part0.evLevel, hold := s.btl.part0.evHold, line := false }
      locks := s.locks.set rq.ctl none }
    (s.cbi.attached[rq.ctl] = true → exec .attach s = .next (answerFirst (answer s) s)) ∧
    (s.cbi.attached[rq.ctl] = false → exec .attach s = .next (answerFirst (answer t) t))) ∧
  ∀ (rq : Request) (s : State), Admitted .detach rq s → rq.plain 1 = true →
    (3 < rq.num 0 → exec .detach s = .next (answerFirst (refused .outOfRange) s)) ∧
    ∀ k : Ctl, rq.num 0 = k.val →
      (s.cbi.attached[k] = false → exec .detach s = .next (answerFirst (done [word k.val, 0, 0, 0]) s)) ∧
      (s.cbi.attached[k] = true →
        let waiting := (List.finRange 32).filter fun c => s.chans[c].owner = some k ∧ s.chans[c].state = .pending
        let orphans := (List.finRange 32).filter fun c => s.chans[c].owner = some k ∧ s.chans[c].state ≠ .pending
        let held (c : Chan) : Bool := (s.locks[k].bind Lock.held) == some c
        let dropped (r : Rec) : Prop := ∃ l key, s.locks[k] = some l ∧ l.purpose = .fill ∧ l.active = true ∧
          l.obj = .profile key ∧ findProfile key s = some r
        ∃ u, exec .detach s = .next (answerFirst (done [word k.val, word orphans.length, word waiting.length,
            word (s.cbi.deferred.filter fun e => e.ctl = k).length]) (recheck u)) ∧
          u.cbi = { s.cbi with
            attached := s.cbi.attached.set k false
            deferred := s.cbi.deferred.filter fun e => e.ctl ≠ k
            ready := s.cbi.ready.filter fun p => p.1 ≠ k
            queue := s.cbi.queue.map fun r => if r.ctl = k then { r with announces := false } else r } ∧
          u.locks[k] = none ∧ u.sal.heldSeg = s.sal.heldSeg.set k 0 ∧ u.sal.heldPage = s.sal.heldPage.set k 0 ∧
          u.sal.waitQ = s.sal.waitQ.filter (fun e => e.chan ∉ waiting) ∧ u.sal.taps = s.sal.taps ∧
          u.sal.hist = s.sal.hist ∧
          u.fifos[k] = { s.fifos[k] with entries := [], overflow := false, line := false } ∧
          (∀ j, j ≠ k → u.fifos[j] =
            (orphans.foldl (fun v c => postTo j .channelOrphaned (some c) k.val v) s).fifos[j]) ∧
          (∀ c ∈ waiting, u.chans[c] = { s.chans[c] with
            state := .free, owner := none, slot := none, segs := [], pages := [], freeze := false, lock := false
            bound := none, learn := none, load := none, relation := .none, trainLink := none, bindLink := none }) ∧
          (∀ c ∈ orphans, u.chans[c] = { s.chans[c] with
            owner := none, trainLink := none, bindLink := none, lock := s.chans[c].lock && !held c
            bound := u.chans[c].bound }) ∧
          (∀ c : Chan, s.chans[c].owner ≠ some k → u.chans[c] = { s.chans[c] with
            lock := s.chans[c].lock && !held c, bound := u.chans[c].bound }) ∧
          (∀ c : Chan, c ∉ waiting →
            ((∃ r, dropped r ∧ s.pfs.recs[r].boundChan = some c) → u.chans[c].bound = none) ∧
            ((∀ r, dropped r → s.pfs.recs[r].boundChan ≠ some c) → u.chans[c].bound = s.chans[c].bound)) ∧
          (∀ r : Rec, (dropped r → u.pfs.recs[r] = emptyProfile) ∧
            (¬ dropped r → u.pfs.recs[r] = if ∃ c ∈ waiting, s.pfs.recs[r].boundChan = some c then
                { s.pfs.recs[r] with boundChan := none } else s.pfs.recs[r])) ∧
          (∀ r : Rec, r ∈ u.pfs.recency ↔ r ∈ s.pfs.recency ∧ ¬ dropped r) ∧
          ((∀ r, ¬ dropped r) → u.pfs.recency = s.pfs.recency) ∧
          (∀ j : Ctl, j ≠ k → u.locks[j] = s.locks[j].map fun l =>
            if ∃ c ∈ waiting, l.held = some c then { l with held := none } else l) ∧
          (∀ g : Seg, g ∈ u.sal.freeSegs ↔ g ∈ s.sal.freeSegs ∨ ∃ c ∈ waiting, g ∈ s.chans[c].segs) ∧
          (∀ p : Page, p ∈ u.sal.freePages ↔ p ∈ s.sal.freePages ∨ ∃ c ∈ waiting, p ∈ s.chans[c].pages) ∧
          (∀ c : Chan, (c ∈ waiting → u.hwi.inputs[c] = emptyInput ∧ u.hwi.outputs[c] = emptyHold) ∧
            (c ∉ waiting → u.hwi.inputs[c] = s.hwi.inputs[c] ∧ u.hwi.outputs[c] = s.hwi.outputs[c])) ∧
          { u.hwi with inputs := s.hwi.inputs, outputs := s.hwi.outputs } = s.hwi ∧
          { u with hwi := s.hwi, chans := s.chans, sal := s.sal, pfs := s.pfs, locks := s.locks, cbi := s.cbi,
                   fifos := s.fifos } = s)

/-- OPEN SERVICE opens the gate; CLOSE SERVICE closes it once every channel is FREE and is refused WRONG_STATE before that
(R176). PART RESET is decided DONE, and its effect waits for its response (R178). -/
def Obligations.ServiceGateAndResetRequests : Prop :=
  (∀ (rq : Request) (s : State), Admitted .openService rq s → rq.plain 0 = true →
    exec .openService s = .next (answerFirst (done [1]) { s with btl := { s.btl with gateOpen := true } })) ∧
  (∀ (rq : Request) (s : State), Admitted .closeService rq s → rq.plain 0 = true →
    (s.btl.gateOpen = true → (∃ c : Chan, s.chans[c].state ≠ .free) →
      exec .closeService s = .next (answerFirst (refused .wrongState) s)) ∧
    (s.btl.gateOpen = false ∨ (∀ c : Chan, s.chans[c].state = .free) →
      exec .closeService s = .next
        (answerFirst (done [0]) { s with btl := { s.btl with gateOpen := false } }))) ∧
  ∀ (rq : Request) (s : State), Admitted .partReset rq s → rq.plain 0 = true →
    exec .partReset s = .next (answerFirst (done []) { s with cbi := { s.cbi with resetPending := true } })

/-- The requests that only report: QUERY PART, READ DEFAULTS, QUERY STORE, QUERY CHANNEL and LIST PROFILES are answered
DONE with their words and change nothing else (R99, R120, R142, R164, R177, R190). The words of a wait entry in part 1 of
QUERY STORE are log entry 21's reading, the parts of FREE and PENDING channels in QUERY CHANNEL log entry 22's. The codes
of the values they report are those of Table 9-9 (R163). -/
def Obligations.QueriesReportAndChangeNothing : Prop :=
  ([BootStatus.loading, .valid, .noDevice, .badSignature, .badChecksum, .badField].map BootStatus.code = List.range 6 ∧
    [ChanState.free, .pending, .loading, .bound, .echoTrain, .eqTrain, .tracking, .fault, .releasing].map ChanState.code
      = List.range 9 ∧
    [Relation.none, .boundProfile, .copy, .learn].map Relation.code = List.range 4 ∧
    [ProfState.empty, .filling, .valid].map ProfState.code = List.range 3 ∧
    [Origin.boot, .stored, .learned].map Origin.code = List.range 3) ∧
  (∀ (rq : Request) (s : State), Reaches .queryPart rq s → rq.plain 0 = true →
    exec .queryPart s = .next (answerFirst (done
      ([0x0140, word s.btl.status.code, if s.btl.gateOpen then 1 else 0,
        word ((if s.hwi.line.inSync then 1 else 0) + if s.hwi.modem.inSync then 2 else 0),
        word (s.btl.timebase.toNat / 65536), word s.btl.timebase.toNat,
        word (((List.finRange 4).map fun k => if s.cbi.attached[k] then 2 ^ k.val else 0).sum + 16 * rq.ctl.val),
        word (s.cbi.queue.length + if s.cbi.grant.isSome then 1 else 0)]
        ++ (List.finRange 4).map fun k => word (s.cbi.deferred.filter fun e => e.ctl = k).length)) s)) ∧
  (∀ (rq : Request) (s : State), Admitted .readDefaults rq s → rq.plain 1 = true →
    let p := s.btl.part0
    let d := s.btl.part1
    (rq.num 0 = 0 → exec .readDefaults s = .next (answerFirst (done
      [(if p.law = .a then 1 else 0 : Word), (p.usable >>> 16).setWidth 16, p.usable.setWidth 16,
       word p.shareSeg[0], word p.sharePage[0], word p.shareSeg[1], word p.sharePage[1],
       word p.shareSeg[2], word p.sharePage[2], word p.shareSeg[3], word p.sharePage[3],
       word p.lockLimit, word p.waitLimit, word p.evLevel, word p.evHold]) s)) ∧
    (rq.num 0 = 1 → exec .readDefaults s = .next (answerFirst (done
      [word d.aEchoTrain, word d.aEchoTrack, word d.aEqTrain, word d.aEqTrack, word d.erleTarget, word d.qualTarget,
       word d.holdCount, word d.timeout, word d.gate, word (d.pfloor / 65536), word d.pfloor, word d.guard,
       word d.degradeMargin, word d.degradeCount, word d.quietLevel, word d.quietLimit, word d.mainTap, word d.lag,
       word d.near, word d.far, word d.bulk, if d.eq then 1 else 0]) s)) ∧
    (1 < rq.num 0 → exec .readDefaults s = .next (answerFirst (refused .badRequest) s))) ∧
  (∀ (rq : Request) (s : State), Admitted .queryStore rq s → rq.plain 1 = true →
    (rq.num 0 = 0 → exec .queryStore s = .next (answerFirst (done
      ([word s.sal.freeSegs.length, word s.sal.freePages.length,
        word ((s.chans.toList.filter fun x => x.owner = none).map fun x => x.segs.length).sum,
        word ((s.chans.toList.filter fun x => x.owner = none).map fun x => x.pages.length).sum]
        ++ (List.finRange 4).flatMap fun k => [word s.sal.heldSeg[k], word s.sal.heldPage[k],
          word s.btl.part0.shareSeg[k], word s.btl.part0.sharePage[k]])) s)) ∧
    (rq.num 0 = 1 → exec .queryStore s = .next (answerFirst (done
      ((word s.sal.waitQ.length :: (s.sal.waitQ.flatMap fun (e : WaitEntry) => [pack e.chan.val e.ctl.val,
        pack e.segs e.pages, word (e.limit - (s.btl.timebase - e.accepted).toNat)])
        ++ List.replicate 24 0).take 25)) s)) ∧
    (1 < rq.num 0 → exec .queryStore s = .next (answerFirst (refused .outOfRange) s))) ∧
  (∀ (rq : Request) (s : State), Admitted .queryChannel rq s → rq.plain 2 = true →
    (rq.num 0 < 32 → rq.num 1 ≤ 2 →
      let x := s.chans[rq.chan]
      let opt (v : Option Nat) : Word := match v with
        | none => 0xFFFF
        | some n => word n
      let par (f : Params → Nat) : Word := opt (x.params.map f)
      let key (k : Option Key) : List Word := match k with
        | none => [0, 0]
        | some k => [word (k.toNat / 65536), word k.toNat]
      let flag (b : Bool) (n : Nat) : Nat := if b then 2 ^ n else 0
      let estimators : List Nat := [x.pr, x.py, x.pe, x.pd, x.peps]
      let unit (us : List (Fin 256)) (i : Nat) : Nat := (us[i]?.map Fin.val).getD 0
      let units (n : Nat) (us : List (Fin 256)) : List Word :=
        (List.range n).map fun i => pack (unit us (2 * i)) (unit us (2 * i + 1))
      exec .queryChannel s = .next (answerFirst (done
        (if rq.num 1 = 0 then
          (if x.state = .free then
            [0, 0xFFFF, 0xFFFF] ++ List.replicate 14 0xFFFF ++ [0, 0, 0xFFFF] ++ List.replicate 7 0
           else
            [word x.state.code, opt (x.owner.map Fin.val), opt (x.slot.map Fin.val), par Params.near, par Params.far,
             par Params.bulk, par fun q => flag q.eq 0, par Params.aEchoTrain, par Params.aEchoTrack,
             par Params.aEqTrain, par Params.aEqTrack, par Params.erleTarget, par Params.qualTarget,
             par Params.holdCount, par Params.timeout, par Params.mainTap, par Params.lag,
             word (flag x.freeze 0 + flag x.lock 1),
             word (flag x.converged 0 + flag x.degraded 1 + flag x.quiet 2 + flag x.firstCorr 3), opt x.convErle]
            ++ key x.bound ++ key x.learn ++ key x.load
            ++ [word (flag x.trainLink.isSome 0 + flag x.bindLink.isSome 1)])
         else if x.state = .free ∨ x.state = .pending then List.replicate 25 0
         else if rq.num 1 = 1 then
          (estimators.flatMap fun p => [word (p / 65536), word p]) ++ estimators.map (fun p => word (logValue p))
            ++ [word (erle x), word (quality x), word x.trainFrames, word x.streak, word x.guarded,
                word x.degradeStreak, word x.quietStreak, word x.eccCount, word x.parityCount, word x.w]
         else pack x.segs.length x.pages.length :: (units 13 x.segs ++ units 11 x.pages))) s)) ∧
    (31 < rq.num 0 ∨ 2 < rq.num 1 → exec .queryChannel s = .next (answerFirst (refused .outOfRange) s))) ∧
  ∀ (rq : Request) (s : State), Admitted .listProfiles rq s → rq.plain 1 = true →
    (rq.num 0 ≤ 63 → exec .listProfiles s = .next (answerFirst (done
      ([word s.pfs.recency.length, word (rq.num 0)] ++ ((s.pfs.recency.drop (rq.num 0)).take 8).flatMap fun r =>
        keyWords s.pfs.recs[r].key ++ [word ((if s.pfs.recs[r].desc.pinned then 1 else 0)
          + (if s.pfs.recs[r].boundChan.isSome then 2 else 0) + 4 * s.pfs.recs[r].origin.code)])) s)) ∧
    (63 < rq.num 0 → exec .listProfiles s = .next (answerFirst (refused .outOfRange) s))

/-- SET DEFAULTS with the gate closed installs a part whose words pass the range check, clamped and rounded, and answers
the words installed (R189, R190): the range check, every field of both parts and the order of their words, as Table 11-1
has them. That a range of the table which R189 does not repeat is checked too is log entry 32's reading. A lowered lock
limit breaks the locks it makes due in the same step, each as O37 breaks one (the model's reading of R152, log entry 31). -/
def Obligations.SetDefaultsInstallsAPart : Prop :=
  (∀ (rq : Request) (s : State), Admitted .setDefaults rq s →
    let ws := rq.words.drop 1
    (1 < rq.num 0 → exec .setDefaults s = .next (answerFirst (refused .badRequest) s)) ∧
    (rq.num 0 = 0 ∧ rq.plain 16 = true ∨ rq.num 0 = 1 ∧ rq.plain 23 = true → s.btl.gateOpen = true →
      exec .setDefaults s = .next (answerFirst (refused .gateOpen) s)) ∧
    (rq.num 0 = 1 → rq.plain 23 = true → s.btl.gateOpen = false →
      (oneInRange ws = false → exec .setDefaults s = .next (answerFirst (refused .outOfRange) s)) ∧
      (oneInRange ws = true → exec .setDefaults s = .next (answerFirst (done (oneWords (oneOf ws)))
        { s with btl := { s.btl with part1 := oneOf ws } }))) ∧
    (rq.num 0 = 0 → rq.plain 16 = true → s.btl.gateOpen = false →
      let t := { s with btl := { s.btl with part0 := zeroOf ws } }
      (zeroInRange ws = false → exec .setDefaults s = .next (answerFirst (refused .outOfRange) s)) ∧
      (zeroInRange ws = true →
        (∀ (k : Ctl) l, s.locks[k] = some l → l.active = true → timeReached s l.last (zeroOf ws).lockLimit = false) →
        exec .setDefaults s = .next (answerFirst (done (zeroWords (zeroOf ws))) t)) ∧
      let due (k : Ctl) (l : Lock) : Prop :=
        s.locks[k] = some l ∧ l.active = true ∧ timeReached s l.last (zeroOf ws).lockLimit = true
      let lost (r : Rec) : Prop := ∃ k l key, due k l ∧ l.purpose = .fill ∧ l.obj = .profile key ∧
        s.pfs.recs[r].state ≠ .empty ∧ s.pfs.recs[r].key = some key
      (zeroInRange ws = true → ∃ u, exec .setDefaults s = .next (answerFirst (done (zeroWords (zeroOf ws))) u) ∧
        u.btl = t.btl ∧
        (∀ k : Ctl, u.locks[k] = s.locks[k].map fun l =>
          if l.active = true ∧ timeReached s l.last (zeroOf ws).lockLimit = true then
            { l with active := false, held := none } else l) ∧
        (∀ (k : Ctl) (l : Lock), due k l → Placed k
          { kind := .lockBroken, chan := l.held, posted := s.btl.timebase
            detail := match l.purpose with
              | .channel => 1
              | .profileRead => 2
              | .fill => 3 } s u) ∧
        (∀ k : Ctl, (∀ l, ¬ due k l) → u.fifos[k] = s.fifos[k]) ∧
        (ProfilesOk s → LocksOk s → BindingsOk s →
          (∀ c : Chan, u.chans[c] = { s.chans[c] with lock := u.chans[c].lock } ∧
            (u.chans[c].lock = true ↔ s.chans[c].lock = true ∧ ¬ ∃ k l, due k l ∧ l.held = some c)) ∧
          (∀ r : Rec, (lost r → u.pfs.recs[r] = emptyProfile) ∧ (¬ lost r → u.pfs.recs[r] = s.pfs.recs[r])) ∧
          u.pfs.recency = s.pfs.recency) ∧
        { u with btl := s.btl, locks := s.locks, fifos := s.fifos, chans := s.chans, pfs := s.pfs } = s))) ∧
  (∀ ws : List Word,
    let n (i : Nat) : Nat := (ws.getD i 0).toNat
    (zeroInRange ws = true ↔ n 0 ≤ 1 ∧
      (n 3 ≤ 256 ∧ n 4 ≤ 256 ∧ n 5 ≤ 256 ∧ n 6 ≤ 256 ∧ n 7 ≤ 256 ∧ n 8 ≤ 256 ∧ n 9 ≤ 256 ∧ n 10 ≤ 256) ∧
      n 3 + n 5 + n 7 + n 9 ≤ 256 ∧ n 4 + n 6 + n 8 + n 10 ≤ 256 ∧ 1 ≤ n 11 ∧ 1 ≤ n 12 ∧ n 14 ≤ 255) ∧
    (oneInRange ws = true ↔ (n 0 ≤ 31 ∧ n 1 ≤ 31 ∧ n 2 ≤ 31 ∧ n 3 ≤ 31) ∧ (1 ≤ n 6 ∧ n 6 ≤ 4095) ∧ 1 ≤ n 7 ∧
      n 8 ≤ 240 ∧ (1 ≤ 65536 * n 9 + n 10 ∧ 65536 * n 9 + n 10 ≤ 1048576) ∧ n 11 ≤ 240 ∧ n 12 ≤ 240 ∧ 1 ≤ n 13 ∧
      n 14 ≤ 240 ∧ 1 ≤ n 15 ∧ n 16 ≤ 31 ∧ (1 ≤ n 17 ∧ n 17 ≤ 8) ∧ (1 ≤ n 18 ∧ n 18 ≤ 8) ∧ n 19 ≤ 16 ∧ n 20 ≤ 5120 ∧
      n 21 ≤ 1 ∧ (n 19 = 0 ∨ 32 * n 18 ≤ n 20)) ∧
    zeroOf ws =
      { law := if n 0 = 0 then .mu else .a, usable := ws.getD 1 0 ++ ws.getD 2 0
        shareSeg := #v[n 3, n 5, n 7, n 9], sharePage := #v[n 4, n 6, n 8, n 10]
        lockLimit := min (n 11) 1000, waitLimit := n 12
        evLevel := if n 13 ≤ 1 then 1 else if n 13 ≤ 4 then 4 else if n 13 ≤ 8 then 8 else 16
        evHold := max 1 (n 14) } ∧
    oneOf ws =
      { aEchoTrain := n 0, aEchoTrack := n 1, aEqTrain := n 2, aEqTrack := n 3, erleTarget := min (n 4) 240
        qualTarget := min (n 5) 240, holdCount := n 6, timeout := n 7, gate := n 8, pfloor := 65536 * n 9 + n 10
        guard := n 11, degradeMargin := n 12, degradeCount := n 13, quietLevel := n 14, quietLimit := n 15
        mainTap := n 16, lag := n 17, near := n 18, far := n 19, bulk := n 20, eq := decide (n 21 = 1) }) ∧
  (∀ p : PartZero, zeroWords p =
    [(if p.law = .a then 1 else 0 : Word), (p.usable >>> 16).setWidth 16, p.usable.setWidth 16,
     word p.shareSeg[0], word p.sharePage[0], word p.shareSeg[1], word p.sharePage[1],
     word p.shareSeg[2], word p.sharePage[2], word p.shareSeg[3], word p.sharePage[3],
     word p.lockLimit, word p.waitLimit, word p.evLevel, word p.evHold]) ∧
  ∀ d : PartOne, oneWords d =
    [word d.aEchoTrain, word d.aEchoTrack, word d.aEqTrain, word d.aEqTrack, word d.erleTarget, word d.qualTarget,
     word d.holdCount, word d.timeout, word d.gate, word (d.pfloor / 65536), word d.pfloor, word d.guard,
     word d.degradeMargin, word d.degradeCount, word d.quietLevel, word d.quietLimit, word d.mainTap, word d.lag,
     word d.near, word d.far, word d.bulk, if d.eq then 1 else 0]

/-! ### Calls -/

/-- BIND: its parameters come from the given set, then the found profile, then the site defaults; with room and an empty
wait queue the channel is granted its units at once, DONE in BOUND or, with a found profile, DEFERRED in LOADING, by the
grant of O32 on the state that records it; without room it is refused, put off or made to wait (R80, R81, R83, R84, R112,
R126). Room is measured against the reserves of O31. The options, the key and the given set of its record (R161), and the
profile it finds, a VALID one (R79). -/
def Obligations.BindGrantsLoadsOrWaits : Prop :=
  (∀ (rq : Request) (d : Option Descriptor) (p0 : PartZero) (p1 : PartOne),
    let q := resolve rq d p0 p1
    let pick (i : Nat) (f : Descriptor → Option Nat) (dflt : Nat) : Nat :=
      match rq.givenAt i, d.bind f with
      | some v, _ => v
      | none, some v => v
      | none, none => dflt
    q.near = pick 0 (fun e => some e.near) p1.near ∧ q.far = pick 1 (fun e => some e.farHint) p1.far ∧
    q.bulk = pick 2 (fun e => some e.bulkHint) p1.bulk ∧
    q.eq = decide (pick 3 (fun _ => none) (if p1.eq then 1 else 0) = 1) ∧
    q.aEchoTrain = pick 4 Descriptor.aEchoTrain p1.aEchoTrain ∧
    q.aEchoTrack = pick 5 Descriptor.aEchoTrack p1.aEchoTrack ∧ q.aEqTrain = pick 6 Descriptor.aEqTrain p1.aEqTrain ∧
    q.aEqTrack = pick 7 Descriptor.aEqTrack p1.aEqTrack ∧
    q.erleTarget = pick 8 (fun _ => none) p1.erleTarget ∧ q.qualTarget = pick 9 (fun _ => none) p1.qualTarget ∧
    q.holdCount = pick 10 (fun _ => none) p1.holdCount ∧ q.timeout = pick 11 (fun _ => none) p1.timeout ∧
    q.mainTap = pick 12 (fun e => some e.mainTap) p1.mainTap ∧ q.lag = pick 13 (fun e => some e.lag) p1.lag ∧
    q.waitLimit = pick 14 (fun _ => none) p0.waitLimit) ∧
  (∀ (rq : Request) (s : State),
    let flag (i : Nat) : Bool := (rq.word 2).getLsbD i
    let given (i : Nat) : Bool := (rq.word 5).getLsbD i
    rq.bindKey = (if flag 0 then some (rq.word 3 ++ rq.word 4) else none) ∧ rq.learns = flag 1 ∧
    rq.mayWait = flag 2 ∧
    (rq.bindForm = true → rq.words.length = rq.length → ∀ i, i < 15 → rq.givenAt i =
      if given i then some (rq.num (6 + ((List.range i).filter given).length)) else none) ∧
    (∀ r : Rec, foundProfile rq s = some r ↔
      ∃ key, rq.bindKey = some key ∧ findProfile key s = some r ∧ s.pfs.recs[r].state = .valid) ∧
    bindParams rq s =
      resolve rq ((foundProfile rq s).map fun r => s.pfs.recs[r].desc) s.btl.part0 s.btl.part1) ∧
  ∀ (rq : Request) (s : State), Bindable rq s →
    let c := rq.chan
    let q := bindParams rq s
    let n := q.near + q.far + if q.eq then 1 else 0
    let p := ((if q.far = 0 then 32 * q.near - 1 else q.bulk + 32 * q.far - 1) + 256) / 256
    let room := reserveSeg rq.ctl s + n ≤ s.sal.freeSegs.length ∧ reservePage rq.ctl s + p ≤ s.sal.freePages.length
    let rel := if rq.learns then Relation.learn else Relation.none
    let plain : Context := { s.chans[c] with
      owner := some rq.ctl, slot := some (Fin.ofNat 32 (rq.num 1)), params := some q, relation := rel, bound := none
      learn := if rq.learns then rq.bindKey else none, load := none, bindLink := none }
    let link : Deferred := { ctl := rq.ctl, tag := rq.tag, ready := false, announced := false, outcome := none }
    (foundProfile rq s = none → s.sal.waitQ = [] → room → exec .bind s = .next (answerFirst
      (done [word c.val, 1, 3, word rel.code, word q.near, word q.far, word q.bulk, if q.eq then 1 else 0,
        word q.mainTap, word q.lag])
      (grant c n p { s with chans := s.chans.set c plain }))) ∧
    (∀ r key, rq.bindKey = some key → foundProfile rq s = some r → s.sal.waitQ = [] → room →
      let d := s.pfs.recs[r].desc
      let first := s.pfs.recs[r].boundChan.isNone
      ∃ t, exec .bind s = .next (answerFirst deferred t) ∧
        t = grant c n p { s with
          chans := s.chans.set c { plain with
            bindLink := some rq.tag, learn := none, load := some key
            relation := if first then .boundProfile else .copy, bound := if first then some key else none }
          pfs := if first then
              { s.pfs with recs := s.pfs.recs.set r { s.pfs.recs[r] with boundChan := some c } } else s.pfs
          cbi := { s.cbi with deferred := s.cbi.deferred ++ [link] } } ∧
        t.chans[c].state = .loading ∧
        t.chans[c].owner = some rq.ctl ∧ t.chans[c].slot = plain.slot ∧ t.chans[c].params = some q ∧
        t.chans[c].segs = s.sal.freeSegs.take n ∧ t.chans[c].pages = s.sal.freePages.take p ∧
        t.chans[c].load = none ∧ t.chans[c].bindLink = some rq.tag ∧ t.cbi.deferred = s.cbi.deferred ++ [link] ∧
        t.jobs = s.jobs ++ [{ kind := .load, chan := c, key, count := min d.near q.near
          + (if d.eq && q.eq then 1 else 0), moved := 0, eqLast := d.eq && q.eq, queuedAt := s.hwi.line.frame }] ∧
        t.pfs.recency = r :: s.pfs.recency.filter (· != r) ∧
        t.pfs.recs = s.pfs.recs.set r { s.pfs.recs[r] with
          useCount := min 65535 (s.pfs.recs[r].useCount + 1)
          boundChan := if s.pfs.recs[r].boundChan = none then some c else s.pfs.recs[r].boundChan } ∧
        (s.pfs.recs[r].boundChan = none → t.chans[c].relation = .boundProfile ∧ t.chans[c].bound = some key) ∧
        (s.pfs.recs[r].boundChan ≠ none → t.chans[c].relation = .copy ∧ t.chans[c].bound = none) ∧
        (∀ c', c' ≠ c → t.chans[c'] = s.chans[c']) ∧ t.sal.waitQ = [] ∧
        { t with chans := s.chans, sal := s.sal, pfs := s.pfs, jobs := s.jobs, cbi := s.cbi } = s) ∧
    (s.sal.waitQ ≠ [] ∨ ¬ room →
      (rq.mayWait = false → exec .bind s = .next (answerFirst (refused .noRoom) s)) ∧
      (rq.mayWait = true → 8 ≤ s.sal.waitQ.length → exec .bind s = .next (answerFirst (retry .waitQueueFull) s)) ∧
      (rq.mayWait = true → s.sal.waitQ.length < 8 → foundProfile rq s = none →
        exec .bind s = .next (answerFirst deferred { s with
          chans := s.chans.set c { plain with state := .pending, bindLink := some rq.tag }
          sal := { s.sal with waitQ := s.sal.waitQ ++ [{ chan := c, ctl := rq.ctl, segs := n, pages := p
                                                         accepted := s.btl.timebase, limit := q.waitLimit }] }
          cbi := { s.cbi with deferred := s.cbi.deferred ++ [link] } })) ∧
      (rq.mayWait = true → s.sal.waitQ.length < 8 → ∀ r key, rq.bindKey = some key → foundProfile rq s = some r →
        let first := s.pfs.recs[r].boundChan.isNone
        exec .bind s = .next (answerFirst deferred { s with
          chans := s.chans.set c { plain with
            state := .pending, bindLink := some rq.tag, learn := none, load := some key
            relation := if first then .boundProfile else .copy, bound := if first then some key else none }
          sal := { s.sal with waitQ := s.sal.waitQ ++ [{ chan := c, ctl := rq.ctl, segs := n, pages := p
                                                         accepted := s.btl.timebase, limit := q.waitLimit }] }
          pfs := if first then
              { s.pfs with recs := s.pfs.recs.set r { s.pfs.recs[r] with boundChan := some c } } else s.pfs
          cbi := { s.cbi with deferred := s.cbi.deferred ++ [link] } })))

/-- RELEASE of a channel in PENDING to FAULT: what it has in progress ends ABORTED; a converged call with a profile key,
not discarded, starts a save and answers DEFERRED, or completes NOT_SAVED with reason BUSY or STORE_FULL when none can
start, as Table 7-3 decides; any other enters FREE at once with its cause and its units. The requester's own lock on the
call ends first (R85–R89, R127, R128, R154; the record a learn key takes is that of O57). That the words of an ABORTED BIND
(R85) are those of the channel before its entry to FREE is log entry 17's reading, and that a save leaves the learn key
beside the bound profile log entry 23's. -/
def Obligations.ReleaseFreesOrSaves : Prop :=
  (∀ (c : Chan) (k : Ctl) (s : State), s.locks[k] = none → endOwnLock c k s = s) ∧
  (∀ (c : Chan) (k : Ctl) (l : Lock) (s : State), s.locks[k] = some l →
    let mine := l.obj = .chan c ∨ (∃ key, s.chans[c].bound = some key ∧ l.obj = .profile key) ∨ l.held = some c
    (¬ mine → endOwnLock c k s = s) ∧
    (mine → (endOwnLock c k s).locks = s.locks.set k none ∧
      (∀ d : Chan, (endOwnLock c k s).chans[d] =
        if l.held = some d then { s.chans[d] with lock := false } else s.chans[d]) ∧
      { endOwnLock c k s with locks := s.locks, chans := s.chans } = s)) ∧
  ∀ (rq : Request) (s : State), Owned .release rq s → rq.plain 2 = true → rq.num 1 < 2 →
    let c := rq.chan
    let v := endOwnLock c rq.ctl s
    let x := v.chans[c]
    let discard := (rq.word 1).getLsbD 0
    let running := x.state = .bound ∨ x.state = .echoTrain ∨ x.state = .eqTrain ∨ x.state = .tracking
    let saving := running ∧ x.converged = true ∧ (x.bound.isSome = true ∨ x.learn.isSome = true) ∧ discard = false
    let answer (cause : Nat) : Answer := done [word cause, word x.segs.length, word x.pages.length]
    (s.chans[c].state = .releasing → exec .release s = .next (answerFirst (refused .wrongState) s)) ∧
    (x.state = .pending → exec .release s = .next (answerFirst (answer 0) (recheck (enterFree c
      (completeBind c .aborted { v with sal := { v.sal with
        waitQ := v.sal.waitQ.filter fun e => e.chan != c } }))))) ∧
    (x.state = .loading → exec .release s = .next (answerFirst (answer 0) (recheck (enterFree c
      (completeBind c .aborted { v with jobs := v.jobs.filter fun j => j.chan != c }))))) ∧
    (running ∨ x.state = .fault → ¬ saving → exec .release s = .next (answerFirst
      (answer (if discard then 1 else if x.state = .fault then 2 else if x.converged then 4 else 3))
      (recheck (enterFree c (completeTraining c .aborted v))))) ∧
    (saving → ∀ key, (x.bound <|> x.learn) = some key →
      let w := emptySlots c ((completeTraining c .aborted (makeDeferred rq v)).modChan c fun y =>
        { y with slot := none, bindLink := some rq.tag })
      let ready (r : Rec) : Prop := v.pfs.recs[r].state = .valid ∧ v.pfs.recs[r].boundChan = none ∧
        ∀ (j : Ctl) (l : Lock), v.locks[j] = some l → l.active = true → l.obj ≠ .profile key
      let proceeds (r : Rec) : Prop :=
        if x.bound = none then findProfile key v = some r ∧ ready r ∨ findProfile key v = none ∧ recordFor v = some r
        else findProfile key v = some r ∧ NoOtherLock rq.ctl (.profile key) v
      let busy := ∃ r, findProfile key v = some r ∧
        if x.bound = none then ¬ ready r else ¬ NoOtherLock rq.ctl (.profile key) v
      let storeFull := x.bound = none ∧ findProfile key v = none ∧ recordFor v = none
      (∀ r, proceeds r → ∃ t, exec .release s = .next (answerFirst deferred t) ∧
        t.chans[c] = { w.chans[c] with state := .releasing, bound := some key } ∧
        t.jobs = s.jobs ++ [{ kind := .save, chan := c, key, count := x.par.near + (if x.par.eq then 1 else 0)
                              moved := 0, eqLast := x.par.eq, queuedAt := s.hwi.line.frame }] ∧
        (let p := s.pfs.recs[r]
         let kept : Bool := decide (p.state = .valid ∧ p.key = some key)
         let member (e : Option Nat) : Option Nat := if kept then e else none
         t.pfs.recs[r] = { (if kept then p else emptyProfile) with
           key := some key, state := .filling, origin := .learned, boundChan := some c
           useCount := if kept then p.useCount else 0
           desc :=
             { pinned := kept && p.desc.pinned, near := x.par.near, farHint := x.par.far, bulkHint := x.par.bulk
               aEchoTrain := member p.desc.aEchoTrain, aEchoTrack := member p.desc.aEchoTrack
               aEqTrain := member p.desc.aEqTrain, aEqTrack := member p.desc.aEqTrack
               mainTap := x.par.mainTap, lag := x.par.lag, eq := x.par.eq, best := x.convErle.getD 0 } }) ∧
        (∀ r', r' ≠ r → t.pfs.recs[r'] = s.pfs.recs[r']) ∧
        t.pfs.recency = s.pfs.recency.filter (· != r) ∧
        { t with chans := w.chans, jobs := w.jobs, pfs := w.pfs } = w) ∧
      (busy → exec .release s = .next (answerFirst deferred
        (recheck (enterFree c (completeRelease c .notSaved 3 (some key) w))))) ∧
      (storeFull → exec .release s = .next (answerFirst deferred
        (recheck (enterFree c (completeRelease c .notSaved 4 (some key) w))))))

/-- The requests that move a call between its states, and its hold set: TRAIN ECHO and TRAIN EQUALIZER begin a training
and answer DEFERRED, completing one in progress SUPERSEDED; TRACK and RESTART complete it ABORTED; FREEZE and THAW set and
clear one hold; each is refused WRONG_STATE in the states where Table 5-5 says so (R76, R77, R90–R93). -/
def Obligations.CallStateRequestsMoveTheChannel : Prop :=
  (∀ x : Context, (inTraining x.state = true ↔ x.state = .echoTrain ∨ x.state = .eqTrain) ∧
    trainingWords x = [if x.state = .echoTrain then 0 else 1, word (if x.state = .echoTrain then erle x else quality x),
      word (if x.state = .echoTrain then quality x else erle x), word x.trainFrames, word x.streak, word x.guarded]) ∧
  (∀ (c : Chan) (o : Result) (s : State),
    (inTraining s.chans[c].state = false → completeTraining c o s = s) ∧
    (inTraining s.chans[c].state = true →
      (∀ k t, s.chans[c].owner = some k → s.chans[c].trainLink = some t → completeTraining c o s =
        (postOutcome k t o (trainingWords s.chans[c]) s).setChan c { s.chans[c] with trainLink := none }) ∧
      (s.chans[c].owner = none ∨ s.chans[c].trainLink = none → completeTraining c o s =
        s.setChan c { s.chans[c] with trainLink := none }))) ∧
  (∀ (rq : Request) (s : State), rq.plain 1 = true →
    let c := rq.chan
    let x := s.chans[c]
    let begun (st : ChanState) : State :=
      let v := completeTraining c .superseded { s with cbi := { s.cbi with
        deferred := s.cbi.deferred ++
          [{ ctl := rq.ctl, tag := rq.tag, ready := false, announced := false, outcome := none }] } }
      { v with chans := v.chans.set c { v.chans[c] with
          state := st, trainFrames := 0, streak := 0, guarded := 0, degradeStreak := 0, degraded := false
          trainLink := some rq.tag } }
    let running := x.state = .bound ∨ x.state = .echoTrain ∨ x.state = .eqTrain ∨ x.state = .tracking
    (Owned .trainEcho rq s →
      (running → exec .trainEcho s = .next (answerFirst deferred (begun .echoTrain))) ∧
      (¬ running → exec .trainEcho s = .next (answerFirst (refused .wrongState) s))) ∧
    (Owned .trainEqualizer rq s →
      (x.state = .bound ∨ x.state = .tracking → x.par.eq = true →
        exec .trainEqualizer s = .next (answerFirst deferred (begun .eqTrain))) ∧
      (x.state = .bound ∨ x.state = .tracking → x.par.eq = false →
        exec .trainEqualizer s = .next (answerFirst (refused .noEqualizer) s)) ∧
      (x.state ≠ .bound → x.state ≠ .tracking →
        exec .trainEqualizer s = .next (answerFirst (refused .wrongState) s))) ∧
    (Owned .track rq s →
      (x.state = .tracking → exec .track s = .next (answerFirst (done []) s)) ∧
      (running → x.state ≠ .tracking → exec .track s = .next (answerFirst (done [])
        ((completeTraining c .aborted s).setChan c
          { (completeTraining c .aborted s).chans[c] with state := .tracking }))) ∧
      (¬ running → exec .track s = .next (answerFirst (refused .wrongState) s))) ∧
    (Owned .freeze rq s → running ∨ x.state = .fault ∨ x.state = .loading →
      exec .freeze s = .next (answerFirst (done [if x.lock then 3 else 1])
        (s.setChan c { x with freeze := true }))) ∧
    (Owned .thaw rq s → running ∨ x.state = .fault ∨ x.state = .loading →
      exec .thaw s = .next (answerFirst (done [if x.lock then 2 else 0]) (s.setChan c { x with freeze := false }))) ∧
    (Owned .freeze rq s → x.state = .pending ∨ x.state = .releasing →
      exec .freeze s = .next (answerFirst (refused .wrongState) s)) ∧
    (Owned .thaw rq s → x.state = .pending ∨ x.state = .releasing →
      exec .thaw s = .next (answerFirst (refused .wrongState) s)) ∧
    (Owned .restart rq s → x.state = .pending ∨ x.state = .loading ∨ x.state = .releasing →
      exec .restart s = .next (answerFirst (refused .wrongState) s)) ∧
    (Owned .restart rq s → running ∨ x.state = .fault →
      let v := completeTraining c .aborted s
      exec .restart s = .next (answerFirst (done []) { v with
        sal := zeroPages x.pages (unitInit x (zeroSegments x.segs s.sal))
        chans := v.chans.set c { x with
          state := .bound, w := 0, resid := List.replicate 40 0, lagLine := List.replicate 8 0
          pr := 0, py := 0, pe := 0, pd := 0, peps := 0
          trainFrames := 0, streak := 0, guarded := 0, degradeStreak := 0, quietStreak := 0
          eccCount := 0, parityCount := 0, convErle := none
          converged := false, degraded := false, quiet := false, freeze := false, trainLink := none } }))) ∧
  ∀ (x : Context) (m : Sal), MemoryOk m →
    let m' := zeroPages x.pages (unitInit x (zeroSegments x.segs m))
    (∀ a, inSegments x.segs a → (∀ g, x.eqSeg = some g → a < 32 * g.val ∨ 32 * g.val + 32 ≤ a) →
      cellRead tapBlank m'.taps a = eccEncode 0) ∧
    (∀ g, x.eqSeg = some g → ∀ i, i < 32 →
      cellRead tapBlank m'.taps (32 * g.val + i) = eccEncode (if i = x.par.mainTap then 16384 else 0)) ∧
    (∀ a, ¬ inSegments x.segs a → cellRead tapBlank m'.taps a = cellRead tapBlank m.taps a) ∧
    (∀ a, inPages x.pages a → cellRead histBlank m'.hist a = parityEncode 0) ∧
    (∀ a, ¬ inPages x.pages a → cellRead histBlank m'.hist a = cellRead histBlank m.hist a)

/-- SET FAR WINDOW resizes the far part of both lists: the segments and pages kept stay in order, the lowest free units
(the first of the free sets, which ascend: O9) are added, what is over is returned, every far segment is zeroed, and the
ring starts again; without room it is refused (R26, R94, R118). ADOPT gives an orphaned channel its new owner, who is
credited with its units (R98, R119). -/
def Obligations.SetFarWindowAndAdopt : Prop :=
  (∀ (rq : Request) (s : State), Owned .setFarWindow rq s → rq.plain 3 = true → rq.num 1 ≤ 16 → rq.num 2 ≤ 5120 →
    let c := rq.chan
    let x := s.chans[c]
    let q := x.par
    let far := rq.num 1
    let bulk := rq.num 2
    let p := ((if far = 0 then 32 * q.near - 1 else bulk + 32 * far - 1) + 256) / 256
    let moreSegs := far - q.far
    let morePages := p - x.pages.length
    let farPart := (x.segs.drop q.near).take q.far
    let room := moreSegs = 0 ∧ morePages = 0 ∨
      (reserveSeg rq.ctl s + moreSegs ≤ s.sal.freeSegs.length ∧
        reservePage rq.ctl s + morePages ≤ s.sal.freePages.length)
    let running := x.state = .bound ∨ x.state = .echoTrain ∨ x.state = .eqTrain ∨ x.state = .tracking
    let fits := far = 0 ∨ (32 * q.near ≤ bulk ∧ bulk ≤ 5120)
    (¬ running → exec .setFarWindow s = .next (answerFirst (refused .wrongState) s)) ∧
    (running → ¬ fits → exec .setFarWindow s = .next (answerFirst (refused .outOfRange) s)) ∧
    (running → fits → ¬ room → exec .setFarWindow s = .next (answerFirst (refused .noRoom) s)) ∧
    (running → fits → room → ∃ u,
      exec .setFarWindow s = .next (answerFirst (done [word far, word bulk, word p, word (256 * p)])
        (if farPart.drop far = [] ∧ x.pages.drop p = [] then u else recheck u)) ∧
      u.chans = s.chans.set c { x with
        segs := x.segs.take q.near ++ farPart.take far ++ s.sal.freeSegs.take moreSegs ++ x.segs.drop (q.near + q.far)
        pages := x.pages.take p ++ s.sal.freePages.take morePages, w := 0, params := some { q with far, bulk } } ∧
      (∀ g : Seg, g ∈ u.sal.freeSegs ↔ g ∈ s.sal.freeSegs.drop moreSegs ∨ g ∈ farPart.drop far) ∧
      (∀ g : Page, g ∈ u.sal.freePages ↔ g ∈ s.sal.freePages.drop morePages ∨ g ∈ x.pages.drop p) ∧
      u.sal.heldSeg = s.sal.heldSeg.set rq.ctl
        (s.sal.heldSeg[rq.ctl] + moreSegs - (farPart.drop far).length) ∧
      u.sal.heldPage = s.sal.heldPage.set rq.ctl
        (s.sal.heldPage[rq.ctl] + morePages - (x.pages.drop p).length) ∧
      u.sal.waitQ = s.sal.waitQ ∧
      (MemoryOk s.sal →
        (∀ a, inSegments (farPart.take far ++ s.sal.freeSegs.take moreSegs) a → tapAt u a = eccEncode 0) ∧
        (∀ a, ¬ inSegments (farPart.take far ++ s.sal.freeSegs.take moreSegs) a → tapAt u a = tapAt s a) ∧
        (∀ a, inPages (x.pages.take p ++ s.sal.freePages.take morePages) a → sampleAt u a = parityEncode 0) ∧
        (∀ a, ¬ inPages (x.pages.take p ++ s.sal.freePages.take morePages) a → sampleAt u a = sampleAt s a)) ∧
      { u with chans := s.chans, sal := s.sal } = s)) ∧
  ∀ (rq : Request) (s : State), Admitted .adopt rq s → rq.plain 1 = true → s.btl.gateOpen = true → rq.num 0 < 32 →
    let c := rq.chan
    let x := s.chans[c]
    let answer : Answer := done [word x.state.code, word ((if x.freeze then 1 else 0) + if x.lock then 2 else 0),
      word x.segs.length, word x.pages.length]
    (x.state = .free → exec .adopt s = .next (answerFirst (refused .wrongState) s)) ∧
    (x.state ≠ .free → ∀ k, x.owner = some k → k ≠ rq.ctl →
      exec .adopt s = .next (answerFirst (refused .notOwner) s)) ∧
    (x.state ≠ .free → x.owner = some rq.ctl → exec .adopt s = .next (answerFirst answer s)) ∧
    (x.state ≠ .free → x.state ≠ .pending → x.owner = none → exec .adopt s = .next (answerFirst answer (recheck
      { s with
        chans := s.chans.set c { x with owner := some rq.ctl }
        sal := { s.sal with
          heldSeg := s.sal.heldSeg.set rq.ctl (s.sal.heldSeg[rq.ctl] + x.segs.length)
          heldPage := s.sal.heldPage.set rq.ctl (s.sal.heldPage[rq.ctl] + x.pages.length) } })))

/-! ### Locked sequences, profiles, taps and events -/

/-- The lock step and the markers' effects: what a BEGIN, a CONTINUE and an END find and leave (R148–R150). -/
def Obligations.LockMarkersBeginContinueAndEnd : Prop :=
  ∀ (rq : Request) (obj : LockObj) (purpose : Purpose) (held : Option Chan) (check : Option Answer)
    (mismatch : Lock → Bool) (s : State),
    (rq.marker = .none → lockStep rq obj check mismatch s = (s, none) ∧ markerEffect rq obj purpose held s = s) ∧
    (rq.marker = .begin →
      (s.locks[rq.ctl] = none → lockStep rq obj check mismatch s = (s, check)) ∧
      (∀ l, s.locks[rq.ctl] = some l →
        (l.active = true → lockStep rq obj check mismatch s = (s, some (refused .lockHeld))) ∧
        (l.active = false →
          lockStep rq obj check mismatch s = ({ s with locks := s.locks.set rq.ctl none }, check))) ∧
      markerEffect rq obj purpose held s = { s with
        locks := s.locks.set rq.ctl (some { obj, purpose, active := true, last := s.btl.timebase, held })
        chans := match held with
          | none => s.chans
          | some c => s.chans.set c { s.chans[c] with lock := true } }) ∧
    (rq.marker = .continue ∨ rq.marker = .ending →
      (s.locks[rq.ctl] = none → lockStep rq obj check mismatch s = (s, some (refused .notLocked))) ∧
      ∀ l, s.locks[rq.ctl] = some l →
        (l.active = false → lockStep rq obj check mismatch s =
          ({ s with locks := s.locks.set rq.ctl none }, some (refused .lockBroken))) ∧
        (l.active = true → l.obj ≠ obj ∨ mismatch l = true →
          lockStep rq obj check mismatch s = (s, some (refused .lockHeld))) ∧
        (l.active = true → l.obj = obj → mismatch l = false → lockStep rq obj check mismatch s = (s, none)) ∧
        (rq.marker = .continue → markerEffect rq obj purpose held s =
          { s with locks := s.locks.set rq.ctl (some { l with last := s.btl.timebase }) }) ∧
        (rq.marker = .ending → markerEffect rq obj purpose held s = { s with
          locks := s.locks.set rq.ctl none
          chans := match l.held with
            | none => s.chans
            | some c => s.chans.set c { s.chans[c] with lock := false } }))

/-- STORE PROFILE begins a fill under a new lock: its record is FILLING with the descriptor and no chunk written, and a
channel bound to the old profile is unbound, losing its save if it has one. STORE PROFILE TAPS writes a named chunk; its
END makes the profile VALID when every named chunk is written, and EMPTY otherwise. DROP PROFILE empties the record
(R122, R129, R137, R138, R141). The refusals of a STORE PROFILE in their order, and the record that a new key takes: an
EMPTY one (the lowest, log entry 19), else the evictable VALID one least recently used (R124, R136, R149). The lock step's
refusals of a STORE PROFILE TAPS (R150). What a key's profile is, the channel it is bound to and the source of a LOAD
(R121, R124, R125); the words of the descriptor (R164) and its ranges (R137). That the unbound channel's relation becomes
NONE is log entry 17's reading. -/
def Obligations.FillsAndDropsOfProfiles : Prop :=
  (∀ (rq : Request) (r : Rec) (s : State), Admitted .storeProfile rq s → rq.length = 9 → rq.marker = .begin →
    rq.num 2 < 64 → rq.key ≠ 0 → (rq.descriptor 2).inRange = true →
    (∀ l, s.locks[rq.ctl] = some l → l.active = false) → NoOtherLock rq.ctl (.profile rq.key) s →
    (∀ c, boundChanOf rq.key s = some c → NoOtherHold rq.ctl c s) → loadSource rq.key s = false →
    findProfile rq.key s = some r ∨ (findProfile rq.key s = none ∧ recordFor (unbroken rq s) = some r) →
    let d := rq.descriptor 2
    let filled : Profile := { emptyProfile with key := some rq.key, state := .filling, desc := d, origin := .stored }
    let mask := word (2 ^ d.near - 1 + if d.eq then 256 else 0)
    let lock : Lock :=
      { obj := .profile rq.key, purpose := .fill, active := true, last := s.btl.timebase, held := none }
    let pfs : Pfs := { recs := s.pfs.recs.set r filled, recency := s.pfs.recency.filter (· != r) }
    ((s.pfs.recs[r].key = some rq.key → s.pfs.recs[r].boundChan = none) →
      exec .storeProfile s = .next (answerFirst (done [mask])
        { s with pfs, locks := s.locks.set rq.ctl (some lock) })) ∧
    (∀ c, s.pfs.recs[r].key = some rq.key → s.pfs.recs[r].boundChan = some c →
      (s.chans[c].state ≠ .releasing → exec .storeProfile s = .next (answerFirst (done [mask])
        { s with
          pfs, locks := s.locks.set rq.ctl (some lock)
          chans := s.chans.set c { s.chans[c] with bound := none, load := none, relation := .none } })) ∧
      (s.chans[c].state = .releasing → ∃ w : State,
        exec .storeProfile s = .next (answerFirst (done [mask])
          { recheck w with locks := w.locks.set rq.ctl (some lock) }) ∧
        w.pfs.recs[r] = filled ∧ w.pfs.recency = pfs.recency ∧ w.chans[c].state = .free ∧
        w.jobs = s.jobs.filter (fun j => j.chan != c) ∧
        ∀ k t, s.chans[c].owner = some k → s.chans[c].bindLink = some t →
          w.cbi = (postOutcome k t .notSaved ([word c.val, 1] ++ keyWords (some rq.key)) s).cbi))) ∧
  (∀ (rq : Request) (s : State), Admitted .storeProfile rq s →
    let formed := rq.length = 9 ∧ rq.marker = .begin ∧ rq.num 2 < 64
    let inRanges := rq.key ≠ 0 ∧ (rq.descriptor 2).inRange = true
    let holding := ∃ l, s.locks[rq.ctl] = some l ∧ l.active = true
    let elsewhere := ¬ (NoOtherLock rq.ctl (.profile rq.key) s ∧
      ∀ c, boundChanOf rq.key s = some c → NoOtherHold rq.ctl c s)
    (¬ formed → exec .storeProfile s = .next (answerFirst (refused .badRequest) s)) ∧
    (formed → ¬ inRanges → exec .storeProfile s = .next (answerFirst (refused .outOfRange) s)) ∧
    (formed → inRanges → holding → exec .storeProfile s = .next (answerFirst (refused .lockHeld) s)) ∧
    (formed → inRanges → ¬ holding →
      (elsewhere → exec .storeProfile s = .next (answerFirst (retry .locked) (unbroken rq s))) ∧
      (¬ elsewhere → loadSource rq.key s = true →
        exec .storeProfile s = .next (answerFirst (retry .inTransfer) (unbroken rq s))) ∧
      (¬ elsewhere → loadSource rq.key s = false → findProfile rq.key s = none → recordFor (unbroken rq s) = none →
        exec .storeProfile s = .next (answerFirst (refused .storeFull) (unbroken rq s))))) ∧
  (∀ (s : State),
    let may (r : Rec) : Prop := ∃ key, s.pfs.recs[r].key = some key ∧ s.pfs.recs[r].desc.pinned = false ∧
      s.pfs.recs[r].boundChan = none ∧ loadSource key s = false ∧
      ∀ (k : Ctl) (l : Lock), s.locks[k] = some l → l.active = true → l.obj ≠ .profile key
    (∀ r : Rec, s.pfs.recs[r].state = .empty → (∀ q : Rec, q < r → s.pfs.recs[q].state ≠ .empty) →
      recordFor s = some r) ∧
    ((∀ r : Rec, s.pfs.recs[r].state ≠ .empty) →
      (∀ pre r post, s.pfs.recency = pre ++ r :: post → may r → (∀ q ∈ post, ¬ may q) → recordFor s = some r) ∧
      ((∀ r ∈ s.pfs.recency, ¬ may r) → recordFor s = none))) ∧
  (∀ (rq : Request) (r : Rec) (l : Lock) (s : State), Admitted .storeProfileTaps rq s → rq.key ≠ 0 → rq.num 2 ≤ 8 →
    rq.words.length = rq.length →
    rq.length = 35 ∧ (rq.marker = .continue ∨ rq.marker = .ending) ∨ rq.length = 3 ∧ rq.marker = .ending →
    s.locks[rq.ctl] = some l → l.active = true → l.obj = .profile rq.key → l.purpose ≠ .profileRead →
    findProfile rq.key s = some r →
    let p := s.pfs.recs[r]
    let named (i : Nat) : Bool := decide (i < p.desc.near ∧ i < 8) || (decide (i = 8) && p.desc.eq)
    let i := rq.num 2
    let data := (List.range 32).map fun j => if rq.word (3 + j) = 0x8000 then 0x8001 else rq.word (3 + j)
    let q : Profile := if rq.length = 3 then p else
      { p with chunks := p.chunks.set (Fin.ofNat 9 i) data, written := p.written ||| (1#9 <<< i) }
    let left := ((List.range 9).filter fun j => named j && !q.written.getLsbD j).length
    let held := match l.held with
      | none => s.chans
      | some c => s.chans.set c { s.chans[c] with lock := false }
    p.desc.near ≤ 8 →
    (named i = false → exec .storeProfileTaps s = .next (answerFirst (refused .outOfRange) s)) ∧
    (named i = true → rq.marker = .continue → exec .storeProfileTaps s = .next (answerFirst (done [word left])
      { s with pfs := { s.pfs with recs := s.pfs.recs.set r q }
               locks := s.locks.set rq.ctl (some { l with last := s.btl.timebase }) })) ∧
    (named i = true → rq.marker = .ending → left = 0 →
      exec .storeProfileTaps s = .next (answerFirst (done []) { s with
        pfs := { recs := s.pfs.recs.set r { q with state := .valid }
                 recency := r :: s.pfs.recency.filter (· != r) }
        locks := s.locks.set rq.ctl none, chans := held })) ∧
    (named i = true → rq.marker = .ending → left ≠ 0 → p.boundChan = none →
      exec .storeProfileTaps s = .next (answerFirst (refused .incomplete) { s with
        pfs := { recs := s.pfs.recs.set r emptyProfile, recency := s.pfs.recency.filter (· != r) }
        locks := s.locks.set rq.ctl none, chans := held }))) ∧
  (∀ (rq : Request) (s : State), Admitted .storeProfileTaps rq s → rq.key ≠ 0 → rq.num 2 ≤ 8 →
    rq.length = 35 ∧ (rq.marker = .continue ∨ rq.marker = .ending) ∨ rq.length = 3 ∧ rq.marker = .ending →
    (s.locks[rq.ctl] = none → exec .storeProfileTaps s = .next (answerFirst (refused .notLocked) s)) ∧
    ∀ l, s.locks[rq.ctl] = some l →
      (l.active = false → exec .storeProfileTaps s = .next (answerFirst (refused .lockBroken)
        { s with locks := s.locks.set rq.ctl none })) ∧
      (l.active = true → l.obj ≠ .profile rq.key ∨ l.purpose = .profileRead →
        exec .storeProfileTaps s = .next (answerFirst (refused .lockHeld) s))) ∧
  (∀ (key : Key) (s : State),
    let holds (r : Rec) : Prop := s.pfs.recs[r].state ≠ .empty ∧ s.pfs.recs[r].key = some key
    (∀ r : Rec, holds r → (∀ q : Rec, q < r → ¬ holds q) → findProfile key s = some r) ∧
    ((∀ r : Rec, ¬ holds r) → findProfile key s = none) ∧
    (∀ r : Rec, findValid key s = some r ↔ findProfile key s = some r ∧ s.pfs.recs[r].state = .valid) ∧
    (∀ c : Chan, boundChanOf key s = some c ↔
      ∃ r, findProfile key s = some r ∧ s.pfs.recs[r].boundChan = some c) ∧
    (loadSource key s = true ↔ ∃ j ∈ s.jobs, j.kind = .load ∧ j.key = key)) ∧
  (∀ rq : Request,
    let flag (i : Nat) : Bool := (rq.word 2).getLsbD i
    let hi (i : Nat) : Nat := rq.num i / 256
    let lo (i : Nat) : Nat := rq.num i % 256
    rq.key = rq.word 0 ++ rq.word 1 ∧
    rq.descriptor 2 =
      { pinned := flag 0, eq := flag 1, near := hi 3, farHint := lo 3, bulkHint := rq.num 4
        aEchoTrain := if flag 2 then some (hi 5) else none, aEchoTrack := if flag 3 then some (lo 5) else none
        aEqTrain := if flag 4 then some (hi 6) else none, aEqTrack := if flag 5 then some (lo 6) else none
        mainTap := hi 7, lag := lo 7, best := rq.num 8 }) ∧
  (∀ d : Descriptor, d.inRange = true ↔
    (1 ≤ d.near ∧ d.near ≤ 8) ∧ d.farHint ≤ 16 ∧ d.bulkHint ≤ 5120 ∧ d.mainTap ≤ 31 ∧ (1 ≤ d.lag ∧ d.lag ≤ 8) ∧
      d.best ≤ 240 ∧ ∀ e ∈ [d.aEchoTrain, d.aEchoTrack, d.aEqTrain, d.aEqTrack], ∀ n, e = some n → n ≤ 31) ∧
  ∀ (rq : Request) (s : State), Admitted .dropProfile rq s → rq.plain 2 = true → rq.key ≠ 0 →
    (findProfile rq.key s = none → exec .dropProfile s = .next (answerFirst (refused .noProfile) s)) ∧
    ∀ r, findProfile rq.key s = some r →
      let locked := ∃ (k : Ctl) (l : Lock), s.locks[k] = some l ∧ l.active = true ∧ l.obj = .profile rq.key
      (s.pfs.recs[r].boundChan ≠ none ∨ locked →
        exec .dropProfile s = .next (answerFirst (refused .profileBusy) s)) ∧
      (s.pfs.recs[r].boundChan = none → ¬ locked → loadSource rq.key s = true →
        exec .dropProfile s = .next (answerFirst (retry .inTransfer) s)) ∧
      (s.pfs.recs[r].boundChan = none → ¬ locked → loadSource rq.key s = false →
        exec .dropProfile s = .next (answerFirst (done []) { s with
          pfs := { recs := s.pfs.recs.set r emptyProfile, recency := s.pfs.recency.filter (· != r) } }))

/-- READ PROFILE answers the twelve words of a profile and moves a VALID one to the front of the recency list; READ
PROFILE TAPS answers a chunk, from the store or, for a channel in BOUND to RELEASING bound to it, live from its segment
with corrections written back, counted and reported; their markers take effect; without a profile they are refused
NO_PROFILE; what their lock step refuses or puts off, by marker (R31, R105, R130, R136, R139, R140, R149, R150). The bytes
of exponents outside the set are free values (log entry 20); that a live read of uncorrectable words carries their marks,
and one without any none, is log entry 38's reading. -/
def Obligations.ProfileReadsReportStoredOrLive : Prop :=
  (∀ (k : Kind) (rq : Request) (s : State), Admitted k rq s → rq.key ≠ 0 →
    k = .readProfile ∧ rq.length = 2 ∨ k = .readProfileTaps ∧ rq.length = 3 ∧ rq.num 2 ≤ 8 →
    let v := unbroken rq s
    let bound (c : Chan) : Prop := ∃ r, findProfile rq.key s = some r ∧ s.pfs.recs[r].boundChan = some c
    let elsewhere := ¬ (NoOtherLock rq.ctl (.profile rq.key) s ∧ ∀ c, bound c → NoOtherHold rq.ctl c s)
    (rq.marker = .begin →
      (∀ l, s.locks[rq.ctl] = some l → l.active = true →
        exec k.command s = .next (answerFirst (refused .lockHeld) s)) ∧
      ((∀ l, s.locks[rq.ctl] = some l → l.active = false) →
        (elsewhere → exec k.command s = .next (answerFirst (retry .locked) v)) ∧
        (¬ elsewhere → ∀ c, bound c →
          s.chans[c].state = .pending ∨ s.chans[c].state = .loading ∨ s.chans[c].state = .releasing →
          exec k.command s = .next (answerFirst (retry .channelNotReady) v)))) ∧
    (rq.marker = .continue ∨ rq.marker = .ending →
      (s.locks[rq.ctl] = none → exec k.command s = .next (answerFirst (refused .notLocked) s)) ∧
      ∀ l, s.locks[rq.ctl] = some l →
        (l.active = false → exec k.command s = .next (answerFirst (refused .lockBroken)
          { s with locks := s.locks.set rq.ctl none })) ∧
        (l.active = true → l.obj ≠ .profile rq.key ∨ (l.purpose = .fill ∧ rq.marker = .ending) →
          exec k.command s = .next (answerFirst (refused .lockHeld) s)))) ∧
  ∀ (k : Kind) (rq : Request) (s : State), Admitted k rq s → rq.key ≠ 0 →
    LockPasses rq (.profile rq.key)
      (NoOtherLock rq.ctl (.profile rq.key) s ∧ ∀ c, boundChanOf rq.key s = some c →
        NoOtherHold rq.ctl c s ∧ s.chans[c].state ≠ .pending ∧ s.chans[c].state ≠ .loading ∧
        s.chans[c].state ≠ .releasing)
      (fun l => l.purpose ≠ .fill ∨ rq.marker ≠ .ending) s →
    let v := unbroken rq s
    (findProfile rq.key s = none →
      (k = .readProfile → rq.length = 2 → exec .readProfile s = .next (answerFirst (refused .noProfile) v)) ∧
      (k = .readProfileTaps → rq.length = 3 → rq.num 2 ≤ 8 →
        exec .readProfileTaps s = .next (answerFirst (refused .noProfile) v))) ∧
    ∀ r, findProfile rq.key s = some r →
    let p := s.pfs.recs[r]
    let serves (c : Chan) : Prop := p.boundChan = some c ∧ s.chans[c].state ≠ .free ∧
      s.chans[c].state ≠ .pending ∧ s.chans[c].state ≠ .loading
    let marked (u : State) : State := markerEffect rq (.profile rq.key) .profileRead
      (p.boundChan.filter fun c => decide (serves c ∧ s.chans[c].state ≠ .releasing)) u
    (k = .readProfile → rq.length = 2 →
      let front := { v with
        pfs := if p.state = .valid then { s.pfs with recency := r :: s.pfs.recency.filter (· != r) } else s.pfs
        free := s.free + 4 }
      let words (d : Descriptor) (ws : List Word) : Prop :=
        ws.length = 12 ∧ ws.getD 0 0 = word p.state.code ∧
        ws.getD 1 0 = word ((if d.pinned then 1 else 0) + (if d.eq then 2 else 0)
          + (if d.aEchoTrain.isSome then 4 else 0) + (if d.aEchoTrack.isSome then 8 else 0)
          + (if d.aEqTrain.isSome then 16 else 0) + if d.aEqTrack.isSome then 32 else 0) ∧
        ws.getD 2 0 = pack d.near d.farHint ∧ ws.getD 3 0 = word d.bulkHint ∧
        (∀ e, d.aEchoTrain = some e → hiByte (ws.getD 4 0) = e % 256) ∧
        (∀ e, d.aEchoTrack = some e → loByte (ws.getD 4 0) = e % 256) ∧
        (∀ e, d.aEqTrain = some e → hiByte (ws.getD 5 0) = e % 256) ∧
        (∀ e, d.aEqTrack = some e → loByte (ws.getD 5 0) = e % 256) ∧
        ws.getD 6 0 = pack d.mainTap d.lag ∧ ws.getD 7 0 = word d.best ∧ ws.getD 8 0 = word p.origin.code ∧
        ws.getD 9 0 = word p.useCount ∧ ws.getD 10 0 = optWord (p.boundChan.map Fin.val) ∧
        ws.getD 11 0 = if p.state = .filling ∧ p.boundChan = none then p.written.setWidth 16 else 0
      ((∀ c, ¬ serves c) → ∃ ws, words p.desc ws ∧
        exec .readProfile s = .next (answerFirst (done ws) (marked front))) ∧
      ∀ c, serves c → ∃ ws, words { p.desc with
          near := s.chans[c].par.near, farHint := s.chans[c].par.far, bulkHint := s.chans[c].par.bulk
          mainTap := s.chans[c].par.mainTap, lag := s.chans[c].par.lag, eq := s.chans[c].par.eq
          best := s.chans[c].convErle.getD p.desc.best } ws ∧
        exec .readProfile s = .next (answerFirst { done ws with live := true } (marked front))) ∧
    (k = .readProfileTaps → rq.length = 3 → rq.num 2 ≤ 8 →
      let i := rq.num 2
      ((∀ c, ¬ serves c) →
        (i = 8 → p.desc.eq = false → exec .readProfileTaps s = .next (answerFirst (refused .noEqualizer) v)) ∧
        (i ≠ 8 → p.desc.near ≤ i → exec .readProfileTaps s = .next (answerFirst (refused .outOfRange) v)) ∧
        ((if i = 8 then p.desc.eq = true else i < p.desc.near) → exec .readProfileTaps s = .next
          (answerFirst (done p.chunks[Fin.ofNat 9 i]) (marked v)))) ∧
      ∀ c, serves c →
        (i = 8 → s.chans[c].par.eq = false →
          exec .readProfileTaps s = .next (answerFirst (refused .noEqualizer) v)) ∧
        (i ≠ 8 → s.chans[c].par.near ≤ i →
          exec .readProfileTaps s = .next (answerFirst (refused .outOfRange) v)) ∧
        ∀ g, (if i = 8 then s.chans[c].eqSeg = some g else i < s.chans[c].par.near ∧ s.chans[c].segs[i]? = some g) →
          let rd := readSegment s.sal g
          let ws := rd.map fun t => t.cls.value.getD 0
          ((∀ t ∈ rd, ∃ x, t.cls = .good x) → exec .readProfileTaps s = .next
            (answerFirst { done ws with live := true } (marked v))) ∧
          ∃ marks u, exec .readProfileTaps s = .next
              (answerFirst { done ws with live := true, marks := marks } (marked u)) ∧
            (marks = none ↔ ∀ t ∈ rd, t.cls ≠ .uncorrectable) ∧
            (∀ m, marks = some m → ∀ j, j < 32 →
              (m.getLsbD j = true ↔ ∃ t, rd[j]? = some t ∧ t.cls = .uncorrectable)) ∧
            u.chans = s.chans.set c (countCorrections rd s.chans[c]) ∧
            u.fifos = (correctionEvent c rd s).fifos ∧ (MemoryOk s.sal → WrittenBack rd s u) ∧
            { u with chans := s.chans, fifos := s.fifos, sal := { u.sal with taps := s.sal.taps } } = v)

/-- READ TAPS answers the 32 words of a segment: corrected words are written back, counted and reported, uncorrectable
ones read as 0 and are marked, and the first of them takes a channel in LOADING to TRACKING into FAULT, which posts CHANNEL
FAULT, completes its training or its BIND FAULTED and cancels its LOAD. WRITE TAPS of a held channel writes 32 clamped
words into a segment and nothing else, and is told to RETRY while another controller holds the channel. Their markers take
effect. The refusals of Table 8-1 after the form (O46) in its order: gate, range, lock step, ownership, state and window;
and the ordered checks of a BEGIN's channel (R31, R85, R95, R105, R143–R146, R148–R150). That a read of
uncorrectable words carries their marks, and one without any none, is log entry 38's reading. -/
def Obligations.TapRequestsReadAndWriteASegment : Prop :=
  (∀ (k : Kind) (rq : Request) (w : Window) (g : Seg) (s : State), Admitted k rq s → s.btl.gateOpen = true →
    rq.num 0 < 32 → windowOfCode (rq.num 1) = some w → rq.words.length = rq.length →
    let c := rq.chan
    let x := s.chans[c]
    let i := rq.num 2
    let entry := match w with
      | .near => i
      | .far => x.par.near + i
      | .equalizer => x.par.near + x.par.far
    (match w with
      | .near => i ≤ 7 ∧ i < x.par.near
      | .far => i ≤ 15 ∧ i < x.par.far
      | .equalizer => i = 0 ∧ x.par.eq = true) →
    x.segs[entry]? = some g →
    LockPasses rq (.chan c) (x.owner = some rq.ctl ∧ x.state ≠ .loading ∧ x.state ≠ .free ∧ x.state ≠ .pending ∧
      x.state ≠ .releasing ∧ NoOtherHold rq.ctl c s) (fun _ => True) s →
    let v := unbroken rq s
    let marked (u : State) : State := markerEffect rq (.chan c) .channel (some c) u
    let rd := readSegment s.sal g
    let ws := rd.map fun t => t.cls.value.getD 0
    let training := x.state = .echoTrain ∨ x.state = .eqTrain
    (k = .readTaps → rq.length = 3 →
      x.state ≠ .free → x.state ≠ .pending →
      ((∀ t ∈ rd, ∃ n, t.cls = .good n) → exec .readTaps s = .next (answerFirst (done ws) (marked v))) ∧
      ∃ marks u, exec .readTaps s = .next (answerFirst
          { done ws with corrected := (rd.filter fun t => t.cls.isCorrected).length, marks := marks } (marked u)) ∧
        (marks = none ↔ ∀ t ∈ rd, t.cls ≠ .uncorrectable) ∧
        (∀ m, marks = some m → ∀ j, j < 32 →
          (m.getLsbD j = true ↔ ∃ t, rd[j]? = some t ∧ t.cls = .uncorrectable)) ∧
        (MemoryOk s.sal → WrittenBack rd s u) ∧
        ((∀ t ∈ rd, t.cls ≠ .uncorrectable) ∨ x.state = .fault ∨ x.state = .releasing →
          u.chans = s.chans.set c (countCorrections rd x) ∧ u.fifos = (correctionEvent c rd s).fifos ∧
          u.cbi = s.cbi ∧ u.jobs = s.jobs) ∧
        (∀ t, rd.find? (fun t => t.cls.isBad) = some t → x.state ≠ .fault → x.state ≠ .releasing →
          u.chans = s.chans.set c { countCorrections rd x with
            state := .fault, trainLink := if training then none else x.trainLink
            bindLink := if x.state = .loading then none else x.bindLink } ∧
          u.fifos = (postOwner c .channelFault t.addr (correctionEvent c rd s)).fifos ∧
          u.jobs = (if x.state = .loading then s.jobs.filter fun j => j.chan != c else s.jobs) ∧
          (∀ o tag, training → x.owner = some o → x.trainLink = some tag → u.cbi = (postOutcome o tag .faulted
            [if x.state = .echoTrain then 0 else 1, word (if x.state = .echoTrain then erle x else quality x),
             word (if x.state = .echoTrain then quality x else erle x), word x.trainFrames, word x.streak,
             word x.guarded] s).cbi) ∧
          (∀ o tag, x.state = .loading → x.owner = some o → x.bindLink = some tag →
            u.cbi = (postOutcome o tag .faulted
              [word c.val, 4, 7, word x.relation.code, word x.par.near, word x.par.far, word x.par.bulk,
               if x.par.eq then 1 else 0, word x.par.mainTap, word x.par.lag] s).cbi) ∧
          (x.owner = none ∨ (training ∧ x.trainLink = none) ∨ (x.state = .loading ∧ x.bindLink = none) ∨
            x.state = .bound ∨ x.state = .tracking → u.cbi = s.cbi)) ∧
        { u with chans := s.chans, fifos := s.fifos, cbi := s.cbi, jobs := s.jobs
                 sal := { u.sal with taps := s.sal.taps } } = v) ∧
    (k = .writeTaps → rq.length = 35 → x.owner = some rq.ctl →
      x.state = .bound ∨ x.state = .echoTrain ∨ x.state = .eqTrain ∨ x.state = .tracking →
      let mine := x.freeze = true ∨ rq.marker = .begin ∨
        ∃ l, s.locks[rq.ctl] = some l ∧ l.active = true ∧ l.held = some c
      (¬ NoOtherHold rq.ctl c s → exec .writeTaps s = .next (answerFirst (retry .locked) s)) ∧
      (NoOtherHold rq.ctl c s → ¬ mine → exec .writeTaps s = .next (answerFirst (refused .wrongState) s)) ∧
      (NoOtherHold rq.ctl c s → mine → ∃ u, exec .writeTaps s = .next (answerFirst
          (done [word ((List.range 32).filter fun j => rq.word (3 + j) = 0x8000).length]) (marked u)) ∧
        { u with sal := { u.sal with taps := s.sal.taps } } = v ∧
        (MemoryOk s.sal → (∀ j, j < 32 → tapAt u (32 * g.val + j) =
            eccEncode (if rq.word (3 + j) = 0x8000 then 0x8001 else rq.word (3 + j))) ∧
          ∀ a, a < 32 * g.val ∨ 32 * g.val + 32 ≤ a → tapAt u a = tapAt s a)))) ∧
  (∀ (k : Kind) (rq : Request) (s : State), Admitted k rq s →
    k = .readTaps ∧ rq.length = 3 ∨ k = .writeTaps ∧ rq.length = 35 →
    let c := rq.chan
    let x := s.chans[c]
    let i := rq.num 2
    let v := unbroken rq s
    let inRange := rq.num 0 ≤ 31 ∧ (rq.num 1 = 0 ∧ i ≤ 7 ∨ rq.num 1 = 1 ∧ i ≤ 15 ∨ rq.num 1 = 2 ∧ i = 0)
    let running := x.state = .bound ∨ x.state = .echoTrain ∨ x.state = .eqTrain ∨ x.state = .tracking
    (s.btl.gateOpen = false → exec k.command s = .next (answerFirst (refused .gateClosed) s)) ∧
    (s.btl.gateOpen = true → ¬ inRange → exec k.command s = .next (answerFirst (refused .outOfRange) s)) ∧
    (s.btl.gateOpen = true → inRange →
      (∀ u a, lockStep rq (.chan c) none (fun _ => false) s = (u, some a) →
        exec k.command s = .next (answerFirst a u)) ∧
      (LockPasses rq (.chan c) (x.owner = some rq.ctl ∧ x.state ≠ .loading ∧ x.state ≠ .free ∧ x.state ≠ .pending ∧
          x.state ≠ .releasing ∧ NoOtherHold rq.ctl c s) (fun _ => True) s →
        (k = .readTaps → x.state = .free ∨ x.state = .pending →
          exec .readTaps s = .next (answerFirst (refused .wrongState) v)) ∧
        (k = .writeTaps → x.owner ≠ some rq.ctl → exec .writeTaps s = .next (answerFirst (refused .notOwner) v)) ∧
        (k = .writeTaps → x.owner = some rq.ctl → ¬ running →
          exec .writeTaps s = .next (answerFirst (refused .wrongState) v)) ∧
        (k = .readTaps ∧ x.state ≠ .free ∧ x.state ≠ .pending ∨
            k = .writeTaps ∧ x.owner = some rq.ctl ∧ running →
          (rq.num 1 = 2 → x.par.eq = false → exec k.command s = .next (answerFirst (refused .noEqualizer) v)) ∧
          (rq.num 1 = 0 → x.par.near ≤ i → exec k.command s = .next (answerFirst (refused .outOfRange) v)) ∧
          (rq.num 1 = 1 → x.par.far ≤ i → exec k.command s = .next (answerFirst (refused .outOfRange) v)))))) ∧
  ∀ (k : Kind) (rq : Request) (w : Window) (s : State), Admitted k rq s → s.btl.gateOpen = true → rq.num 0 < 32 →
    k = .readTaps ∧ rq.length = 3 ∨ k = .writeTaps ∧ rq.length = 35 →
    windowOfCode (rq.num 1) = some w →
    (match w with
      | .near => rq.num 2 ≤ 7
      | .far => rq.num 2 ≤ 15
      | .equalizer => rq.num 2 = 0) →
    rq.marker = .begin → (∀ l, s.locks[rq.ctl] = some l → l.active = false) →
    let x := s.chans[rq.chan]
    let v := unbroken rq s
    (x.owner ≠ some rq.ctl → exec k.command s = .next (answerFirst (refused .notOwner) v)) ∧
    (x.owner = some rq.ctl →
      (x.state = .loading → exec k.command s = .next (answerFirst (retry .channelNotReady) v)) ∧
      (x.state = .free ∨ x.state = .pending ∨ x.state = .releasing →
        exec k.command s = .next (answerFirst (refused .wrongState) v)) ∧
      (x.state = .bound ∨ x.state = .echoTrain ∨ x.state = .eqTrain ∨ x.state = .tracking ∨ x.state = .fault →
        ¬ NoOtherHold rq.ctl rq.chan s → exec k.command s = .next (answerFirst (retry .locked) v)))

/-- FETCH EVENTS hands out up to eight oldest entries with the overflow flag and clears it; SET EVENT TRIGGER sets the
level and hold time, flushing when asked, and is refused for a flags word above 1; both evaluate the event line
(R182–R184). That no age reaches the hold time while RESET is low is log entry 6's reading; that the flags word is asked
before the hold time is log entry 45's. The codes and classes of the events are those of Table 10-1. -/
def Obligations.EventRequestsServeTheFifo : Prop :=
  ([EventKind.channelFault, .lineSyncLost, .modemSyncLost, .lineSyncRegained, .modemSyncRegained, .eccCorrected,
    .echoDegraded, .lineQuiet, .lockBroken, .channelOrphaned].map EventKind.code = List.range' 1 10 ∧
    ∀ e : EventKind, e.isFault = true ↔ e = .channelFault ∨ e = .lineSyncLost ∨ e = .modemSyncLost) ∧
  (∀ (rq : Request) (s : State), Admitted .fetchEvents rq s → rq.plain 0 = true →
    let f := s.fifos[rq.ctl]
    let f' := { f with entries := f.entries.drop 8, overflow := false }
    exec .fetchEvents s = .next (answerFirst (done
      (word ((if f.overflow then 32768 else 0) + 256 * (f.entries.take 8).length + (f.entries.drop 8).length)
        :: (f.entries.take 8).flatMap fun e =>
          [word (256 * e.kind.code + (if e.kind.isFault then 128 else 0)
              + (match e.chan with | none => 0 | some c => 64 + c.val)), e.detail, e.posted.setWidth 16]))
      { s with
        fifos := s.fifos.set rq.ctl
          { f' with line := lineAsserted true s.btl.resetLow s.btl.timebase f' } })) ∧
  (∀ (rq : Request) (s : State), Admitted .setEventTrigger rq s → rq.plain 3 = true → 1 < rq.num 2 →
    exec .setEventTrigger s = .next (answerFirst (refused .badRequest) s)) ∧
  (∀ (rq : Request) (s : State), Admitted .setEventTrigger rq s → rq.plain 3 = true → rq.num 2 ≤ 1 →
    let f := s.fifos[rq.ctl]
    let level := if rq.num 0 ≤ 1 then 1 else if rq.num 0 ≤ 4 then 4 else if rq.num 0 ≤ 8 then 8 else 16
    let f' := { f with
      level, hold := max 1 (rq.num 1), entries := if rq.num 2 = 1 then [] else f.entries
      overflow := if rq.num 2 = 1 then false else f.overflow }
    (255 < rq.num 1 → exec .setEventTrigger s = .next (answerFirst (refused .outOfRange) s)) ∧
    (rq.num 1 ≤ 255 → exec .setEventTrigger s = .next (answerFirst
      (done [word level, word (max 1 (rq.num 1)), word (if rq.num 2 = 1 then f.entries.length else 0)])
      { s with
        fifos := s.fifos.set rq.ctl
          { f' with line := lineAsserted true s.btl.resetLow s.btl.timebase f' } }))) ∧
  ∀ (attached resetLow : Bool) (now : Time) (f : Fifo),
    lineAsserted attached resetLow now f = true ↔ attached = true ∧ (f.level ≤ f.entries.length ∨
      (resetLow = false ∧ ∃ e, f.entries.head? = some e ∧ f.hold ≤ (now - e.posted).toNat) ∨
      ∃ e ∈ f.entries, e.kind.isFault = true)
end

