-- ==== Sys2Proof/Laws/State.lean ====
section
/-! SUPPORT. One lemma per field per update of State, each true by rfl, and the reads of a numbered place after its
update. -/

namespace Sys2Proof.Machine

/-! ### setChan -/

@[simp] theorem State.setChan_hwi (s : State) (c : Chan) (x : Context) : (s.setChan c x).hwi = s.hwi := rfl
@[simp] theorem State.setChan_chans (s : State) (c : Chan) (x : Context) : (s.setChan c x).chans = s.chans.set c x := rfl
@[simp] theorem State.setChan_sal (s : State) (c : Chan) (x : Context) : (s.setChan c x).sal = s.sal := rfl
@[simp] theorem State.setChan_pfs (s : State) (c : Chan) (x : Context) : (s.setChan c x).pfs = s.pfs := rfl
@[simp] theorem State.setChan_jobs (s : State) (c : Chan) (x : Context) : (s.setChan c x).jobs = s.jobs := rfl
@[simp] theorem State.setChan_locks (s : State) (c : Chan) (x : Context) : (s.setChan c x).locks = s.locks := rfl
@[simp] theorem State.setChan_cbi (s : State) (c : Chan) (x : Context) : (s.setChan c x).cbi = s.cbi := rfl
@[simp] theorem State.setChan_fifos (s : State) (c : Chan) (x : Context) : (s.setChan c x).fifos = s.fifos := rfl
@[simp] theorem State.setChan_btl (s : State) (c : Chan) (x : Context) : (s.setChan c x).btl = s.btl := rfl
@[simp] theorem State.setChan_free (s : State) (c : Chan) (x : Context) : (s.setChan c x).free = s.free := rfl
@[simp] theorem State.setChan_pending (s : State) (c : Chan) (x : Context) : (s.setChan c x).pending = s.pending := rfl

/-! ### setFifo -/

@[simp] theorem State.setFifo_hwi (s : State) (k : Ctl) (f : Fifo) : (s.setFifo k f).hwi = s.hwi := rfl
@[simp] theorem State.setFifo_chans (s : State) (k : Ctl) (f : Fifo) : (s.setFifo k f).chans = s.chans := rfl
@[simp] theorem State.setFifo_sal (s : State) (k : Ctl) (f : Fifo) : (s.setFifo k f).sal = s.sal := rfl
@[simp] theorem State.setFifo_pfs (s : State) (k : Ctl) (f : Fifo) : (s.setFifo k f).pfs = s.pfs := rfl
@[simp] theorem State.setFifo_jobs (s : State) (k : Ctl) (f : Fifo) : (s.setFifo k f).jobs = s.jobs := rfl
@[simp] theorem State.setFifo_locks (s : State) (k : Ctl) (f : Fifo) : (s.setFifo k f).locks = s.locks := rfl
@[simp] theorem State.setFifo_cbi (s : State) (k : Ctl) (f : Fifo) : (s.setFifo k f).cbi = s.cbi := rfl
@[simp] theorem State.setFifo_fifos (s : State) (k : Ctl) (f : Fifo) : (s.setFifo k f).fifos = s.fifos.set k f := rfl
@[simp] theorem State.setFifo_btl (s : State) (k : Ctl) (f : Fifo) : (s.setFifo k f).btl = s.btl := rfl
@[simp] theorem State.setFifo_free (s : State) (k : Ctl) (f : Fifo) : (s.setFifo k f).free = s.free := rfl
@[simp] theorem State.setFifo_pending (s : State) (k : Ctl) (f : Fifo) : (s.setFifo k f).pending = s.pending := rfl

/-! ### setLock -/

@[simp] theorem State.setLock_hwi (s : State) (k : Ctl) (l : Option Lock) : (s.setLock k l).hwi = s.hwi := rfl
@[simp] theorem State.setLock_chans (s : State) (k : Ctl) (l : Option Lock) : (s.setLock k l).chans = s.chans := rfl
@[simp] theorem State.setLock_sal (s : State) (k : Ctl) (l : Option Lock) : (s.setLock k l).sal = s.sal := rfl
@[simp] theorem State.setLock_pfs (s : State) (k : Ctl) (l : Option Lock) : (s.setLock k l).pfs = s.pfs := rfl
@[simp] theorem State.setLock_jobs (s : State) (k : Ctl) (l : Option Lock) : (s.setLock k l).jobs = s.jobs := rfl
@[simp] theorem State.setLock_locks (s : State) (k : Ctl) (l : Option Lock) : (s.setLock k l).locks = s.locks.set k l := rfl
@[simp] theorem State.setLock_cbi (s : State) (k : Ctl) (l : Option Lock) : (s.setLock k l).cbi = s.cbi := rfl
@[simp] theorem State.setLock_fifos (s : State) (k : Ctl) (l : Option Lock) : (s.setLock k l).fifos = s.fifos := rfl
@[simp] theorem State.setLock_btl (s : State) (k : Ctl) (l : Option Lock) : (s.setLock k l).btl = s.btl := rfl
@[simp] theorem State.setLock_free (s : State) (k : Ctl) (l : Option Lock) : (s.setLock k l).free = s.free := rfl
@[simp] theorem State.setLock_pending (s : State) (k : Ctl) (l : Option Lock) : (s.setLock k l).pending = s.pending := rfl

/-! ### setRec -/

@[simp] theorem State.setRec_hwi (s : State) (r : Rec) (p : Profile) : (s.setRec r p).hwi = s.hwi := rfl
@[simp] theorem State.setRec_chans (s : State) (r : Rec) (p : Profile) : (s.setRec r p).chans = s.chans := rfl
@[simp] theorem State.setRec_sal (s : State) (r : Rec) (p : Profile) : (s.setRec r p).sal = s.sal := rfl
@[simp] theorem State.setRec_pfs (s : State) (r : Rec) (p : Profile) : (s.setRec r p).pfs = { s.pfs with recs := s.pfs.recs.set r p } := rfl
@[simp] theorem State.setRec_jobs (s : State) (r : Rec) (p : Profile) : (s.setRec r p).jobs = s.jobs := rfl
@[simp] theorem State.setRec_locks (s : State) (r : Rec) (p : Profile) : (s.setRec r p).locks = s.locks := rfl
@[simp] theorem State.setRec_cbi (s : State) (r : Rec) (p : Profile) : (s.setRec r p).cbi = s.cbi := rfl
@[simp] theorem State.setRec_fifos (s : State) (r : Rec) (p : Profile) : (s.setRec r p).fifos = s.fifos := rfl
@[simp] theorem State.setRec_btl (s : State) (r : Rec) (p : Profile) : (s.setRec r p).btl = s.btl := rfl
@[simp] theorem State.setRec_free (s : State) (r : Rec) (p : Profile) : (s.setRec r p).free = s.free := rfl
@[simp] theorem State.setRec_pending (s : State) (r : Rec) (p : Profile) : (s.setRec r p).pending = s.pending := rfl

/-! ### setRecency -/

@[simp] theorem State.setRecency_hwi (s : State) (l : List Rec) : (s.setRecency l).hwi = s.hwi := rfl
@[simp] theorem State.setRecency_chans (s : State) (l : List Rec) : (s.setRecency l).chans = s.chans := rfl
@[simp] theorem State.setRecency_sal (s : State) (l : List Rec) : (s.setRecency l).sal = s.sal := rfl
@[simp] theorem State.setRecency_pfs (s : State) (l : List Rec) : (s.setRecency l).pfs = { s.pfs with recency := l } := rfl
@[simp] theorem State.setRecency_jobs (s : State) (l : List Rec) : (s.setRecency l).jobs = s.jobs := rfl
@[simp] theorem State.setRecency_locks (s : State) (l : List Rec) : (s.setRecency l).locks = s.locks := rfl
@[simp] theorem State.setRecency_cbi (s : State) (l : List Rec) : (s.setRecency l).cbi = s.cbi := rfl
@[simp] theorem State.setRecency_fifos (s : State) (l : List Rec) : (s.setRecency l).fifos = s.fifos := rfl
@[simp] theorem State.setRecency_btl (s : State) (l : List Rec) : (s.setRecency l).btl = s.btl := rfl
@[simp] theorem State.setRecency_free (s : State) (l : List Rec) : (s.setRecency l).free = s.free := rfl
@[simp] theorem State.setRecency_pending (s : State) (l : List Rec) : (s.setRecency l).pending = s.pending := rfl

/-! ### setSal -/

@[simp] theorem State.setSal_hwi (s : State) (m : Sal) : (s.setSal m).hwi = s.hwi := rfl
@[simp] theorem State.setSal_chans (s : State) (m : Sal) : (s.setSal m).chans = s.chans := rfl
@[simp] theorem State.setSal_sal (s : State) (m : Sal) : (s.setSal m).sal = m := rfl
@[simp] theorem State.setSal_pfs (s : State) (m : Sal) : (s.setSal m).pfs = s.pfs := rfl
@[simp] theorem State.setSal_jobs (s : State) (m : Sal) : (s.setSal m).jobs = s.jobs := rfl
@[simp] theorem State.setSal_locks (s : State) (m : Sal) : (s.setSal m).locks = s.locks := rfl
@[simp] theorem State.setSal_cbi (s : State) (m : Sal) : (s.setSal m).cbi = s.cbi := rfl
@[simp] theorem State.setSal_fifos (s : State) (m : Sal) : (s.setSal m).fifos = s.fifos := rfl
@[simp] theorem State.setSal_btl (s : State) (m : Sal) : (s.setSal m).btl = s.btl := rfl
@[simp] theorem State.setSal_free (s : State) (m : Sal) : (s.setSal m).free = s.free := rfl
@[simp] theorem State.setSal_pending (s : State) (m : Sal) : (s.setSal m).pending = s.pending := rfl

/-! ### setCbi -/

@[simp] theorem State.setCbi_hwi (s : State) (b : Cbi) : (s.setCbi b).hwi = s.hwi := rfl
@[simp] theorem State.setCbi_chans (s : State) (b : Cbi) : (s.setCbi b).chans = s.chans := rfl
@[simp] theorem State.setCbi_sal (s : State) (b : Cbi) : (s.setCbi b).sal = s.sal := rfl
@[simp] theorem State.setCbi_pfs (s : State) (b : Cbi) : (s.setCbi b).pfs = s.pfs := rfl
@[simp] theorem State.setCbi_jobs (s : State) (b : Cbi) : (s.setCbi b).jobs = s.jobs := rfl
@[simp] theorem State.setCbi_locks (s : State) (b : Cbi) : (s.setCbi b).locks = s.locks := rfl
@[simp] theorem State.setCbi_cbi (s : State) (b : Cbi) : (s.setCbi b).cbi = b := rfl
@[simp] theorem State.setCbi_fifos (s : State) (b : Cbi) : (s.setCbi b).fifos = s.fifos := rfl
@[simp] theorem State.setCbi_btl (s : State) (b : Cbi) : (s.setCbi b).btl = s.btl := rfl
@[simp] theorem State.setCbi_free (s : State) (b : Cbi) : (s.setCbi b).free = s.free := rfl
@[simp] theorem State.setCbi_pending (s : State) (b : Cbi) : (s.setCbi b).pending = s.pending := rfl

/-! ### setBtl -/

@[simp] theorem State.setBtl_hwi (s : State) (b : Btl) : (s.setBtl b).hwi = s.hwi := rfl
@[simp] theorem State.setBtl_chans (s : State) (b : Btl) : (s.setBtl b).chans = s.chans := rfl
@[simp] theorem State.setBtl_sal (s : State) (b : Btl) : (s.setBtl b).sal = s.sal := rfl
@[simp] theorem State.setBtl_pfs (s : State) (b : Btl) : (s.setBtl b).pfs = s.pfs := rfl
@[simp] theorem State.setBtl_jobs (s : State) (b : Btl) : (s.setBtl b).jobs = s.jobs := rfl
@[simp] theorem State.setBtl_locks (s : State) (b : Btl) : (s.setBtl b).locks = s.locks := rfl
@[simp] theorem State.setBtl_cbi (s : State) (b : Btl) : (s.setBtl b).cbi = s.cbi := rfl
@[simp] theorem State.setBtl_fifos (s : State) (b : Btl) : (s.setBtl b).fifos = s.fifos := rfl
@[simp] theorem State.setBtl_btl (s : State) (b : Btl) : (s.setBtl b).btl = b := rfl
@[simp] theorem State.setBtl_free (s : State) (b : Btl) : (s.setBtl b).free = s.free := rfl
@[simp] theorem State.setBtl_pending (s : State) (b : Btl) : (s.setBtl b).pending = s.pending := rfl

/-! ### setHwi -/

@[simp] theorem State.setHwi_hwi (s : State) (h : Hwi) : (s.setHwi h).hwi = h := rfl
@[simp] theorem State.setHwi_chans (s : State) (h : Hwi) : (s.setHwi h).chans = s.chans := rfl
@[simp] theorem State.setHwi_sal (s : State) (h : Hwi) : (s.setHwi h).sal = s.sal := rfl
@[simp] theorem State.setHwi_pfs (s : State) (h : Hwi) : (s.setHwi h).pfs = s.pfs := rfl
@[simp] theorem State.setHwi_jobs (s : State) (h : Hwi) : (s.setHwi h).jobs = s.jobs := rfl
@[simp] theorem State.setHwi_locks (s : State) (h : Hwi) : (s.setHwi h).locks = s.locks := rfl
@[simp] theorem State.setHwi_cbi (s : State) (h : Hwi) : (s.setHwi h).cbi = s.cbi := rfl
@[simp] theorem State.setHwi_fifos (s : State) (h : Hwi) : (s.setHwi h).fifos = s.fifos := rfl
@[simp] theorem State.setHwi_btl (s : State) (h : Hwi) : (s.setHwi h).btl = s.btl := rfl
@[simp] theorem State.setHwi_free (s : State) (h : Hwi) : (s.setHwi h).free = s.free := rfl
@[simp] theorem State.setHwi_pending (s : State) (h : Hwi) : (s.setHwi h).pending = s.pending := rfl

/-! ### setJobs -/

@[simp] theorem State.setJobs_hwi (s : State) (js : List Job) : (s.setJobs js).hwi = s.hwi := rfl
@[simp] theorem State.setJobs_chans (s : State) (js : List Job) : (s.setJobs js).chans = s.chans := rfl
@[simp] theorem State.setJobs_sal (s : State) (js : List Job) : (s.setJobs js).sal = s.sal := rfl
@[simp] theorem State.setJobs_pfs (s : State) (js : List Job) : (s.setJobs js).pfs = s.pfs := rfl
@[simp] theorem State.setJobs_jobs (s : State) (js : List Job) : (s.setJobs js).jobs = js := rfl
@[simp] theorem State.setJobs_locks (s : State) (js : List Job) : (s.setJobs js).locks = s.locks := rfl
@[simp] theorem State.setJobs_cbi (s : State) (js : List Job) : (s.setJobs js).cbi = s.cbi := rfl
@[simp] theorem State.setJobs_fifos (s : State) (js : List Job) : (s.setJobs js).fifos = s.fifos := rfl
@[simp] theorem State.setJobs_btl (s : State) (js : List Job) : (s.setJobs js).btl = s.btl := rfl
@[simp] theorem State.setJobs_free (s : State) (js : List Job) : (s.setJobs js).free = s.free := rfl
@[simp] theorem State.setJobs_pending (s : State) (js : List Job) : (s.setJobs js).pending = s.pending := rfl

/-! ### modChan -/

@[simp] theorem State.modChan_hwi (s : State) (c : Chan) (f : Context → Context) : (s.modChan c f).hwi = s.hwi := rfl
@[simp] theorem State.modChan_chans (s : State) (c : Chan) (f : Context → Context) : (s.modChan c f).chans = s.chans.set c (f s.chans[c]) := rfl
@[simp] theorem State.modChan_sal (s : State) (c : Chan) (f : Context → Context) : (s.modChan c f).sal = s.sal := rfl
@[simp] theorem State.modChan_pfs (s : State) (c : Chan) (f : Context → Context) : (s.modChan c f).pfs = s.pfs := rfl
@[simp] theorem State.modChan_jobs (s : State) (c : Chan) (f : Context → Context) : (s.modChan c f).jobs = s.jobs := rfl
@[simp] theorem State.modChan_locks (s : State) (c : Chan) (f : Context → Context) : (s.modChan c f).locks = s.locks := rfl
@[simp] theorem State.modChan_cbi (s : State) (c : Chan) (f : Context → Context) : (s.modChan c f).cbi = s.cbi := rfl
@[simp] theorem State.modChan_fifos (s : State) (c : Chan) (f : Context → Context) : (s.modChan c f).fifos = s.fifos := rfl
@[simp] theorem State.modChan_btl (s : State) (c : Chan) (f : Context → Context) : (s.modChan c f).btl = s.btl := rfl
@[simp] theorem State.modChan_free (s : State) (c : Chan) (f : Context → Context) : (s.modChan c f).free = s.free := rfl
@[simp] theorem State.modChan_pending (s : State) (c : Chan) (f : Context → Context) : (s.modChan c f).pending = s.pending := rfl

/-! ### Numbered places after an update -/

/-- A place of a vector after an update of a place. -/
theorem getElem_set_fin {α : Type} {n : Nat} (v : Vector α n) (i j : Fin n) (x : α) :
    (v.set i x)[j] = if i = j then x else v[j] := by
  simp [Vector.getElem_set, Fin.ext_iff]

@[simp] theorem getElem_set_same {α : Type} {n : Nat} (v : Vector α n) (i : Fin n) (x : α) : (v.set i x)[i] = x := by
  simp

@[simp] theorem getElem_set_other {α : Type} {n : Nat} (v : Vector α n) (i j : Fin n) (x : α) (h : i ≠ j) :
    (v.set i x)[j] = v[j] := by
  rw [getElem_set_fin, if_neg h]

end Sys2Proof.Machine
end

