-- ==== Sys2Proof/Laws/Keeps.lean ====
section
/-! SUPPORT. For each shared operation, the blocks it leaves as they are: one lemma an operation, which simp reads as one
rewrite a block. -/

namespace Sys2Proof.Machine

/-- A fold keeps what each of its steps keeps. -/
theorem foldl_keeps {α β : Type} (f : State → α → State) (g : State → β) (h : ∀ s a, g (f s a) = g s) (l : List α)
    (s : State) : g (l.foldl f s) = g s := by
  induction l generalizing s with
  | nil => rfl
  | cons a t ih => rw [List.foldl_cons, ih, h]

@[simp] theorem evalLine_keeps (k : Ctl) (s : State) :
    (evalLine k s).hwi = s.hwi ∧ (evalLine k s).chans = s.chans ∧ (evalLine k s).sal = s.sal ∧
    (evalLine k s).pfs = s.pfs ∧ (evalLine k s).jobs = s.jobs ∧ (evalLine k s).locks = s.locks ∧
    (evalLine k s).cbi = s.cbi ∧ (evalLine k s).btl = s.btl ∧ (evalLine k s).free = s.free ∧
    (evalLine k s).pending = s.pending := by
  simp [evalLine]

@[simp] theorem postTo_keeps (k : Ctl) (e : EventKind) (c : Option Chan) (d : Nat) (s : State) :
    (postTo k e c d s).hwi = s.hwi ∧ (postTo k e c d s).chans = s.chans ∧ (postTo k e c d s).sal = s.sal ∧
    (postTo k e c d s).pfs = s.pfs ∧ (postTo k e c d s).jobs = s.jobs ∧ (postTo k e c d s).locks = s.locks ∧
    (postTo k e c d s).cbi = s.cbi ∧ (postTo k e c d s).btl = s.btl ∧ (postTo k e c d s).free = s.free ∧
    (postTo k e c d s).pending = s.pending := by
  unfold postTo; split <;> simp

@[simp] theorem postAll_keeps (e : EventKind) (c : Option Chan) (d : Nat) (s : State) :
    (postAll e c d s).hwi = s.hwi ∧ (postAll e c d s).chans = s.chans ∧ (postAll e c d s).sal = s.sal ∧
    (postAll e c d s).pfs = s.pfs ∧ (postAll e c d s).jobs = s.jobs ∧ (postAll e c d s).locks = s.locks ∧
    (postAll e c d s).cbi = s.cbi ∧ (postAll e c d s).btl = s.btl ∧ (postAll e c d s).free = s.free ∧
    (postAll e c d s).pending = s.pending := by
  unfold postAll
  refine ⟨?_, ?_, ?_, ?_, ?_, ?_, ?_, ?_, ?_, ?_⟩ <;> exact foldl_keeps _ _ (fun s a => by simp) _ s

@[simp] theorem postOwner_keeps (c : Chan) (e : EventKind) (d : Nat) (s : State) :
    (postOwner c e d s).hwi = s.hwi ∧ (postOwner c e d s).chans = s.chans ∧ (postOwner c e d s).sal = s.sal ∧
    (postOwner c e d s).pfs = s.pfs ∧ (postOwner c e d s).jobs = s.jobs ∧ (postOwner c e d s).locks = s.locks ∧
    (postOwner c e d s).cbi = s.cbi ∧ (postOwner c e d s).btl = s.btl ∧ (postOwner c e d s).free = s.free ∧
    (postOwner c e d s).pending = s.pending := by
  unfold postOwner; split <;> simp

@[simp] theorem makeDeferred_keeps (rq : Request) (s : State) :
    (makeDeferred rq s).hwi = s.hwi ∧ (makeDeferred rq s).chans = s.chans ∧ (makeDeferred rq s).sal = s.sal ∧
    (makeDeferred rq s).pfs = s.pfs ∧ (makeDeferred rq s).jobs = s.jobs ∧ (makeDeferred rq s).locks = s.locks ∧
    (makeDeferred rq s).fifos = s.fifos ∧ (makeDeferred rq s).btl = s.btl ∧ (makeDeferred rq s).free = s.free ∧
    (makeDeferred rq s).pending = s.pending := by
  simp [makeDeferred]

@[simp] theorem postOutcome_keeps (k : Ctl) (t : Tag) (o : Result) (ws : List Word) (s : State) :
    (postOutcome k t o ws s).hwi = s.hwi ∧ (postOutcome k t o ws s).chans = s.chans ∧
    (postOutcome k t o ws s).sal = s.sal ∧ (postOutcome k t o ws s).pfs = s.pfs ∧
    (postOutcome k t o ws s).jobs = s.jobs ∧ (postOutcome k t o ws s).locks = s.locks ∧
    (postOutcome k t o ws s).fifos = s.fifos ∧ (postOutcome k t o ws s).btl = s.btl ∧
    (postOutcome k t o ws s).free = s.free ∧ (postOutcome k t o ws s).pending = s.pending := by
  simp [postOutcome]

@[simp] theorem postLink_keeps (c : Chan) (l : Option Tag) (o : Result) (ws : List Word) (s : State) :
    (postLink c l o ws s).hwi = s.hwi ∧ (postLink c l o ws s).chans = s.chans ∧
    (postLink c l o ws s).sal = s.sal ∧ (postLink c l o ws s).pfs = s.pfs ∧ (postLink c l o ws s).jobs = s.jobs ∧
    (postLink c l o ws s).locks = s.locks ∧ (postLink c l o ws s).fifos = s.fifos ∧
    (postLink c l o ws s).btl = s.btl ∧ (postLink c l o ws s).free = s.free ∧
    (postLink c l o ws s).pending = s.pending := by
  unfold postLink; split <;> simp

@[simp] theorem completeTraining_keeps (c : Chan) (o : Result) (s : State) :
    (completeTraining c o s).hwi = s.hwi ∧ (completeTraining c o s).sal = s.sal ∧
    (completeTraining c o s).pfs = s.pfs ∧ (completeTraining c o s).jobs = s.jobs ∧
    (completeTraining c o s).locks = s.locks ∧ (completeTraining c o s).fifos = s.fifos ∧
    (completeTraining c o s).btl = s.btl ∧ (completeTraining c o s).free = s.free ∧
    (completeTraining c o s).pending = s.pending := by
  unfold completeTraining; split <;> simp

@[simp] theorem completeBind_keeps (c : Chan) (o : Result) (s : State) :
    (completeBind c o s).hwi = s.hwi ∧ (completeBind c o s).sal = s.sal ∧ (completeBind c o s).pfs = s.pfs ∧
    (completeBind c o s).jobs = s.jobs ∧ (completeBind c o s).locks = s.locks ∧
    (completeBind c o s).fifos = s.fifos ∧ (completeBind c o s).btl = s.btl ∧ (completeBind c o s).free = s.free ∧
    (completeBind c o s).pending = s.pending := by
  simp [completeBind]

@[simp] theorem completeRelease_keeps (c : Chan) (o : Result) (n : Nat) (k : Option Key) (s : State) :
    (completeRelease c o n k s).hwi = s.hwi ∧ (completeRelease c o n k s).sal = s.sal ∧
    (completeRelease c o n k s).pfs = s.pfs ∧ (completeRelease c o n k s).jobs = s.jobs ∧
    (completeRelease c o n k s).locks = s.locks ∧ (completeRelease c o n k s).fifos = s.fifos ∧
    (completeRelease c o n k s).btl = s.btl ∧ (completeRelease c o n k s).free = s.free ∧
    (completeRelease c o n k s).pending = s.pending := by
  simp [completeRelease]

@[simp] theorem emptyRecord_keeps (r : Rec) (s : State) :
    (emptyRecord r s).hwi = s.hwi ∧ (emptyRecord r s).sal = s.sal ∧ (emptyRecord r s).jobs = s.jobs ∧
    (emptyRecord r s).locks = s.locks ∧ (emptyRecord r s).cbi = s.cbi ∧ (emptyRecord r s).fifos = s.fifos ∧
    (emptyRecord r s).btl = s.btl ∧ (emptyRecord r s).free = s.free ∧ (emptyRecord r s).pending = s.pending := by
  unfold emptyRecord; split <;> simp

@[simp] theorem cancelJob_keeps (c : Chan) (s : State) :
    (cancelJob c s).hwi = s.hwi ∧ (cancelJob c s).chans = s.chans ∧ (cancelJob c s).sal = s.sal ∧
    (cancelJob c s).pfs = s.pfs ∧ (cancelJob c s).locks = s.locks ∧ (cancelJob c s).cbi = s.cbi ∧
    (cancelJob c s).fifos = s.fifos ∧ (cancelJob c s).btl = s.btl ∧ (cancelJob c s).free = s.free ∧
    (cancelJob c s).pending = s.pending := by
  simp [cancelJob]

@[simp] theorem queueLoad_keeps (c : Chan) (k : Key) (r : Rec) (s : State) :
    (queueLoad c k r s).hwi = s.hwi ∧ (queueLoad c k r s).sal = s.sal ∧ (queueLoad c k r s).locks = s.locks ∧
    (queueLoad c k r s).cbi = s.cbi ∧ (queueLoad c k r s).fifos = s.fifos ∧ (queueLoad c k r s).btl = s.btl ∧
    (queueLoad c k r s).free = s.free ∧ (queueLoad c k r s).pending = s.pending := by
  simp [queueLoad]

@[simp] theorem enterGranted_keeps (c : Chan) (s : State) :
    (enterGranted c s).hwi = s.hwi ∧ (enterGranted c s).sal = s.sal ∧ (enterGranted c s).locks = s.locks ∧
    (enterGranted c s).fifos = s.fifos ∧ (enterGranted c s).btl = s.btl ∧ (enterGranted c s).free = s.free ∧
    (enterGranted c s).pending = s.pending := by
  unfold enterGranted; split <;> simp

@[simp] theorem grant_keeps (c : Chan) (n m : Nat) (s : State) :
    (grant c n m s).hwi = s.hwi ∧ (grant c n m s).locks = s.locks ∧ (grant c n m s).fifos = s.fifos ∧
    (grant c n m s).btl = s.btl ∧ (grant c n m s).free = s.free ∧ (grant c n m s).pending = s.pending := by
  simp [grant]

theorem recheckFrom_keeps (n : Nat) (s : State) :
    (recheckFrom n s).hwi = s.hwi ∧ (recheckFrom n s).locks = s.locks ∧ (recheckFrom n s).fifos = s.fifos ∧
    (recheckFrom n s).btl = s.btl ∧ (recheckFrom n s).free = s.free ∧ (recheckFrom n s).pending = s.pending := by
  induction n generalizing s with
  | zero => simp [recheckFrom]
  | succ n ih =>
    unfold recheckFrom
    split
    · simp
    · split
      · simp [ih]
      · simp

@[simp] theorem recheck_keeps  (s : State) :
    (recheck s).hwi = s.hwi ∧ (recheck s).locks = s.locks ∧ (recheck s).fifos = s.fifos ∧
    (recheck s).btl = s.btl ∧ (recheck s).free = s.free ∧ (recheck s).pending = s.pending := by
  exact recheckFrom_keeps _ s

@[simp] theorem removeWait_keeps (c : Chan) (s : State) :
    (removeWait c s).hwi = s.hwi ∧ (removeWait c s).chans = s.chans ∧ (removeWait c s).pfs = s.pfs ∧
    (removeWait c s).jobs = s.jobs ∧ (removeWait c s).locks = s.locks ∧ (removeWait c s).cbi = s.cbi ∧
    (removeWait c s).fifos = s.fifos ∧ (removeWait c s).btl = s.btl ∧ (removeWait c s).free = s.free ∧
    (removeWait c s).pending = s.pending := by
  simp [removeWait]

@[simp] theorem emptySlots_keeps (c : Chan) (s : State) :
    (emptySlots c s).chans = s.chans ∧ (emptySlots c s).sal = s.sal ∧ (emptySlots c s).pfs = s.pfs ∧
    (emptySlots c s).jobs = s.jobs ∧ (emptySlots c s).locks = s.locks ∧ (emptySlots c s).cbi = s.cbi ∧
    (emptySlots c s).fifos = s.fifos ∧ (emptySlots c s).btl = s.btl ∧ (emptySlots c s).free = s.free ∧
    (emptySlots c s).pending = s.pending := by
  simp [emptySlots]

@[simp] theorem clearHeld_keeps (c : Chan) (s : State) :
    (clearHeld c s).hwi = s.hwi ∧ (clearHeld c s).chans = s.chans ∧ (clearHeld c s).sal = s.sal ∧
    (clearHeld c s).pfs = s.pfs ∧ (clearHeld c s).jobs = s.jobs ∧ (clearHeld c s).cbi = s.cbi ∧
    (clearHeld c s).fifos = s.fifos ∧ (clearHeld c s).btl = s.btl ∧ (clearHeld c s).free = s.free ∧
    (clearHeld c s).pending = s.pending := by
  unfold clearHeld
  refine ⟨?_, ?_, ?_, ?_, ?_, ?_, ?_, ?_, ?_, ?_⟩ <;> exact foldl_keeps _ _ (fun s a => by split <;> [rfl; (split <;> simp)]) _ s

@[simp] theorem unbindProfile_keeps (c : Chan) (s : State) :
    (unbindProfile c s).hwi = s.hwi ∧ (unbindProfile c s).chans = s.chans ∧ (unbindProfile c s).sal = s.sal ∧
    (unbindProfile c s).jobs = s.jobs ∧ (unbindProfile c s).locks = s.locks ∧ (unbindProfile c s).cbi = s.cbi ∧
    (unbindProfile c s).fifos = s.fifos ∧ (unbindProfile c s).btl = s.btl ∧ (unbindProfile c s).free = s.free ∧
    (unbindProfile c s).pending = s.pending := by
  unfold unbindProfile
  refine ⟨?_, ?_, ?_, ?_, ?_, ?_, ?_, ?_, ?_, ?_⟩ <;> exact foldl_keeps _ _ (fun s a => by split <;> simp) _ s

@[simp] theorem enterFree_keeps (c : Chan) (s : State) :
    (enterFree c s).jobs = s.jobs ∧ (enterFree c s).cbi = s.cbi ∧ (enterFree c s).fifos = s.fifos ∧
    (enterFree c s).btl = s.btl ∧ (enterFree c s).free = s.free ∧ (enterFree c s).pending = s.pending := by
  simp [enterFree]

@[simp] theorem enterFault_keeps (c : Chan) (a : Nat) (s : State) :
    (enterFault c a s).hwi = s.hwi ∧ (enterFault c a s).sal = s.sal ∧ (enterFault c a s).pfs = s.pfs ∧
    (enterFault c a s).locks = s.locks ∧ (enterFault c a s).btl = s.btl ∧ (enterFault c a s).free = s.free ∧
    (enterFault c a s).pending = s.pending := by
  unfold enterFault; dsimp only; split <;> simp

@[simp] theorem applyCorrections_keeps (c : Chan) (rd : List TapRead) (s : State) :
    (applyCorrections c rd s).hwi = s.hwi ∧ (applyCorrections c rd s).pfs = s.pfs ∧
    (applyCorrections c rd s).jobs = s.jobs ∧ (applyCorrections c rd s).locks = s.locks ∧
    (applyCorrections c rd s).cbi = s.cbi ∧ (applyCorrections c rd s).btl = s.btl ∧
    (applyCorrections c rd s).free = s.free ∧ (applyCorrections c rd s).pending = s.pending := by
  unfold applyCorrections; dsimp only; split
  · simp
  · split <;> simp

@[simp] theorem unholdChan_keeps (l : Lock) (s : State) :
    (unholdChan l s).hwi = s.hwi ∧ (unholdChan l s).sal = s.sal ∧ (unholdChan l s).pfs = s.pfs ∧
    (unholdChan l s).jobs = s.jobs ∧ (unholdChan l s).locks = s.locks ∧ (unholdChan l s).cbi = s.cbi ∧
    (unholdChan l s).fifos = s.fifos ∧ (unholdChan l s).btl = s.btl ∧ (unholdChan l s).free = s.free ∧
    (unholdChan l s).pending = s.pending := by
  unfold unholdChan; split <;> simp

@[simp] theorem dropFill_keeps (l : Lock) (s : State) :
    (dropFill l s).hwi = s.hwi ∧ (dropFill l s).sal = s.sal ∧ (dropFill l s).jobs = s.jobs ∧
    (dropFill l s).locks = s.locks ∧ (dropFill l s).cbi = s.cbi ∧ (dropFill l s).fifos = s.fifos ∧
    (dropFill l s).btl = s.btl ∧ (dropFill l s).free = s.free ∧ (dropFill l s).pending = s.pending := by
  unfold dropFill; split
  · split
    · split <;> simp
    · simp
  · simp

@[simp] theorem endLock_keeps (k : Ctl) (s : State) :
    (endLock k s).hwi = s.hwi ∧ (endLock k s).sal = s.sal ∧ (endLock k s).pfs = s.pfs ∧
    (endLock k s).jobs = s.jobs ∧ (endLock k s).cbi = s.cbi ∧ (endLock k s).fifos = s.fifos ∧
    (endLock k s).btl = s.btl ∧ (endLock k s).free = s.free ∧ (endLock k s).pending = s.pending := by
  unfold endLock; split <;> simp

@[simp] theorem breakLock_keeps (k : Ctl) (l : Lock) (s : State) :
    (breakLock k l s).hwi = s.hwi ∧ (breakLock k l s).sal = s.sal ∧ (breakLock k l s).jobs = s.jobs ∧
    (breakLock k l s).cbi = s.cbi ∧ (breakLock k l s).btl = s.btl ∧ (breakLock k l s).free = s.free ∧
    (breakLock k l s).pending = s.pending := by
  simp [breakLock]

@[simp] theorem expireLock_keeps (k : Ctl) (s : State) :
    (expireLock k s).hwi = s.hwi ∧ (expireLock k s).sal = s.sal ∧ (expireLock k s).jobs = s.jobs ∧
    (expireLock k s).cbi = s.cbi ∧ (expireLock k s).btl = s.btl ∧ (expireLock k s).free = s.free ∧
    (expireLock k s).pending = s.pending := by
  unfold expireLock; split <;> simp

@[simp] theorem markerEffect_keeps (rq : Request) (o : LockObj) (p : Purpose) (h : Option Chan) (s : State) :
    (markerEffect rq o p h s).hwi = s.hwi ∧ (markerEffect rq o p h s).sal = s.sal ∧
    (markerEffect rq o p h s).pfs = s.pfs ∧ (markerEffect rq o p h s).jobs = s.jobs ∧
    (markerEffect rq o p h s).cbi = s.cbi ∧ (markerEffect rq o p h s).fifos = s.fifos ∧
    (markerEffect rq o p h s).btl = s.btl ∧ (markerEffect rq o p h s).free = s.free ∧
    (markerEffect rq o p h s).pending = s.pending := by
  unfold markerEffect; split
  · simp
  · split <;> simp
  · split <;> simp
  · simp

@[simp] theorem lockStep_keeps (rq : Request) (o : LockObj) (oc : Option Answer) (m : Lock → Bool) (s : State) :
    ((lockStep rq o oc m s).1).hwi = s.hwi ∧ ((lockStep rq o oc m s).1).chans = s.chans ∧
    ((lockStep rq o oc m s).1).sal = s.sal ∧ ((lockStep rq o oc m s).1).pfs = s.pfs ∧
    ((lockStep rq o oc m s).1).jobs = s.jobs ∧ ((lockStep rq o oc m s).1).cbi = s.cbi ∧
    ((lockStep rq o oc m s).1).fifos = s.fifos ∧ ((lockStep rq o oc m s).1).btl = s.btl ∧
    ((lockStep rq o oc m s).1).free = s.free ∧ ((lockStep rq o oc m s).1).pending = s.pending := by
  unfold lockStep; split
  · simp
  · split
    · split <;> simp
    · simp
  all_goals
    split
    · simp
    · split
      · simp
      · split <;> simp

@[simp] theorem answerFirst_keeps (a : Answer) (s : State) :
    (answerFirst a s).hwi = s.hwi ∧ (answerFirst a s).chans = s.chans ∧ (answerFirst a s).sal = s.sal ∧
    (answerFirst a s).pfs = s.pfs ∧ (answerFirst a s).jobs = s.jobs ∧ (answerFirst a s).locks = s.locks ∧
    (answerFirst a s).fifos = s.fifos ∧ (answerFirst a s).btl = s.btl ∧ (answerFirst a s).free = s.free ∧
    (answerFirst a s).pending = s.pending := by
  simp [answerFirst]

end Sys2Proof.Machine
end

