-- ==== Sys2Proof/Laws/Memory.lean ====
section
/-! SUPPORT. The two memories: a read after a write, and the canonical form kept by every memory operation. -/

namespace Sys2Proof.Machine

/-! ### Cells -/

variable {α : Type}

/-- Listed addresses rise strictly. -/
abbrev Rising (m : List (Nat × α)) : Prop := m.Pairwise fun p q => p.1 < q.1

/-- An address below every listed one is unlisted. -/
theorem cellRead_below (blank : α) (m : List (Nat × α)) (a : Nat) (h : ∀ p ∈ m, a < p.1) : cellRead blank m a = blank := by
  induction m with
  | nil => rfl
  | cons p t ih =>
    have hp := h p (by simp)
    rw [cellRead, if_neg (by omega), ih fun q hq => h q (by simp [hq])]

/-- A write lists no address but its own beside those listed. -/
theorem mem_cellWrite [DecidableEq α] (blank : α) (a : Nat) (v : α) (m : List (Nat × α)) (p : Nat × α)
    (h : p ∈ cellWrite blank a v m) : (p = (a, v) ∧ v ≠ blank) ∨ p ∈ m := by
  induction m with
  | nil => unfold cellWrite at h; split at h <;> simp_all
  | cons q t ih =>
    unfold cellWrite at h
    split at h
    · split at h <;> simp_all
    · split at h
      · split at h <;> simp_all
        tauto
      · simp only [List.mem_cons] at h ⊢
        rcases h with h | h
        · exact .inr (.inl h)
        · rcases ih h with h | h
          · exact .inl h
          · exact .inr (.inr h)

/-- A write keeps the canonical form. -/
theorem cellWrite_wf [DecidableEq α] (blank : α) (size a : Nat) (v : α) (m : List (Nat × α)) (ha : a < size)
    (h : Memory.wf blank size m) : Memory.wf blank size (cellWrite blank a v m) := by
  refine ⟨?_, fun p hp => ?_⟩
  · obtain ⟨h, -⟩ := h
    induction m with
    | nil => unfold cellWrite; split <;> simp
    | cons q t ih =>
      obtain ⟨hq, ht⟩ := List.pairwise_cons.1 h
      unfold cellWrite
      split
      · split
        · exact h
        · refine List.pairwise_cons.2 ⟨fun p hp => ?_, h⟩
          rcases List.mem_cons.1 hp with rfl | hp
          · simpa
          · exact Nat.lt_trans ‹_› (hq p hp)
      · split
        · subst_vars
          split
          · exact ht
          · exact List.pairwise_cons.2 ⟨hq, ht⟩
        · refine List.pairwise_cons.2 ⟨fun p hp => ?_, ih ht⟩
          rcases mem_cellWrite _ _ _ _ _ hp with ⟨rfl, -⟩ | hp
          · simp only; omega
          · exact hq p hp
  · rcases mem_cellWrite _ _ _ _ _ hp with ⟨rfl, hv⟩ | hp
    · exact ⟨ha, hv⟩
    · exact h.2 p hp

/-- A read after a write. -/
theorem cellRead_cellWrite [DecidableEq α] (blank : α) (a b : Nat) (v : α) (m : List (Nat × α)) (h : Rising m) :
    cellRead blank (cellWrite blank a v m) b = if b = a then v else cellRead blank m b := by
  induction m with
  | nil => unfold cellWrite; split <;> simp_all [cellRead, eq_comm]
  | cons q t ih =>
    obtain ⟨hq, ht⟩ := List.pairwise_cons.1 h
    unfold cellWrite
    split
    · split
      · split
        · subst_vars
          refine cellRead_below _ _ _ fun p hp => ?_
          rcases List.mem_cons.1 hp with rfl | hp
          · simpa
          · exact Nat.lt_trans ‹_› (hq p hp)
        · rfl
      · simp [cellRead, eq_comm]
    · split
      · subst_vars
        split
        · by_cases hb : b = q.1
          · rw [if_pos hb, hb, cellRead_below _ _ _ hq, ‹v = blank›]
          · rw [if_neg hb, cellRead, if_neg (Ne.symm hb)]
        · by_cases hb : b = q.1
          · rw [if_pos hb, cellRead, if_pos hb.symm]
          · rw [if_neg hb, cellRead, cellRead, if_neg (Ne.symm hb), if_neg (Ne.symm hb)]
      · simp only [cellRead, ih ht]
        split
        · rw [if_neg (by omega)]
        · rfl

/-- Consecutive writes keep the canonical form. -/
theorem cellWriteAll_wf [DecidableEq α] (blank : α) (size a : Nat) (vs : List α) (m : List (Nat × α))
    (ha : a + vs.length ≤ size) (h : Memory.wf blank size m) : Memory.wf blank size (cellWriteAll blank a vs m) := by
  induction vs generalizing a m with
  | nil => exact h
  | cons v vs ih =>
    simp only [List.length_cons] at ha
    exact ih _ _ (by omega) (cellWrite_wf _ _ _ _ _ (by omega) h)

/-- A read after consecutive writes. -/
theorem cellRead_cellWriteAll [DecidableEq α] (blank : α) (size a b : Nat) (vs : List α) (m : List (Nat × α))
    (ha : a + vs.length ≤ size) (h : Memory.wf blank size m) :
    cellRead blank (cellWriteAll blank a vs m) b = if a ≤ b then vs.getD (b - a) (cellRead blank m b)
      else cellRead blank m b := by
  induction vs generalizing a m with
  | nil => simp [cellWriteAll]
  | cons v vs ih =>
    simp only [List.length_cons] at ha
    rw [cellWriteAll, ih _ _ (by omega) (cellWrite_wf _ _ _ _ _ (by omega) h), cellRead_cellWrite _ _ _ _ _ h.1]
    by_cases hab : b = a
    · subst hab; simp
    · by_cases hle : a ≤ b
      · obtain ⟨d, rfl⟩ : ∃ d, b = a + 1 + d := ⟨b - (a + 1), by omega⟩
        have h1 : a + 1 ≤ a + 1 + d := by omega
        simp only [h1, hle, hab, if_true, if_false]
        rw [show a + 1 + d - (a + 1) = d by omega, show a + 1 + d - a = d + 1 by omega, List.getD_cons_succ]
      · rw [if_neg (by omega), if_neg hab, if_neg hle]

/-! ### The stores -/

/-- A tap write keeps the form. -/
theorem writeTap_ok (a : Nat) (v : Word) (m : Sal) (ha : a < 8192) (h : MemoryOk m) : MemoryOk (writeTap a v m) :=
  ⟨cellWrite_wf _ _ _ _ _ ha h.1, h.2⟩

/-- A segment write keeps the form. -/
theorem writeSegment_ok (g : Seg) (vs : List Word) (m : Sal) (h : MemoryOk m) : MemoryOk (writeSegment g vs m) :=
  ⟨cellWriteAll_wf _ _ _ _ _ (by simp; omega) h.1, h.2⟩

/-- A write over a list of segments keeps the form. -/
theorem writeSegments_ok (gs : List Seg) (vs : List Word) (m : Sal) (h : MemoryOk m) :
    MemoryOk (writeSegments gs vs m) := by
  induction gs generalizing vs m with
  | nil => exact h
  | cons g gs ih => exact ih _ _ (writeSegment_ok g vs m h)

/-- A fold keeps the form when each of its steps does. -/
theorem foldl_ok {β : Type} (f : Sal → β → Sal) (hf : ∀ m b, MemoryOk m → MemoryOk (f m b)) (l : List β) (m : Sal)
    (h : MemoryOk m) : MemoryOk (l.foldl f m) := by
  induction l generalizing m with
  | nil => exact h
  | cons b l ih => exact ih _ (hf m b h)

/-- Zeroing segments keeps the form. -/
theorem zeroSegments_ok (gs : List Seg) (m : Sal) (h : MemoryOk m) : MemoryOk (zeroSegments gs m) :=
  foldl_ok _ (fun m g h => writeSegment_ok g zeroChunk m h) gs m h

/-- Zeroing a page keeps the form. -/
theorem zeroPage_ok (p : Page) (m : Sal) (h : MemoryOk m) : MemoryOk (zeroPage p m) := by
  unfold zeroPage
  generalize hv : List.replicate 256 (parityEncode 0) = vs
  have hl : vs.length = 256 := by rw [← hv, List.length_replicate]
  exact ⟨h.1, cellWriteAll_wf _ _ _ _ _ (by omega) h.2⟩

/-- Zeroing pages keeps the form. -/
theorem zeroPages_ok (ps : List Page) (m : Sal) (h : MemoryOk m) : MemoryOk (zeroPages ps m) :=
  foldl_ok _ (fun m p h => zeroPage_ok p m h) ps m h

/-- A sample write keeps the form. -/
theorem writeSample_ok (p : Page) (off : Nat) (v : Int) (m : Sal) (h : MemoryOk m) : MemoryOk (writeSample p off v m) :=
  ⟨h.1, cellWrite_wf _ _ _ _ _ (by omega) h.2⟩

/-- Write-back of words read from one segment keeps the form. -/
theorem writeBack_ok (rd : List TapRead) (m : Sal) (hr : ∀ r ∈ rd, r.addr < 8192) (h : MemoryOk m) :
    MemoryOk (writeBack rd m) := by
  induction rd generalizing m with
  | nil => exact h
  | cons r rd ih =>
    refine ih _ (fun q hq => hr q (by simp [hq])) ?_
    dsimp only
    split
    · exact writeTap_ok _ _ _ (hr r (by simp)) h
    · exact h

/-- The addresses of a read of segments lie in the store. -/
theorem readSegments_addr (m : Sal) (gs : List Seg) : ∀ r ∈ readSegments m gs, r.addr < 8192 := by
  intro r hr
  simp only [readSegments, readSegment, List.mem_flatMap, List.mem_map, List.mem_range] at hr
  obtain ⟨g, -, i, hi, rfl⟩ := hr
  dsimp only
  omega

/-- The addresses of a read of one segment lie in the store. -/
theorem readSegment_addr (m : Sal) (g : Seg) : ∀ r ∈ readSegment m g, r.addr < 8192 := fun r hr =>
  readSegments_addr m [g] r (by simpa [readSegments] using hr)

/-- Allocation keeps the form. -/
theorem allocate_ok (n p : Nat) (m : Sal) (h : MemoryOk m) : MemoryOk (allocate n p m) :=
  zeroPages_ok _ _ (zeroSegments_ok _ _ h)

/-- Unit initialisation keeps the form. -/
theorem unitInit_ok (x : Context) (m : Sal) (h : MemoryOk m) : MemoryOk (unitInit x m) := by
  unfold unitInit
  split
  · exact h
  · exact writeSegment_ok _ _ _ h

/-- Accounts do not touch the memories. -/
theorem credit_ok (o : Option Ctl) (n p : Nat) (m : Sal) (h : MemoryOk m) : MemoryOk (credit o n p m) := by
  unfold credit
  split
  · exact h
  · exact h

/-- Accounts do not touch the memories. -/
theorem debit_ok (o : Option Ctl) (n p : Nat) (m : Sal) (h : MemoryOk m) : MemoryOk (debit o n p m) := by
  unfold debit
  split
  · exact h
  · exact h

/-- Returned units keep their words (R117). -/
theorem returnUnits_ok (gs : List Seg) (ps : List Page) (m : Sal) (h : MemoryOk m) : MemoryOk (returnUnits gs ps m) := h

/-! ### The shared operations over the stores -/

/-- A grant keeps the form. -/
theorem grant_ok (c : Chan) (n p : Nat) (s : State) (h : MemoryOk s.sal) : MemoryOk (grant c n p s).sal := by
  have he (s : State) : (enterGranted c s).sal = s.sal := by simp [enterGranted]; split <;> simp [queueLoad, completeBind, postLink]; split <;> simp [postOutcome]
  rw [grant, he]
  exact unitInit_ok _ _ (credit_ok _ _ _ _ (allocate_ok _ _ _ h))

/-- The re-check keeps the form. -/
theorem recheckFrom_ok (n : Nat) (s : State) (h : MemoryOk s.sal) : MemoryOk (recheckFrom n s).sal := by
  induction n generalizing s with
  | zero => exact h
  | succ n ih =>
    unfold recheckFrom
    split
    · exact h
    · split
      · exact ih _ (grant_ok _ _ _ _ h)
      · exact h

/-- The re-check keeps the form. -/
theorem recheck_ok (s : State) (h : MemoryOk s.sal) : MemoryOk (recheck s).sal := recheckFrom_ok _ s h

end Sys2Proof.Machine
end

