-- ==== Sys2Proof/Laws/Stores.lean ====
section
/-! SUPPORT. What a word of either memory reads as after each operation over the stores (R100–R107). -/

namespace Sys2Proof.Machine

/-! ### The tap store -/

/-- Address a lies in the segment. -/
abbrev inSegment (g : Seg) (a : Nat) : Prop := 32 * g.val ≤ a ∧ a < 32 * g.val + 32

/-- A tap word after a write over a segment. -/
theorem tap_writeSegment (g : Seg) (vs : List Word) (m : Sal) (h : MemoryOk m) (a : Nat) :
    cellRead tapBlank (writeSegment g vs m).taps a = if inSegment g a then
      (((vs.take 32).map eccEncode).getD (a - 32 * g.val) (cellRead tapBlank m.taps a))
      else cellRead tapBlank m.taps a := by
  rw [writeSegment, cellRead_cellWriteAll _ 8192 _ _ _ _ (by simp; omega) h.1]
  by_cases h1 : 32 * g.val ≤ a
  · by_cases h2 : a < 32 * g.val + 32
    · rw [if_pos h1, if_pos ⟨h1, h2⟩]
    · rw [if_pos h1, if_neg (by tauto), List.getD_eq_default _ _ (by simp; omega)]
  · rw [if_neg h1, if_neg (by tauto)]

/-- A word of a segment after 32 words are written over it. -/
theorem tap_writeSegment_in (g : Seg) (vs : List Word) (m : Sal) (h : MemoryOk m) (i : Nat) (hi : i < 32)
    (hv : 32 ≤ vs.length) :
    cellRead tapBlank (writeSegment g vs m).taps (32 * g.val + i) = eccEncode (vs.getD i 0) := by
  rw [tap_writeSegment g vs m h, if_pos (by omega), Nat.add_sub_cancel_left,
    List.getD_eq_getElem _ _ (by simp; omega), List.getD_eq_getElem _ _ (by omega)]
  simp

/-- A word outside a segment after a write over it. -/
theorem tap_writeSegment_out (g : Seg) (vs : List Word) (m : Sal) (h : MemoryOk m) (a : Nat) (ha : ¬ inSegment g a) :
    cellRead tapBlank (writeSegment g vs m).taps a = cellRead tapBlank m.taps a := by
  rw [tap_writeSegment g vs m h, if_neg ha]

/-- A fold keeps what each of its steps keeps. -/
theorem foldl_keepsSal {α β : Type} (f : Sal → α → Sal) (g : Sal → β) (h : ∀ m a, g (f m a) = g m) (l : List α)
    (m : Sal) : g (l.foldl f m) = g m := by
  induction l generalizing m with
  | nil => rfl
  | cons a t ih => rw [List.foldl_cons, ih, h]

/-- Writes of segments touch the tap store alone. -/
@[simp] theorem writeSegment_keeps (g : Seg) (vs : List Word) (m : Sal) :
    (writeSegment g vs m).hist = m.hist ∧ (writeSegment g vs m).freeSegs = m.freeSegs ∧
      (writeSegment g vs m).freePages = m.freePages ∧ (writeSegment g vs m).heldSeg = m.heldSeg ∧
      (writeSegment g vs m).heldPage = m.heldPage ∧ (writeSegment g vs m).waitQ = m.waitQ := by
  simp [writeSegment]

@[simp] theorem zeroPage_keeps (p : Page) (m : Sal) :
    (zeroPage p m).taps = m.taps ∧ (zeroPage p m).freeSegs = m.freeSegs ∧ (zeroPage p m).freePages = m.freePages ∧
      (zeroPage p m).heldSeg = m.heldSeg ∧ (zeroPage p m).heldPage = m.heldPage ∧
      (zeroPage p m).waitQ = m.waitQ := by
  unfold zeroPage
  generalize List.replicate 256 (parityEncode 0) = vs
  simp

@[simp] theorem zeroSegments_keeps (gs : List Seg) (m : Sal) :
    (zeroSegments gs m).hist = m.hist ∧ (zeroSegments gs m).freeSegs = m.freeSegs ∧
      (zeroSegments gs m).freePages = m.freePages ∧ (zeroSegments gs m).heldSeg = m.heldSeg ∧
      (zeroSegments gs m).heldPage = m.heldPage ∧ (zeroSegments gs m).waitQ = m.waitQ := by
  unfold zeroSegments
  refine ⟨?_, ?_, ?_, ?_, ?_, ?_⟩ <;> exact foldl_keepsSal _ _ (fun m a => by simp [zeroSegment]) _ m

@[simp] theorem zeroPages_keeps (ps : List Page) (m : Sal) :
    (zeroPages ps m).taps = m.taps ∧ (zeroPages ps m).freeSegs = m.freeSegs ∧
      (zeroPages ps m).freePages = m.freePages ∧ (zeroPages ps m).heldSeg = m.heldSeg ∧
      (zeroPages ps m).heldPage = m.heldPage ∧ (zeroPages ps m).waitQ = m.waitQ := by
  unfold zeroPages
  refine ⟨?_, ?_, ?_, ?_, ?_, ?_⟩ <;> exact foldl_keepsSal _ _ (fun m a => by simp) _ m

/-- A tap word after a zeroing of segments (R102). -/
theorem tap_zeroSegments (gs : List Seg) (m : Sal) (h : MemoryOk m) (a : Nat) :
    (inSegments gs a → cellRead tapBlank (zeroSegments gs m).taps a = eccEncode 0) ∧
      (¬ inSegments gs a → cellRead tapBlank (zeroSegments gs m).taps a = cellRead tapBlank m.taps a) := by
  induction gs generalizing m with
  | nil => exact ⟨fun ⟨g, hg, _⟩ => by simp at hg, fun _ => rfl⟩
  | cons g gs ih =>
    have hm := writeSegment_ok g zeroChunk m h
    obtain ⟨ih1, ih2⟩ := ih (writeSegment g zeroChunk m) hm
    rw [show zeroSegments (g :: gs) m = zeroSegments gs (writeSegment g zeroChunk m) by
      simp only [zeroSegments, List.foldl_cons, zeroSegment]]
    refine ⟨fun ⟨g', hg', ha⟩ => ?_, fun hn => ?_⟩
    · by_cases hin : inSegments gs a
      · exact ih1 hin
      · rw [ih2 hin]
        rcases List.mem_cons.1 hg' with rfl | hg'
        · obtain ⟨i, rfl⟩ : ∃ i, a = 32 * g'.val + i := ⟨a - 32 * g'.val, by omega⟩
          have hi : i < 32 := by omega
          rw [tap_writeSegment_in g' zeroChunk m h i hi (by simp [zeroChunk])]
          rw [zeroChunk, List.getD_eq_getElem _ _ (by simpa using hi), List.getElem_replicate]
        · exact absurd ⟨g', hg', ha⟩ hin
    · rw [ih2 fun ⟨g', hg', ha⟩ => hn ⟨g', by simp [hg'], ha⟩]
      exact tap_writeSegment_out g zeroChunk m h a fun ha => hn ⟨g, by simp, ha⟩

/-- The 32 words of unit initialisation (R43). -/
theorem unitWords_getD (m i : Nat) (hi : i < 32) : (unitWords m).getD i 0 = if i = m then 16384 else 0 := by
  simp only [unitWords, List.getD_eq_getElem?_getD, List.getElem?_map, List.getElem?_range hi, Option.map_some,
    Option.getD_some]
  split <;> rfl

@[simp] theorem unitWords_length (m : Nat) : (unitWords m).length = 32 := by simp [unitWords]

@[simp] theorem unitInit_keeps (x : Context) (m : Sal) :
    (unitInit x m).hist = m.hist ∧ (unitInit x m).freeSegs = m.freeSegs ∧
      (unitInit x m).freePages = m.freePages ∧ (unitInit x m).heldSeg = m.heldSeg ∧
      (unitInit x m).heldPage = m.heldPage ∧ (unitInit x m).waitQ = m.waitQ := by
  unfold unitInit; split <;> simp

/-- A tap word of the equalizer segment after unit initialisation (R43). -/
theorem tap_unitInit_in (x : Context) (m : Sal) (h : MemoryOk m) (g : Seg) (hg : x.eqSeg = some g) (i : Nat)
    (hi : i < 32) :
    cellRead tapBlank (unitInit x m).taps (32 * g.val + i) = eccEncode (if i = x.par.mainTap then 16384 else 0) := by
  have e : unitInit x m = writeSegment g (unitWords x.par.mainTap) m := by rw [unitInit, hg]
  rw [e, tap_writeSegment_in g _ m h i hi (by simp), unitWords_getD _ _ hi]

/-- A tap word outside the equalizer segment after unit initialisation. -/
theorem tap_unitInit_out (x : Context) (m : Sal) (h : MemoryOk m) (a : Nat)
    (ha : ∀ g, x.eqSeg = some g → a < 32 * g.val ∨ 32 * g.val + 32 ≤ a) :
    cellRead tapBlank (unitInit x m).taps a = cellRead tapBlank m.taps a := by
  unfold unitInit
  split
  · rfl
  · exact tap_writeSegment_out _ _ _ h _ fun hin => by have := ha _ ‹_›; omega

/-- The equalizer segment is one of the channel's. -/
theorem eqSeg_mem (x : Context) (g : Seg) (h : x.eqSeg = some g) : g ∈ x.segs := by
  unfold Context.eqSeg at h
  split at h
  · exact List.mem_of_getElem? h
  · simp at h

/-! ### The history store -/

/-- A history word after a zeroing of pages (R102). -/
theorem hist_zeroPages (ps : List Page) (m : Sal) (h : MemoryOk m) (a : Nat) :
    (inPages ps a → cellRead histBlank (zeroPages ps m).hist a = parityEncode 0) ∧
      (¬ inPages ps a → cellRead histBlank (zeroPages ps m).hist a = cellRead histBlank m.hist a) := by
  induction ps generalizing m with
  | nil => exact ⟨fun ⟨p, hp, _⟩ => by simp at hp, fun _ => rfl⟩
  | cons p ps ih =>
    have hm := zeroPage_ok p m h
    obtain ⟨ih1, ih2⟩ := ih (zeroPage p m) hm
    have e : zeroPages (p :: ps) m = zeroPages ps (zeroPage p m) := by simp only [zeroPages, List.foldl_cons]
    have hr : cellRead histBlank (zeroPage p m).hist a =
        if 256 * p.val ≤ a ∧ a < 256 * p.val + 256 then parityEncode 0 else cellRead histBlank m.hist a := by
      unfold zeroPage
      generalize hv : List.replicate 256 (parityEncode 0) = vs
      have hl : vs.length = 256 := by rw [← hv, List.length_replicate]
      dsimp only
      rw [cellRead_cellWriteAll _ 65536 _ _ _ _ (by omega) h.2]
      by_cases h1 : 256 * p.val ≤ a
      · by_cases h2 : a < 256 * p.val + 256
        · rw [if_pos h1, if_pos ⟨h1, h2⟩, List.getD_eq_getElem _ _ (by omega)]
          have : ∀ v ∈ vs, v = parityEncode 0 := by rw [← hv]; exact fun v hv => List.eq_of_mem_replicate hv
          exact this _ (List.getElem_mem _)
        · rw [if_pos h1, if_neg (by tauto), List.getD_eq_default _ _ (by omega)]
      · rw [if_neg h1, if_neg (by tauto)]
    rw [e]
    refine ⟨fun ⟨q, hq, ha⟩ => ?_, fun hn => ?_⟩
    · by_cases hin : inPages ps a
      · exact ih1 hin
      · rw [ih2 hin, hr, if_pos]
        rcases List.mem_cons.1 hq with rfl | hq
        · exact ha
        · exact absurd ⟨q, hq, ha⟩ hin
    · rw [ih2 fun ⟨q, hq, ha⟩ => hn ⟨q, by simp [hq], ha⟩, hr, if_neg fun ha => hn ⟨p, by simp, ha⟩]

/-! ### Accounts and free sets -/

@[simp] theorem credit_keeps (o : Option Ctl) (n p : Nat) (m : Sal) :
    (credit o n p m).taps = m.taps ∧ (credit o n p m).hist = m.hist ∧ (credit o n p m).freeSegs = m.freeSegs ∧
      (credit o n p m).freePages = m.freePages ∧ (credit o n p m).waitQ = m.waitQ := by
  unfold credit setHeld; split <;> simp

@[simp] theorem debit_keeps (o : Option Ctl) (n p : Nat) (m : Sal) :
    (debit o n p m).taps = m.taps ∧ (debit o n p m).hist = m.hist ∧ (debit o n p m).freeSegs = m.freeSegs ∧
      (debit o n p m).freePages = m.freePages ∧ (debit o n p m).waitQ = m.waitQ := by
  unfold debit setHeld; split <;> simp

@[simp] theorem allocate_keeps (n p : Nat) (m : Sal) :
    (allocate n p m).freeSegs = m.freeSegs.drop n ∧ (allocate n p m).freePages = m.freePages.drop p ∧
      (allocate n p m).heldSeg = m.heldSeg ∧ (allocate n p m).heldPage = m.heldPage ∧
      (allocate n p m).waitQ = m.waitQ := by
  simp [allocate]

/-- A tap word after an allocation (R102). -/
theorem tap_allocate (n p : Nat) (m : Sal) (h : MemoryOk m) (a : Nat) :
    (inSegments (m.freeSegs.take n) a → cellRead tapBlank (allocate n p m).taps a = eccEncode 0) ∧
      (¬ inSegments (m.freeSegs.take n) a →
        cellRead tapBlank (allocate n p m).taps a = cellRead tapBlank m.taps a) := by
  rw [allocate, (zeroPages_keeps _ _).1]
  exact tap_zeroSegments (m.freeSegs.take n)
    { m with freeSegs := m.freeSegs.drop n, freePages := m.freePages.drop p } h a

/-- A history word after an allocation (R102). -/
theorem hist_allocate (n p : Nat) (m : Sal) (h : MemoryOk m) (a : Nat) :
    (inPages (m.freePages.take p) a → cellRead histBlank (allocate n p m).hist a = parityEncode 0) ∧
      (¬ inPages (m.freePages.take p) a →
        cellRead histBlank (allocate n p m).hist a = cellRead histBlank m.hist a) := by
  have hz := zeroSegments_ok (m.freeSegs.take n)
    { m with freeSegs := m.freeSegs.drop n, freePages := m.freePages.drop p } h
  have := hist_zeroPages (m.freePages.take p) _ hz a
  rwa [(zeroSegments_keeps _ _).1] at this

/-- Who is in a free set after units return (R117). -/
theorem mem_insertUnit (u v : Fin 256) (f : List (Fin 256)) : v ∈ insertUnit u f ↔ v = u ∨ v ∈ f := by
  induction f with
  | nil => simp [insertUnit]
  | cons w t ih =>
    unfold insertUnit
    split
    · simp
    · split
      · subst_vars; simp
      · simp only [List.mem_cons, ih]; tauto

/-- Who is in a free set after units return (R117). -/
theorem mem_insertUnits (us f : List (Fin 256)) (v : Fin 256) : v ∈ insertUnits us f ↔ v ∈ f ∨ v ∈ us := by
  unfold insertUnits
  induction us generalizing f with
  | nil => simp
  | cons u us ih => rw [List.foldl_cons, ih, mem_insertUnit, List.mem_cons]; tauto

/-- A unit that is not in a free set joins it once. -/
theorem insertUnit_perm (u : Fin 256) (f : List (Fin 256)) (h : u ∉ f) : (insertUnit u f).Perm (u :: f) := by
  induction f with
  | nil => simp [insertUnit]
  | cons w t ih =>
    rw [List.mem_cons, not_or] at h
    unfold insertUnit
    split
    · exact List.Perm.refl _
    · rw [if_neg h.1]
      exact ((ih h.2).cons w).trans (List.Perm.swap u w t)

/-- Distinct units outside a free set join it once each (R117). -/
theorem insertUnits_perm (us f : List (Fin 256)) (h : (us ++ f).Nodup) : (insertUnits us f).Perm (us ++ f) := by
  unfold insertUnits
  induction us generalizing f with
  | nil => simp
  | cons u us ih =>
    have h' := List.nodup_cons.1 (show (u :: (us ++ f)).Nodup from h)
    have hu : u ∉ f := fun hf => h'.1 (by simp [hf])
    have hp := insertUnit_perm u f hu
    rw [List.foldl_cons]
    have hn : (us ++ insertUnit u f).Nodup := by
      have : (us ++ insertUnit u f).Perm (u :: (us ++ f)) :=
        (hp.append_left us).trans List.perm_middle
      exact this.nodup_iff.2 h
    exact (ih _ hn).trans ((hp.append_left us).trans List.perm_middle)

/-- A free set that ascends still does after a unit returns (R102, R117). -/
theorem insertUnit_rises (u : Fin 256) (f : List (Fin 256)) (h : f.Pairwise (· < ·)) :
    (insertUnit u f).Pairwise (· < ·) := by
  induction f with
  | nil => simp [insertUnit]
  | cons w t ih =>
    obtain ⟨hw, ht⟩ := List.pairwise_cons.1 h
    unfold insertUnit
    split
    · next hu => exact List.pairwise_cons.2 ⟨fun v hv => (List.mem_cons.1 hv).elim (· ▸ hu) fun e => hu.trans (hw v e), h⟩
    · next hu =>
      split
      · exact h
      · next hne =>
        refine List.pairwise_cons.2 ⟨fun v hv => ?_, ih ht⟩
        rcases (mem_insertUnit u v t).1 hv with rfl | hv
        · exact lt_of_le_of_ne (not_lt.1 hu) fun e => hne e.symm
        · exact hw v hv

/-- A free set that ascends still does after units return (R102, R117). -/
theorem insertUnits_rises (us f : List (Fin 256)) (h : f.Pairwise (· < ·)) : (insertUnits us f).Pairwise (· < ·) := by
  unfold insertUnits
  induction us generalizing f with
  | nil => exact h
  | cons u us ih => exact ih _ (insertUnit_rises u f h)

/-! ### Parity (R107) -/

/-- One more bit in a parity. -/
theorem xorAll_append (bs : List Bool) (b : Bool) : xorAll (bs ++ [b]) = (xorAll bs ^^ b) := by
  induction bs with
  | nil => simp [xorAll]
  | cons c bs ih =>
    rw [List.cons_append]
    show (c ^^ xorAll (bs ++ [b])) = ((c ^^ xorAll bs) ^^ b)
    rw [ih, Bool.xor_assoc]

/-- 17 bits hold an odd number of ones exactly where they encode their data (R107). -/
theorem oddOnes_iff (w : BitVec 17) :
    xorAll ((List.range 17).map w.getLsbD) = true ↔ w = parityEncode (w.setWidth 16) := by
  have hx : xorAll ((List.range 17).map w.getLsbD) = (xorAll ((List.range 16).map w.getLsbD) ^^ w.getLsbD 16) := by
    rw [List.range_succ, List.map_append, List.map_cons, List.map_nil, xorAll_append]
  have hd : (List.range 16).map (w.setWidth 16).getLsbD = (List.range 16).map w.getLsbD :=
    List.map_congr_left fun i hi => by simp [List.mem_range.1 hi]
  have hb : ∀ i, i < 17 → (parityEncode (w.setWidth 16)).getLsbD i =
      if i < 16 then w.getLsbD i else !xorAll ((List.range 16).map w.getLsbD) := by
    intro i hi
    unfold parityEncode
    rw [hd, BitVec.getLsbD_setWidth, decide_eq_true hi, Bool.true_and, BitVec.getLsbD_append]
    split
    · next h => simp [h]
    · next h => simp [show i - 16 = 0 by omega]
  rw [hx]
  constructor
  · intro h
    refine BitVec.eq_of_getLsbD_eq fun i hi => ?_
    rw [hb i hi]
    split
    · rfl
    · rw [show i = 16 by omega]
      revert h
      cases xorAll ((List.range 16).map w.getLsbD) <;> cases w.getLsbD 16 <;> simp
  · intro h
    have h16 : w.getLsbD 16 = !xorAll ((List.range 16).map w.getLsbD) := by
      conv_lhs => rw [h]
      rw [hb 16 (by omega), if_neg (by omega)]
    rw [h16]
    cases xorAll ((List.range 16).map w.getLsbD) <;> rfl

/-- A sample has a value exactly where its word encodes one (R107). -/
theorem readSample_eq (m : Sal) (a : Nat) : readSample m a =
    let w := cellRead histBlank m.hist a
    if w = parityEncode (w.setWidth 16) then some (w.setWidth 16).toInt else none := by
  unfold readSample
  simp only [oddOnes_iff]

end Sys2Proof.Machine
end

