-- ==== Sys2Proof/Laws/Calls.lean ====
section
/-! SUPPORT. The parts of a channel's entry to FREE, and what a fold over numbered places leaves at one place. -/

namespace Sys2Proof.Machine

/-- A fold over distinct numbers that each change only their own place leaves, at a place, that number's change alone. -/
theorem foldl_place {β : Type} {n : Nat} (f : State → Fin n → State) (get : State → Fin n → β)
    (other : ∀ s i j, j ≠ i → get (f s i) j = get s j)
    (same : ∀ s s' i, get s i = get s' i → get (f s i) i = get (f s' i) i) (l : List (Fin n)) (hl : l.Nodup)
    (s : State) (j : Fin n) : get (l.foldl f s) j = if j ∈ l then get (f s j) j else get s j := by
  induction l generalizing s with
  | nil => simp
  | cons i l ih =>
    rw [List.nodup_cons] at hl
    rw [List.foldl_cons, ih hl.2]
    by_cases hj : j = i
    · subst hj
      simp [hl.1]
    · simp only [List.mem_cons, hj, false_or]
      split
      · exact same _ _ _ (other s i j hj)
      · exact other s i j hj

/-- A channel's number leaves every lock entry that held it (R154, R156). -/
theorem clearHeld_locks (c : Chan) (s : State) (k : Ctl) :
    (clearHeld c s).locks[k] = s.locks[k].map fun l => if l.held = some c then { l with held := none } else l := by
  have := foldl_place (fun s (k : Ctl) => match s.locks[k] with
    | none => s
    | some l => if l.held = some c then s.setLock k (some { l with held := none }) else s)
    (fun s k => s.locks[k]) (fun s i j h => by
      split
      · rfl
      · split
        · exact getElem_set_other _ _ _ _ (Ne.symm h)
        · rfl) (fun s s' i h => by
      cases hs : s'.locks[i] with
      | none => simp only [h, hs]
      | some l =>
        simp only [h, hs]
        by_cases hl : l.held = some c
        · simp only [hl, if_true, State.setLock_locks, getElem_set_same]
        · simp only [hl, if_false, h, hs]) (List.finRange 4) (List.nodup_finRange 4) s k
  rw [if_pos (List.mem_finRange k)] at this
  refine this.trans ?_
  split
  · rename_i h; rw [h]; rfl
  · rename_i l h
    rw [h, Option.map_some]
    split
    · simp only [State.setLock_locks, getElem_set_same]
    · exact h

/-- A channel's number leaves every record bound to it (R72, R125). -/
theorem unbindProfile_recs (c : Chan) (s : State) (r : Rec) :
    (unbindProfile c s).pfs.recs[r] = if s.pfs.recs[r].boundChan = some c then { s.pfs.recs[r] with boundChan := none }
      else s.pfs.recs[r] := by
  unfold unbindProfile
  have hn := List.nodup_finRange 64
  have hr : r ∈ List.finRange 64 := List.mem_finRange r
  generalize List.finRange 64 = l at hn hr ⊢
  rw [foldl_place (fun s (r : Rec) =>
    if s.pfs.recs[r].boundChan = some c then s.setRec r { s.pfs.recs[r] with boundChan := none } else s)
    (fun s r => s.pfs.recs[r]) (fun s i j h => by
      dsimp only
      split
      · exact getElem_set_other _ _ _ _ (Ne.symm h)
      · rfl) (fun s s' i h => by
      dsimp only at h ⊢
      rw [h]
      split
      · simp only [State.setRec_pfs, getElem_set_same]
      · exact h) l hn s r, if_pos hr]
  dsimp only
  split
  · simp only [State.setRec_pfs, getElem_set_same]
  · rfl

/-- The recency list is not touched by unbinding. -/
@[simp] theorem unbindProfile_recency (c : Chan) (s : State) : (unbindProfile c s).pfs.recency = s.pfs.recency := by
  unfold unbindProfile
  exact foldl_keeps _ (fun s => s.pfs.recency) (fun s r => by dsimp only; split <;> rfl) _ s

end Sys2Proof.Machine
end

