-- ==== Sys2Proof/Laws/Requests.lean ====
section
/-! SUPPORT. The response stage: what taking a request does, once for all request commands (R166, R167). -/

namespace Sys2Proof.Machine

/-- A list of checks passes when its first check passes and the rest do. -/
@[simp] theorem firstFail_cons (b : Bool) (a : Answer) (t : List (Bool × Answer)) :
    firstFail ((b, a) :: t) = if b then some a else firstFail t := rfl

@[simp] theorem firstFail_nil : firstFail [] = none := rfl

/-- Checks in two lists are made one list after the other. -/
theorem firstFail_append (l m : List (Bool × Answer)) : firstFail (l ++ m) = (firstFail l <|> firstFail m) := by
  induction l with
  | nil => simp
  | cons p l ih =>
    obtain ⟨b, a⟩ := p
    cases b <;> simp [ih]

/-- Every check passes. -/
theorem firstFail_none_iff (l : List (Bool × Answer)) : firstFail l = none ↔ ∀ p ∈ l, p.1 = false := by
  induction l with
  | nil => simp
  | cons p l ih =>
    obtain ⟨b, a⟩ := p
    cases b <;> simp [ih]

/-- A request whose checks pass is decided by its block's effect. -/
theorem checked_pass (l : List (Bool × Answer)) (f : State → State × Answer) (s : State) (h : firstFail l = none) :
    checked l f s = f s := by
  rw [checked, h]

/-- A request that fails a check changes nothing by its block. -/
theorem checked_fail (l : List (Bool × Answer)) (f : State → State × Answer) (s : State) (a : Answer)
    (h : firstFail l = some a) : checked l f s = (s, a) := by
  rw [checked, h]

/-- The oldest undecided request has only decided ones ahead of it, and its decision changes its place alone. -/
theorem decideFirst_split (a : Answer) (q : List Request) (rq : Request)
    (h : q.find? (fun r => r.answer.isNone) = some rq) :
    ∃ pre post, q = pre ++ rq :: post ∧ (∀ r ∈ pre, r.answer.isSome) ∧ rq.answer = none ∧
      decideFirst a q = pre ++ rq.decide a :: post := by
  induction q with
  | nil => simp at h
  | cons r q ih =>
    rw [List.find?_cons] at h
    split at h
    · obtain rfl : r = rq := by simpa using h
      refine ⟨[], q, rfl, by simp, by simpa using ‹r.answer.isNone = true›, ?_⟩
      simp [decideFirst, ‹r.answer.isNone = true›]
    · obtain ⟨pre, post, rfl, hp, hn, hd⟩ := ih h
      refine ⟨r :: pre, post, rfl, ?_, hn, ?_⟩
      · simp only [List.mem_cons, forall_eq_or_imp]
        exact ⟨by rw [Option.isSome_iff_ne_none]; intro h; simp_all, hp⟩
      · simp [decideFirst, ‹r.answer.isNone = false›, hd]

/-- A decision keeps the number of places taken. -/
@[simp] theorem decideFirst_length (a : Answer) (q : List Request) : (decideFirst a q).length = q.length := by
  induction q with
  | nil => rfl
  | cons r q ih => unfold decideFirst; split <;> simp [ih]

/-- A request that reaches its block is decided by it (R166, R167). -/
theorem takeRequest_reaches {k : Kind} {rq : Request} {s : State} (h : Reaches k rq s)
    (hb : s.btl.status = .loading → k = .queryPart)
    (ha : s.cbi.attached[rq.ctl] = false → k = .attach ∨ k = .queryPart)
    (own : Request → State → State × Answer) :
    takeRequest (isKind k) own s = answerFirst (own rq s).2 (own rq s).1 := by
  have hk : isKind k rq = true := by simp [isKind, h.sound, h.kind]
  have hc : busChecks rq s = none := by
    rw [busChecks, firstFail_none_iff]
    simp only [List.mem_cons, List.not_mem_nil, or_false, forall_eq_or_imp, forall_eq, h.requester, h.kind, h.tagFree]
    refine ⟨by simp, ?_, ?_, by simp, trivial⟩
    · by_cases hl : s.btl.status = .loading
      · simp [hb hl]
      · simp [hl]
    · cases hat : s.cbi.attached[rq.ctl]
      · rcases ha hat with rfl | rfl <;> simp
      · simp
  rw [takeRequest, h.running, h.oldest]
  simp [hk, hc]

/-- An admitted request is decided by its block (R166, R167). -/
theorem takeRequest_admitted {k : Kind} {rq : Request} {s : State} (h : Admitted k rq s)
    (own : Request → State → State × Answer) :
    takeRequest (isKind k) own s = answerFirst (own rq s).2 (own rq s).1 :=
  takeRequest_reaches h.toReaches (fun hl => absurd hl h.booted) (fun ha => by simp [h.attached] at ha) own

/-- Everything taking a request can do (R166, R167): nothing, an answer at a check, or its block's decision. -/
theorem takeRequest_cases (mine : Request → Bool) (own : Request → State → State × Answer) (s : State) :
    takeRequest mine own s = s ∨
      ∃ rq, nextRequest s = some rq ∧ mine rq = true ∧
        ((∃ a, busChecks rq s = some a ∧ takeRequest mine own s = answerFirst a s) ∨
          (busChecks rq s = none ∧ takeRequest mine own s = answerFirst (own rq s).2 (own rq s).1)) := by
  unfold takeRequest
  split
  · exact .inl rfl
  · split
    · exact .inl rfl
    · split
      · refine .inr ⟨_, ‹_›, ‹_›, ?_⟩
        split
        · exact .inl ⟨_, ‹_›, rfl⟩
        · exact .inr ⟨‹_›, rfl⟩
      · exact .inl rfl

/-- A property of the state that an answer does not touch is kept by a request when its block keeps it. -/
theorem takeRequest_inv (P : State → Prop) (hP : ∀ a s, P s → P (answerFirst a s)) (mine : Request → Bool)
    (own : Request → State → State × Answer) (s : State)
    (hown : ∀ rq, nextRequest s = some rq → busChecks rq s = none → P (own rq s).1) (h : P s) :
    P (takeRequest mine own s) := by
  rcases takeRequest_cases mine own s with e | ⟨rq, hr, -, ⟨a, -, e⟩ | ⟨hb, e⟩⟩
  · rw [e]; exact h
  · rw [e]; exact hP _ _ h
  · rw [e]; exact hP _ _ (hown rq hr hb)

/-- A property that a block's effect keeps is kept by the checked request. -/
theorem checked_inv (P : State → Prop) (l : List (Bool × Answer)) (f : State → State × Answer) (s : State)
    (hf : firstFail l = none → P (f s).1) (h : P s) : P (checked l f s).1 := by
  unfold checked
  split
  · exact h
  · exact hf ‹_›

/-- Everything the lock step can do (R148–R150): it keeps the state or discards the requester's broken entry. -/
theorem lockStep_cases (rq : Request) (obj : LockObj) (oc : Option Answer) (m : Lock → Bool) (s : State) :
    (lockStep rq obj oc m s).1 = s ∨
      ((∃ l, s.locks[rq.ctl] = some l ∧ l.active = false) ∧ (lockStep rq obj oc m s).1 = s.setLock rq.ctl none) := by
  unfold lockStep
  split
  · exact .inl rfl
  · split
    · split
      · exact .inl rfl
      · exact .inr ⟨⟨_, ‹_›, Bool.eq_false_of_not_eq_true ‹_›⟩, rfl⟩
    · exact .inl rfl
  all_goals
    split
    · exact .inl rfl
    · split
      · exact .inr ⟨⟨_, ‹_›, by simpa using ‹(!_) = true›⟩, rfl⟩
      · split <;> exact .inl rfl

/-- A property kept by discarding a broken entry and by the request itself is kept by a request with a lock step. -/
theorem lockedRequest_inv (P : State → Prop) (early : List (Bool × Answer)) (lock : State → State × Option Answer)
    (rest : State → State × Answer) (s : State) (hl : P (lock s).1)
    (hr : firstFail early = none → (lock s).2 = none → P (rest (lock s).1).1) (h : P s) :
    P (lockedRequest early lock rest s).1 := by
  unfold lockedRequest
  split
  · exact h
  · split
    · rename_i e; rw [e] at hl; exact hl
    · rename_i e; rw [e] at hr; exact hr ‹_› rfl

end Sys2Proof.Machine
end

