-- ==== Sys2Proof/Laws/Locks.lean ====
section
/-! SUPPORT. The premises of requests as checks that can be evaluated, and the lock step that passes (R148–R151). -/

namespace Sys2Proof.Machine

/-- A request reaches its block when each check of the response stage passes (R166, R167). -/
theorem reaches_iff (k : Kind) (rq : Request) (s : State) : Reaches k rq s ↔
    (s.cbi.resetPending = false ∧ nextRequest s = some rq ∧ rq.parityBad = false ∧ rq.kind = some k ∧
      rq.requester = rq.ctl ∧ tagOutstanding s rq.ctl rq.tag = false) :=
  ⟨fun h => ⟨h.running, h.oldest, h.sound, h.kind, h.requester, h.tagFree⟩,
   fun ⟨a, b, c, d, e, f⟩ => ⟨a, b, c, d, e, f⟩⟩

/-- A request is admitted when it reaches its block with the part booted and its controller attached (R167). -/
theorem admitted_iff (k : Kind) (rq : Request) (s : State) : Admitted k rq s ↔
    (Reaches k rq s ∧ s.btl.status ≠ .loading ∧ s.cbi.attached[rq.ctl] = true) :=
  ⟨fun h => ⟨h.toReaches, h.booted, h.attached⟩, fun ⟨a, b, c⟩ => ⟨a, b, c⟩⟩

/-- A channel request is its owner's when it is admitted and passes checks 2 to 5 of R76. -/
theorem owned_iff (k : Kind) (rq : Request) (s : State) : Owned k rq s ↔
    (Admitted k rq s ∧ s.btl.gateOpen = true ∧ rq.num 0 < 32 ∧ s.chans[rq.chan].state ≠ .free ∧
      s.chans[rq.chan].owner = some rq.ctl) :=
  ⟨fun h => ⟨h.toAdmitted, h.gate, h.range, h.busy, h.owner⟩, fun ⟨a, b, c, d, e⟩ => ⟨a, b, c, d, e⟩⟩

/-- A BIND is bindable when it is admitted and passes each check of its kind (R79). -/
theorem bindable_iff (rq : Request) (s : State) : Bindable rq s ↔
    (Admitted .bind rq s ∧ rq.bindForm = true ∧ s.btl.gateOpen = true ∧ rq.bindRange = true ∧
      s.chans[rq.chan].state = .free ∧ s.btl.part0.usable.getLsbD (rq.num 1) = true ∧
      (∀ c : Chan, s.chans[c].slot ≠ some (Fin.ofNat 32 (rq.num 1))) ∧
      ((bindParams rq s).far = 0 ∨
        (32 * (bindParams rq s).near ≤ (bindParams rq s).bulk ∧ (bindParams rq s).bulk ≤ 5120))) :=
  ⟨fun h => ⟨h.toAdmitted, h.form, h.gate, h.range, h.free, h.usable, h.unused, h.window⟩,
   fun ⟨a, b, c, d, e, f, g, h⟩ => ⟨a, b, c, d, e, f, g, h⟩⟩

/-- No other controller locks an object exactly when the check of R149 and R151 says so. -/
theorem noOtherLock_iff (k : Ctl) (o : LockObj) (s : State) : NoOtherLock k o s ↔ lockedByOther k o s = false := by
  simp only [lockedByOther, List.any_eq_false, Bool.and_eq_true, bne_iff_ne, not_and, NoOtherLock,
    Option.any_eq_true, Lock.locks, beq_iff_eq, not_exists, List.mem_finRange, true_implies]
  exact ⟨fun h j hj l hl => h j l hj hl, fun h j l hj hl => h j hj l hl⟩

/-- No other controller holds a channel exactly when the check of R146 and R149 says so. -/
theorem noOtherHold_iff (k : Ctl) (c : Chan) (s : State) : NoOtherHold k c s ↔ heldByOther k c s = false := by
  simp only [heldByOther, heldBy, List.any_eq_false, Bool.and_eq_true, bne_iff_ne, not_and, NoOtherHold,
    Option.any_eq_true, beq_iff_eq, not_exists, List.mem_finRange, true_implies]
  exact ⟨fun h j hj l hl => h j l hj hl, fun h j l hj hl => h j hj l hl⟩

/-- A request whose early checks and lock step pass is decided by its block on the state the lock step leaves. -/
theorem lockedRequest_pass {early : List (Bool × Answer)} {lock : State → State × Option Answer}
    {rest : State → State × Answer} {s t : State} (h : firstFail early = none) (hl : lock s = (t, none)) :
    lockedRequest early lock rest s = rest t := by
  simp [lockedRequest, h, hl]

/-- A place of the lock table that is empty stays as it is when it is emptied. -/
theorem locks_set_none {s : State} {k : Ctl} (h : s.locks[k] = none) :
    { s with locks := s.locks.set k none } = s := by
  have : s.locks.set k none = s.locks := by
    rw [← h]
    simp [Fin.getElem_fin]
  rw [this]

/-- The lock step of a request passes under `LockPasses`, and leaves the state with a broken entry discarded (R148–R150). -/
theorem lockStep_pass {rq : Request} {obj : LockObj} {begins : Prop} {admits : Lock → Prop} {s : State}
    (h : LockPasses rq obj begins admits s) (check : Option Answer) (hc : begins → check = none)
    (mismatch : Lock → Bool)
    (hm : ∀ l, admits l → rq.marker = .continue ∨ rq.marker = .ending → mismatch l = false) :
    lockStep rq obj check mismatch s = (unbroken rq s, none) := by
  rcases e : rq.marker with _ | _ | _ | _
  · simp [lockStep, e, unbroken]
  · obtain ⟨h1, h2⟩ := h.begin e
    rcases Option.eq_none_or_eq_some s.locks[rq.ctl] with hl | ⟨l, hl⟩
    · simp only [lockStep, e, hl, hc h2, unbroken, if_true, locks_set_none hl]
    · simp only [lockStep, e, hl, h1 l hl, hc h2, unbroken, if_true]
      rfl
  · obtain ⟨l, hl, ha, ho, hb⟩ := h.held (.inl e)
    simp [lockStep, e, hl, ha, ho, hm l hb (.inl e), unbroken, -Fin.getElem_fin]
  · obtain ⟨l, hl, ha, ho, hb⟩ := h.held (.inr e)
    simp [lockStep, e, hl, ha, ho, hm l hb (.inr e), unbroken, -Fin.getElem_fin]

/-- Discarding a broken entry changes nothing but the lock table. -/
theorem unbroken_keeps (rq : Request) (s : State) :
    (unbroken rq s).chans = s.chans ∧ (unbroken rq s).pfs = s.pfs ∧ (unbroken rq s).jobs = s.jobs ∧
      (unbroken rq s).cbi = s.cbi ∧ (unbroken rq s).btl = s.btl ∧ (unbroken rq s).free = s.free ∧
      (unbroken rq s).sal = s.sal ∧ (unbroken rq s).fifos = s.fifos ∧ (unbroken rq s).hwi = s.hwi := by
  unfold unbroken
  split <;> simp

end Sys2Proof.Machine
end

