-- ==== Sys2Proof/Laws/Reads.lean ====
section
/-! SUPPORT. What a read of a segment through the check code leaves: marks, write-back and counts (R105, R140, R145). -/

namespace Sys2Proof.Machine

/-- A read of good words has no correction, no mark and no bad word. -/
theorem good_read {m : Sal} {g : Seg} (h : ∀ t ∈ readSegment m g, ∃ x, t.cls = .good x) (c s) : applyCorrections c (readSegment m g) s = s ∧ marksOf (readSegment m g) = none ∧ firstOf TapClass.isBad (readSegment m g) = none ∧ correctedCount (readSegment m g) = 0 := by
  have h1 : firstOf TapClass.isCorrected (readSegment m g) = none := by
    simp only [firstOf, Option.map_eq_none_iff, List.find?_eq_none]
    intro t ht; obtain ⟨x, hx⟩ := h t ht; simp [hx, TapClass.isCorrected]
  have h2 : firstOf TapClass.isBad (readSegment m g) = none := by
    simp only [firstOf, Option.map_eq_none_iff, List.find?_eq_none]
    intro t ht; obtain ⟨x, hx⟩ := h t ht; simp [hx, TapClass.isBad]
  refine ⟨by simp [applyCorrections, h1], ?_, h2, ?_⟩
  · have : ((readSegment m g).any fun t => t.cls.isBad) = false := by
      rw [List.any_eq_false]; intro t ht; obtain ⟨x, hx⟩ := h t ht; simp [hx, TapClass.isBad]
    simp [marksOf, this]
  · simp only [correctedCount, List.length_eq_zero_iff, List.filter_eq_nil_iff]
    intro t ht; obtain ⟨x, hx⟩ := h t ht; simp [hx, TapClass.isCorrected]

/-- A read has no marks exactly when none of its words is uncorrectable (R162). -/
theorem marksOf_none_iff (m : Sal) (g : Seg) : marksOf (readSegment m g) = none ↔ ∀ t ∈ readSegment m g, t.cls ≠ .uncorrectable := by
  unfold marksOf
  split
  · rename_i h
    simp only [List.any_eq_true] at h
    obtain ⟨t, ht, h2⟩ := h
    simp only [reduceCtorEq, false_iff]
    intro h3; have := h3 t ht
    cases hc : t.cls <;> simp_all [TapClass.isBad]
  · rename_i h
    simp only [true_iff]
    intro t ht hc
    apply h; rw [List.any_eq_true]; exact ⟨t, ht, by simp [hc, TapClass.isBad]⟩

/-- A sum of bits by position is the number those bits spell. -/
theorem sum_bit_zipIdx (bs : List Bool) (n : Nat) : ((bs.zipIdx n).map fun p => bit p.1 p.2).sum = 2 ^ n * (BitVec.ofBoolListLE bs).toNat := by
  induction bs generalizing n with
  | nil => simp [BitVec.ofBoolListLE]
  | cons b bs ih =>
    rw [List.zipIdx_cons, List.map_cons, List.sum_cons, ih]
    simp [BitVec.ofBoolListLE, BitVec.toNat_concat, bit]
    cases b <;> simp [pow_succ] <;> ring

/-- Bit j of the marks says that word j of the segment is uncorrectable (R162). -/
theorem marksOf_getLsbD (m : Sal) (g : Seg) (w : BitVec 32) (h : marksOf (readSegment m g) = some w) (j : Nat) (hj : j < 32) :
   w.getLsbD j = true ↔ ∃ t, (readSegment m g)[j]? = some t ∧ t.cls = .uncorrectable := by
  have hlen : (readSegment m g).length = 32 := by simp [readSegment]
  unfold marksOf at h
  split at h
  · simp only [Option.some.injEq] at h
    subst h
    have e : ((readSegment m g).zipIdx.map fun p => bit p.1.cls.isBad p.2) = (((readSegment m g).map fun t => t.cls.isBad).zipIdx 0).map fun p => bit p.1 p.2 := by
      rw [List.zipIdx_map]; simp
    rw [e, sum_bit_zipIdx]
    simp only [pow_zero, one_mul]
    rw [BitVec.getLsbD_ofNat]
    have e2 : (BitVec.ofBoolListLE ((readSegment m g).map fun t => t.cls.isBad)).toNat.testBit j = ((readSegment m g).map fun t => t.cls.isBad).getD j false := by
      rw [← BitVec.getLsbD, BitVec.getLsbD_ofBoolListLE]
    rw [e2]
    simp only [hj, decide_true, Bool.true_and]
    rw [List.getD_eq_getElem _ _ (by simp [hlen, hj])]
    have : (readSegment m g)[j]? = some (readSegment m g)[j] := List.getElem?_eq_getElem (by omega)
    rw [this]
    simp only [List.getElem_map, Option.some.injEq, exists_eq_left']
    cases ((readSegment m g)[j]).cls <;> simp [TapClass.isBad]
  · simp at h

/-- The words of a segment have distinct addresses. -/
theorem readSegment_addr_nodup (m : Sal) (g : Seg) : ((readSegment m g).map TapRead.addr).Nodup := by
  simp only [readSegment, List.map_map]
  refine List.Nodup.map ?_ (List.nodup_range)
  intro a b h; simp at h; exact h

/-- A write-back leaves the corrected value at each corrected address and every other word as it was (R105). -/
theorem writeBack_read (rd : List TapRead) (hn : (rd.map TapRead.addr).Nodup) (m : Sal) (hm : MemoryOk m) (hr : ∀ r ∈ rd, r.addr < 8192) (a : Nat) :
   (∀ t ∈ rd, ∀ x, t.cls = .corrected x → cellRead tapBlank (writeBack rd m).taps t.addr = eccEncode x) ∧
   ((∀ t ∈ rd, t.addr ≠ a) → cellRead tapBlank (writeBack rd m).taps a = cellRead tapBlank m.taps a) := by
  induction rd generalizing m a with
  | nil => simp [writeBack]
  | cons r rd ih =>
    simp only [List.map_cons, List.nodup_cons] at hn
    have hm' : MemoryOk (writeBack [r] m) := writeBack_ok [r] m (by simpa using hr r (by simp)) hm
    have e : writeBack (r :: rd) m = writeBack rd (writeBack [r] m) := rfl
    have ih' := ih hn.2 (writeBack [r] m) hm' (fun q hq => hr q (by simp [hq]))
    constructor
    · intro t ht x hx
      rw [e]
      rcases List.mem_cons.1 ht with rfl | ht
      · rw [(ih' t.addr).2]
        · simp only [writeBack, List.foldl_cons, List.foldl_nil, hx, writeTap]
          rw [cellRead_cellWrite _ _ _ _ _ hm.1.1, if_pos rfl]
        · intro q hq hqa; exact hn.1 (by rw [← hqa]; exact List.mem_map_of_mem hq)
      · exact (ih' 0).1 t ht x hx
    · intro ha
      rw [e, (ih' a).2 (fun q hq => ha q (by simp [hq]))]
      simp only [writeBack, List.foldl_cons, List.foldl_nil]
      split
      · rw [writeTap, cellRead_cellWrite _ _ _ _ _ hm.1.1, if_neg (ha r (by simp)).symm]
      · rfl

/-- What a read of one segment leaves on the channel and in the tap store (R31, R105). -/
theorem applyCorrections_segment (c : Chan) (g : Seg) (s : State) :
   let u := applyCorrections c (readSegment s.sal g) s
   (∀ t ∈ readSegment s.sal g, ∀ x, t.cls = .corrected x → MemoryOk s.sal → tapAt u t.addr = eccEncode x) ∧
   u.chans[c].state = s.chans[c].state ∧
   u.chans[c].eccCount = (if ∃ t ∈ readSegment s.sal g, ∃ x, t.cls = .corrected x then min 255 (s.chans[c].eccCount
              + ((readSegment s.sal g).filter fun t => t.cls.isCorrected).length) else s.chans[c].eccCount) := by
  have hex : (∃ t ∈ readSegment s.sal g, ∃ x, t.cls = .corrected x) ↔ firstOf TapClass.isCorrected (readSegment s.sal g) ≠ none := by
    simp only [firstOf, ne_eq, Option.map_eq_none_iff, List.find?_eq_none, not_forall]
    constructor
    · rintro ⟨t, ht, x, hx⟩; exact ⟨t, ht, by simp [hx, TapClass.isCorrected]⟩
    · rintro ⟨t, ht, hx⟩
      refine ⟨t, ht, ?_⟩
      cases hc : t.cls <;> simp_all [TapClass.isCorrected]
  intro u
  cases hf : firstOf TapClass.isCorrected (readSegment s.sal g) with
  | none =>
    have hne : ¬ ∃ t ∈ readSegment s.sal g, ∃ x, t.cls = .corrected x := by rw [hex, hf]; simp
    have hu : u = s := by simp [u, applyCorrections, hf]
    refine ⟨fun t ht x hx => absurd ⟨t, ht, x, hx⟩ hne, by rw [hu], by rw [hu, if_neg hne]⟩
  | some a =>
    have he : ∃ t ∈ readSegment s.sal g, ∃ x, t.cls = .corrected x := by rw [hex, hf]; simp
    refine ⟨fun t ht x hx hm => ?_, ?_, ?_⟩
    · have : u.sal = writeBack (readSegment s.sal g) s.sal := by
        simp only [u, applyCorrections, hf]; split <;> simp [-Fin.getElem_fin]
      rw [tapAt, this]
      exact (writeBack_read _ (readSegment_addr_nodup _ _) _ hm (readSegment_addr _ _) 0).1 t ht x hx
    · simp only [u, applyCorrections, hf]; split <;> simp [-Fin.getElem_fin]
    · rw [if_pos he]; simp only [u, applyCorrections, hf]; split <;> simp [correctedCount, -Fin.getElem_fin]

/-- A read without corrected words writes nothing back. -/
theorem writeBack_none {rd : List TapRead} (h : ∀ t ∈ rd, t.cls.isCorrected = false) (m : Sal) :
    writeBack rd m = m := by
  induction rd generalizing m with
  | nil => rfl
  | cons r rd ih =>
    have hr := h r (by simp)
    have hm : writeBack (r :: rd) m = writeBack rd m := by
      simp only [writeBack, List.foldl_cons]
      cases hc : r.cls with
      | corrected v => simp [hc, TapClass.isCorrected] at hr
      | good v => rfl
      | uncorrectable => rfl
    rw [hm]
    exact ih (fun t ht => h t (by simp [ht])) m

/-- A write-back touches the tap store alone. -/
theorem writeBack_eq (rd : List TapRead) (m : Sal) : writeBack rd m = { m with taps := (writeBack rd m).taps } := by
  induction rd generalizing m with
  | nil => rfl
  | cons r rd ih =>
    have e : writeBack (r :: rd) m = writeBack rd (writeBack [r] m) := rfl
    rw [e, ih]
    simp only [writeBack, List.foldl_cons, List.foldl_nil]
    split <;> rfl

/-- The corrections of a read, whole: the write-back, the count on the channel and the event (R31, R105). -/
theorem applyCorrections_eq (c : Chan) (rd : List TapRead) (s : State) : applyCorrections c rd s = { s with
    sal := writeBack rd s.sal, chans := s.chans.set c (countCorrections rd s.chans[c])
    fifos := (correctionEvent c rd s).fifos } := by
  cases hf : rd.find? fun t => t.cls.isCorrected with
  | none =>
    have h : ∀ t ∈ rd, t.cls.isCorrected = false := by
      intro t ht
      simpa using List.find?_eq_none.1 hf t ht
    have hn : ¬ ∃ t ∈ rd, t.cls.isCorrected = true := by
      rintro ⟨t, ht, h2⟩
      simp [h t ht] at h2
    have he : correctionEvent c rd s = s := by
      unfold correctionEvent
      cases s.chans[c].firstCorr <;> rw [hf]
    rw [writeBack_none h, countCorrections, if_neg hn, he]
    simp [applyCorrections, firstOf, hf]
  | some t =>
    have hy : ∃ t ∈ rd, t.cls.isCorrected = true :=
      ⟨t, List.mem_of_find?_eq_some hf, by simpa using List.find?_some hf⟩
    rw [countCorrections, if_pos hy]
    unfold correctionEvent
    cases hc : s.chans[c].firstCorr with
    | true =>
      have hc' : s.chans[c.val].firstCorr = true := hc
      simp [applyCorrections, firstOf, hf, hc', State.modChan, State.setChan, State.setSal, correctedCount]
    | false =>
      have hc' : s.chans[c.val].firstCorr = false := hc
      simp only [applyCorrections, firstOf, hf, Option.map_some, hc, Bool.false_eq_true, if_false]
      cases ho : s.chans[c].owner with
      | none =>
        have ho' : s.chans[c.val].owner = none := ho
        simp [postOwner, ho', State.modChan, State.setChan, State.setSal, correctedCount]
      | some k =>
        have ho' : s.chans[c.val].owner = some k := ho
        simp only [postOwner, State.modChan, State.setChan, State.setSal, getElem_set_same, ho, postTo]
        split <;> simp [evalLine, State.setFifo, correctedCount, -Fin.getElem_fin]

/-- A write-back leaves every word at which no corrected one stands (R105). -/
theorem writeBack_other {rd : List TapRead} {m : Sal} (hm : MemoryOk m) (hr : ∀ r ∈ rd, r.addr < 8192) {a : Nat}
    (ha : ∀ w ∈ rd, w.addr = a → w.cls.isCorrected = false) :
    cellRead tapBlank (writeBack rd m).taps a = cellRead tapBlank m.taps a := by
  induction rd generalizing m with
  | nil => rfl
  | cons r rd ih =>
    have hm' : MemoryOk (writeBack [r] m) := writeBack_ok [r] m (by simpa using hr r (by simp)) hm
    have e : writeBack (r :: rd) m = writeBack rd (writeBack [r] m) := rfl
    rw [e, ih hm' (fun q hq => hr q (by simp [hq])) (fun w hw => ha w (by simp [hw]))]
    simp only [writeBack, List.foldl_cons, List.foldl_nil]
    split
    · rename_i v hv
      have hne : a ≠ r.addr := fun h => by simpa [hv, TapClass.isCorrected] using ha r (by simp) h.symm
      rw [writeTap, cellRead_cellWrite _ _ _ _ _ hm.1.1, if_neg hne]
    · rfl

/-- The corrections of a read of distinct words stand in the tap store, and no other word has changed (R105). -/
theorem applyCorrections_writtenBack (c : Chan) {rd : List TapRead} {s : State} (hm : MemoryOk s.sal)
    (hn : (rd.map TapRead.addr).Nodup) (hr : ∀ r ∈ rd, r.addr < 8192) :
    WrittenBack rd s (applyCorrections c rd s) := by
  rw [applyCorrections_eq]
  exact ⟨fun w hw v hv => (writeBack_read rd hn s.sal hm hr 0).1 w hw v hv, fun a ha => writeBack_other hm hr ha⟩

end Sys2Proof.Machine
end

