-- ==== Sys2Proof/Laws/Service.lean ====
section
/-! SUPPORT. What the stages of a channel service leave: one lemma per stage, and the whole of stage 7 (R18–R70). -/

namespace Sys2Proof.Machine

/-! ### Posting -/

/-- Posting to an owner touches the FIFOs alone. -/
theorem postOwner_eq (c : Chan) (e : EventKind) (d : Nat) (s : State) :
    postOwner c e d s = { s with fifos := (postOwner c e d s).fifos } := by
  unfold postOwner postTo evalLine
  split
  · rfl
  · split <;> rfl

/-- What posting to an owner leaves in the FIFOs depends on the owner, the FIFOs, the controller table and BTL alone. -/
theorem postOwner_fifos_congr {c : Chan} {e : EventKind} {d : Nat} {s t : State}
    (ho : t.chans[c].owner = s.chans[c].owner) (hf : t.fifos = s.fifos) (hb : t.btl = s.btl)
    (ha : t.cbi.attached = s.cbi.attached) : (postOwner c e d t).fifos = (postOwner c e d s).fifos := by
  unfold postOwner
  rw [ho]
  cases s.chans[c].owner with
  | none => exact hf
  | some k =>
    dsimp only
    unfold postTo evalLine
    simp only [ha, hb, hf]
    split <;> simp [hf, hb, ha]

/-- An event of a correction touches the FIFOs alone. -/
theorem correctionEvent_eq (c : Chan) (rd : List TapRead) (s : State) :
    correctionEvent c rd s = { s with fifos := (correctionEvent c rd s).fifos } := by
  unfold correctionEvent
  split
  · exact postOwner_eq _ _ _ _
  · rfl

/-- Posting through a link touches the deferred table alone. -/
theorem postLink_eq (c : Chan) (l : Option Tag) (o : Result) (ws : List Word) (s : State) :
    postLink c l o ws s = { s with cbi := (postLink c l o ws s).cbi } := by
  unfold postLink postOutcome State.setCbi
  split <;> rfl

/-- Posting through a link keeps the controller table. -/
theorem postLink_attached (c : Chan) (l : Option Tag) (o : Result) (ws : List Word) (s : State) :
    (postLink c l o ws s).cbi.attached = s.cbi.attached := by
  unfold postLink postOutcome State.setCbi
  split <;> rfl

/-- With a link and an owner the outcome is posted. -/
theorem postLink_some {c : Chan} {l : Option Tag} {o : Result} {ws : List Word} {s : State} {k : Ctl} {t : Tag}
    (ho : s.chans[c].owner = some k) (hl : l = some t) : postLink c l o ws s = postOutcome k t o ws s := by
  simp only [postLink, ho, hl]

/-- Without a link or an owner nothing is posted. -/
theorem postLink_none {c : Chan} {l : Option Tag} {o : Result} {ws : List Word} {s : State}
    (h : s.chans[c].owner = none ∨ l = none) : postLink c l o ws s = s := by
  unfold postLink
  split
  · rcases h with h | h <;> simp_all
  · rfl

/-- What a post through a link leaves in the deferred table depends on the owner and the table alone. -/
theorem postLink_cbi_congr {c : Chan} {l : Option Tag} {o : Result} {ws : List Word} {s t : State}
    (ho : t.chans[c].owner = s.chans[c].owner) (hc : t.cbi = s.cbi) :
    (postLink c l o ws t).cbi = (postLink c l o ws s).cbi := by
  unfold postLink
  rw [ho]
  cases s.chans[c].owner with
  | none => exact hc
  | some k =>
    cases l with
    | none => exact hc
    | some g => simp only [postOutcome, State.setCbi_cbi, hc]

/-! ### The stages -/

/-- Stage 1 changes the history store and the write position (R20). -/
theorem writeHistory_eq (c : Chan) (r : Int) (s : State) : writeHistory c r s = { s with
    sal := { s.sal with hist := (writeHistory c r s).sal.hist }
    chans := s.chans.set c { s.chans[c] with w := (s.chans[c].w + 1) % (256 * s.chans[c].pages.length) } } := by
  unfold writeHistory
  dsimp only
  split <;> rfl

/-- Stage 1 writes r at the write position and changes no other sample (R19, R20). -/
theorem writeHistory_written {c : Chan} {r : Int} {s t : State}
    (h : t.sal.hist = (writeHistory c r s).sal.hist) : SampleWritten s.chans[c] r s t := by
  intro hm p hp
  have hw : (writeHistory c r s).sal.hist = cellWrite histBlank (256 * p.val + s.chans[c].w % 256)
      (parityEncode (BitVec.ofInt 16 r)) s.sal.hist := by
    unfold writeHistory
    simp only [hp]
    rfl
  unfold sampleAt
  rw [h, hw]
  refine ⟨?_, fun a ha => ?_⟩
  · rw [cellRead_cellWrite _ _ _ _ _ hm.2.1, if_pos rfl]
  · rw [cellRead_cellWrite _ _ _ _ _ hm.2.1, if_neg ha]

/-- The windows weight one sample for each echo tap (R24). -/
theorem lagSamples_length (m : Sal) (x : Context) (wt : Nat) :
    (lagSamples m x wt).length = 32 * x.par.near + 32 * x.par.far := by
  simp [lagSamples, Params.lags]

/-- The sample of the i-th lag of the windows, where its ring index lies on a page (R19, R21, R24). -/
theorem lagSamples_get (m : Sal) (x : Context) (wt i : Nat) (p : Page) (hi : i < 32 * x.par.near + 32 * x.par.far)
    (hp : x.pages[lagIndex x wt (if i < 32 * x.par.near then i else x.par.bulk + (i - 32 * x.par.near)) / 256]? = some p) :
    (lagSamples m x wt)[i]? = some (readSample m (256 * p.val
      + lagIndex x wt (if i < 32 * x.par.near then i else x.par.bulk + (i - 32 * x.par.near)) % 256)) := by
  have hl : x.par.lags[i]? = some (if i < 32 * x.par.near then i else x.par.bulk + (i - 32 * x.par.near)) := by
    unfold Params.lags
    by_cases h : i < 32 * x.par.near
    · rw [List.getElem?_append_left (by simpa using h), if_pos h, List.getElem?_range h]
    · rw [List.getElem?_append_right (by simpa using h), if_neg h, List.length_range, List.getElem?_map,
        List.getElem?_range (by omega)]
      rfl
  unfold lagSamples
  rw [List.getElem?_map, hl, Option.map_some]
  unfold readRing
  rw [hp]

/-- Writing segments touches the tap store alone. -/
theorem writeSegments_eq (gs : List Seg) (vs : List Word) (m : Sal) :
    writeSegments gs vs m = { m with taps := (writeSegments gs vs m).taps } := by
  induction gs generalizing vs m with
  | nil => rfl
  | cons g gs ih =>
    rw [writeSegments, ih]
    rfl

/-- Stage 5's part of the context: one more guarded frame where the guard withholds the adaptation (R34). -/
def echoGuarded (p : PartOne) (x : Context) : Context :=
  if echoMayAdapt p x && guardTrips p x then { x with guarded := x.guarded + 1 } else x

/-- Stage 5 changes the tap store and the guarded count (R33–R37). -/
theorem echoStage_eq (c : Chan) (e : Int) (taps samples : List Int) (s : State) :
    echoStage c e taps samples s = { s with
      sal := { s.sal with taps := (echoStage c e taps samples s).sal.taps }
      chans := s.chans.set c (echoGuarded s.btl.part1 s.chans[c]) } := by
  unfold echoStage echoGuarded
  dsimp only
  cases h1 : echoMayAdapt s.btl.part1 s.chans[c] with
  | false =>
    simp only [Bool.not_false, if_true, Bool.false_and, Bool.false_eq_true, if_false]
    simp
  | true =>
    cases h2 : guardTrips s.btl.part1 s.chans[c] with
    | true =>
      simp only [Bool.not_true, Bool.false_eq_true, if_false, if_true, Bool.true_and]
      rfl
    | false =>
      simp only [Bool.not_true, Bool.false_eq_true, if_false, Bool.true_and]
      have : s.chans.set c s.chans[c] = s.chans := by simp
      rw [this, writeSegments_eq]
      rfl

/-- The equalizer's part of the tap store (R49–R52). -/
def equalizerSal (c : Chan) (d : Option Int) (taps : List Int) (s : State) : Sal :=
  let x := s.chans[c]
  match d, x.eqSeg with
  | some v, some g =>
    if eqAdapts x x.par true then
      writeSegment g ((newEqTaps s.btl.part1 x (equalizerError x v) taps).map (BitVec.ofInt 16)) s.sal
    else s.sal
  | _, _ => s.sal

/-- Stage 6 gives the output and changes the tap store, the lag line, P_d and P_ε (R44–R52). -/
theorem equalizerStage_eq (c : Chan) (e : Int) (d : Option Int) (taps : List Int) (s : State) :
    equalizerStage c e d taps s =
      ({ s with sal := equalizerSal c d taps s
                chans := s.chans.set c (alignDesired d (equalizerOutput s.chans[c] e taps) s.chans[c]) },
       equalizerOutput s.chans[c] e taps) := by
  unfold equalizerStage equalizerSal
  dsimp only
  cases d with
  | none => rfl
  | some v =>
    cases hg : s.chans[c].eqSeg with
    | none => rfl
    | some g =>
      dsimp only
      split <;> rfl

/-! ### Stage 7 -/

/-- The context after a training has ended with an outcome (R64, R65). -/
def Context.trained (o : Result) (x : Context) : Context :=
  { x with
    state := .tracking, trainLink := none, converged := x.converged || decide (o = .converged)
    convErle := if o = .converged then some (erle x) else x.convErle }

/-- Post to the owner of a channel where a condition holds. -/
def postIf (b : Bool) (c : Chan) (e : EventKind) (d : Nat) (s : State) : State := if b then postOwner c e d s else s

/-- What a conditional post leaves in the FIFOs. -/
theorem postIf_fifos_congr {b : Bool} {c : Chan} {e : EventKind} {d : Nat} {s t : State}
    (ho : t.chans[c].owner = s.chans[c].owner) (hf : t.fifos = s.fifos) (hb : t.btl = s.btl)
    (ha : t.cbi.attached = s.cbi.attached) : (postIf b c e d t).fifos = (postIf b c e d s).fifos := by
  unfold postIf
  split
  · exact postOwner_fifos_congr ho hf hb ha
  · exact hf

/-- A conditional post touches the FIFOs alone. -/
theorem postIf_eq (b : Bool) (c : Chan) (e : EventKind) (d : Nat) (s : State) :
    postIf b c e d s = { s with fifos := (postIf b c e d s).fifos } := by
  unfold postIf
  split
  · exact postOwner_eq _ _ _ _
  · rfl

/-- The end of a training, whole (R64, R65). -/
theorem finishTraining_eq (c : Chan) (o : Result) (s : State) (h : inTraining s.chans[c].state = true) :
    finishTraining c o s = { s with
      chans := s.chans.set c (s.chans[c].trained o)
      cbi := (postLink c s.chans[c].trainLink o (trainingWords s.chans[c]) s).cbi } := by
  have key : ∀ x : Context, x.state = s.chans[c].state → x.owner = s.chans[c].owner →
      x.trainLink = s.chans[c].trainLink → trainingWords x = trainingWords s.chans[c] →
      (completeTraining c o (s.setChan c x)).modChan c (fun x => { x with state := .tracking }) = { s with
        chans := s.chans.set c { x with state := .tracking, trainLink := none }
        cbi := (postLink c s.chans[c].trainLink o (trainingWords s.chans[c]) s).cbi } := by
    intro x hs ho hl hw
    unfold completeTraining
    have hx : (s.setChan c x).chans[c] = x := by simp [State.setChan]
    rw [hx, hs, h, if_pos rfl, hw, hl, postLink_eq]
    rw [postLink_cbi_congr (s := s) (t := s.setChan c x) (by rw [hx, ho]) rfl]
    simp [State.modChan, State.setChan]
  unfold finishTraining Context.trained
  split
  · rename_i ho
    refine (key { s.chans[c] with converged := true, convErle := some (erle s.chans[c]) } rfl rfl rfl rfl).trans ?_
    simp [ho]
  · rename_i ho
    have hs : s.setChan c s.chans[c] = s := by simp [State.setChan]
    have := key s.chans[c] rfl rfl rfl rfl
    rw [hs] at this
    rw [this]
    simp [ho]

/-- What the degrade detector leaves (R66). -/
def degraded (taken : ChanState) (p : PartOne) (x : Context) : Context × Bool :=
  if taken = .tracking then degradeStep p x.par x else (x, false)

/-- The degrade detector's step (R66). -/
theorem degradeStage_eq (c : Chan) (taken : ChanState) (s : State) :
    let r := degraded taken s.btl.part1 s.chans[c]
    degradeStage c taken s = { s with
      chans := s.chans.set c r.1, fifos := (postIf r.2 c .echoDegraded (erle r.1) (s.setChan c r.1)).fifos } := by
  intro r
  by_cases h : taken = .tracking
  · have hr : r = degradeStep s.btl.part1 s.chans[c].par s.chans[c] := if_pos h
    unfold degradeStage
    rw [if_pos h]
    simp only [← hr]
    change postIf r.2 c .echoDegraded (erle r.1) (s.setChan c r.1) = _
    rw [postIf_eq]
    rfl
  · have hr : r = (s.chans[c], false) := if_neg h
    unfold degradeStage
    rw [if_neg h, hr]
    simp [postIf, State.setChan]

/-- The quiet detector's step (R68). -/
theorem quietStage_eq (c : Chan) (s : State) :
    let r := quietStep s.btl.part1 s.chans[c]
    quietStage c s = { s with
      chans := s.chans.set c r.1, fifos := (postIf r.2 c .lineQuiet (logValue r.1.py) (s.setChan c r.1)).fifos } := by
  intro r
  change postIf r.2 c .lineQuiet (logValue r.1.py) (s.setChan c r.1) = _
  rw [postIf_eq]
  rfl

/-- The detectors keep the owner. -/
theorem degraded_owner (taken : ChanState) (p : PartOne) (x : Context) : (degraded taken p x).1.owner = x.owner := by
  unfold degraded degradeStep
  repeat' split
  all_goals rfl

/-- The quiet detector keeps the owner. -/
theorem quietStep_owner (p : PartOne) (x : Context) : (quietStep p x).1.owner = x.owner := by
  unfold quietStep
  repeat' split
  all_goals rfl

/-- The counting keeps the owner. -/
theorem countTraining_owner (p : PartOne) (q : Params) (b : Bool) (x : Context) :
    (countTraining p q b x).owner = x.owner := by
  unfold countTraining
  split <;> rfl

/-- The counting keeps the link. -/
theorem countTraining_trainLink (p : PartOne) (q : Params) (b : Bool) (x : Context) :
    (countTraining p q b x).trainLink = x.trainLink := by
  unfold countTraining
  split <;> rfl

/-- The context after the counting and the end of training (R61–R65). -/
def counted (p : PartOne) (b : Bool) (x : Context) : Context :=
  let y := countTraining p x.par b x
  match trainingEnd y.par y with
  | none => y
  | some o => y.trained o

/-- The counting and the end of training keep the owner. -/
theorem counted_owner (p : PartOne) (b : Bool) (x : Context) : (counted p b x).owner = x.owner := by
  unfold counted
  dsimp only
  split <;> exact countTraining_owner _ _ _ _

/-- The detectors after the counting: the context, and the events they post (R66, R68, R70). -/
theorem detectors_eq (c : Chan) (taken : ChanState) (x : Context) (cb : Cbi) (s : State)
    (ho : x.owner = s.chans[c].owner) (ha : cb.attached = s.cbi.attached) :
    let r := degraded taken s.btl.part1 x
    let q := quietStep s.btl.part1 r.1
    quietStage c (degradeStage c taken { s with chans := s.chans.set c x, cbi := cb }) = { s with
      chans := s.chans.set c q.1, cbi := cb
      fifos := (postIf q.2 c .lineQuiet (logValue q.1.py) (postIf r.2 c .echoDegraded (erle r.1) s)).fifos } := by
  intro r q
  have h1 : degradeStage c taken { s with chans := s.chans.set c x, cbi := cb } = { s with
      chans := s.chans.set c r.1, cbi := cb, fifos := (postIf r.2 c .echoDegraded (erle r.1) s).fifos } := by
    rw [degradeStage_eq]
    simp only [getElem_set_same]
    rw [postIf_fifos_congr (s := s)
      (t := ({ s with chans := s.chans.set c x, cbi := cb } : State).setChan c r.1)
      (by simp [State.setChan, r, degraded_owner, ho]) rfl rfl ha]
    simp [r]
  rw [h1, quietStage_eq]
  simp only [getElem_set_same]
  change ({ s with
    chans := (s.chans.set c r.1).set c q.1, cbi := cb
    fifos := (postIf q.2 c .lineQuiet (logValue q.1.py) (State.setChan { s with
      chans := s.chans.set c r.1, cbi := cb
      fifos := (postIf r.2 c .echoDegraded (erle r.1) s).fifos } c q.1)).fifos } : State) = _
  rw [postIf_fifos_congr (s := postIf r.2 c .echoDegraded (erle r.1) s) (t := State.setChan { s with
      chans := s.chans.set c r.1, cbi := cb, fifos := (postIf r.2 c .echoDegraded (erle r.1) s).fifos } c q.1)
    (by rw [postIf_eq]; simp [State.setChan, quietStep_owner, q, r, degraded_owner, ho])
    rfl (by rw [postIf_eq]; rfl) (by rw [postIf_eq]; exact ha)]
  simp [q]

/-- Stage 7, whole: the counting, the end of training and the detectors on the context, the completion, the events in
their order (R61–R70). -/
theorem stageSeven_eq (c : Chan) (taken : ChanState) (b : Bool) (s : State) :
    let y := countTraining s.btl.part1 s.chans[c].par b s.chans[c]
    let r := degraded taken s.btl.part1 (counted s.btl.part1 b s.chans[c])
    let q := quietStep s.btl.part1 r.1
    stageSeven c taken b s = { s with
      chans := s.chans.set c q.1
      cbi := match trainingEnd y.par y with
        | none => s.cbi
        | some o => (postLink c s.chans[c].trainLink o (trainingWords y) s).cbi
      fifos := (postIf q.2 c .lineQuiet (logValue q.1.py) (postIf r.2 c .echoDegraded (erle r.1) s)).fifos } := by
  intro y r q
  have hy : (s.modChan c fun x => countTraining s.btl.part1 x.par b x).chans[c] = y := by
    simp [State.modChan, State.setChan, y]
  unfold stageSeven
  simp only [hy]
  cases he : trainingEnd y.par y with
  | none =>
    have hk : counted s.btl.part1 b s.chans[c] = y := by
      simp only [counted]
      change (match trainingEnd y.par y with | none => y | some o => y.trained o) = y
      rw [he]
    have := detectors_eq c taken y s.cbi s (countTraining_owner _ _ _ _) rfl
    simp only [r, q, hk]
    exact this
  | some o =>
    have hk : counted s.btl.part1 b s.chans[c] = y.trained o := by
      simp only [counted]
      change (match trainingEnd y.par y with | none => y | some o => y.trained o) = _
      rw [he]
    have hin : inTraining y.state = true := by
      cases h : inTraining y.state with
      | true => rfl
      | false => simp [trainingEnd, h] at he
    have hl : y.trainLink = s.chans[c].trainLink := countTraining_trainLink _ _ _ _
    dsimp only
    rw [finishTraining_eq _ _ _ (by rw [hy]; exact hin), hy, hl,
      postLink_cbi_congr (s := s) (t := s.modChan c _) (by rw [hy]; exact countTraining_owner _ _ _ _) rfl]
    have := detectors_eq c taken (y.trained o) (postLink c s.chans[c].trainLink o (trainingWords y) s).cbi s
      (countTraining_owner _ _ _ _) (postLink_attached _ _ _ _ _)
    simp only [r, q, hk]
    rw [← this]
    simp [State.modChan, State.setChan]

end Sys2Proof.Machine
end

