-- ==== Sys2Proof/Tests/Slice0.lean ====
section
/-! SUPPORT. The author's own tests on small states: the well-formedness checks, worked values of the spec, and for each
statement of the certificate a state and operands that meet the premises of each of its clauses. -/

set_option Elab.async false

namespace Sys2Proof.Tests

open Sys2Proof.Machine

/-! ### Small states -/

/-- The state a command leaves. -/
def run (i : Instr) (s : State) : State :=
  match exec i s with
  | .next t => t
  | .fault _ => s
  | .refused _ => s

/-- A part in service: booted, every controller attached, the gate open, both highways in sync. -/
def base : State :=
  { State.reset with
    btl := { initialBtl with status := .noDevice, booting := false, gateOpen := true, timebase := 10 }
    cbi := { initialCbi with attached := Vector.replicate 4 true }
    hwi := { initialHwi with
      line := { initialSync with inSync := true, frame := 5 }, modem := { initialSync with inSync := true, frame := 7 } } }

/-- Resolved parameters of a small call. -/
def params : Params :=
  { near := 1, far := 0, bulk := 0, eq := true, aEchoTrain := 8, aEchoTrack := 13, aEqTrain := 7, aEqTrack := 12
    erleTarget := 64, qualTarget := 48, holdCount := 400, timeout := 16000, mainTap := 4, lag := 2, waitLimit := 2000 }

/-- A call of controller 0 in timeslot 3, with segments 0 and 1 and page 0. -/
def call (st : ChanState) : Context :=
  { initialContext with
    state := st, owner := some 0, slot := if mappedState st then some 3 else none, params := some params
    segs := [0, 1], pages := [0] }

/-- Channel 0 holds the call. -/
def withCall (st : ChanState) : State :=
  { base with
    chans := base.chans.set 0 (call st)
    sal := { initialSal with
      freeSegs := (List.finRange 256).drop 2, freePages := (List.finRange 256).drop 1
      heldSeg := #v[2, 0, 0, 0], heldPage := #v[1, 0, 0, 0] } }

/-- Change the call of channel 0. -/
def State.call0 (f : Context → Context) (s : State) : State := s.modChan 0 f

/-- A request of controller 0 under tag 0. -/
def request (code marker : Nat) (ws : List Word) : Request :=
  { ctl := 0, header := word (256 * marker + code), length := ws.length, words := ws, parityBad := false
    answer := none, announces := false }

/-- The queue holds these requests. -/
def queued (rs : List Request) (s : State) : State := s.setCbi { s.cbi with queue := rs }

/-- Controller 0 asks. -/
def ask (code marker : Nat) (ws : List Word) (s : State) : State := queued [request code marker ws] s

/-- The answer to the only request. -/
def answer (s : State) : Option Answer := s.cbi.queue.head?.bind Request.answer

/-- A lock of controller 0. -/
def lockOn (o : LockObj) (p : Purpose) (held : Option Chan) : Lock :=
  { obj := o, purpose := p, active := true, last := 10, held }

/-- A VALID profile under key 9 with one near chunk, in record 0. -/
def profile : Profile :=
  { emptyProfile with
    key := some 9, state := .valid
    desc := { emptyProfile.desc with near := 1, lag := 1, aEchoTrain := some 8 } }

/-- The state with the profile stored. -/
def withProfile (p : Profile) (s : State) : State :=
  { s with pfs := { recs := s.pfs.recs.set 0 p, recency := if p.state = .valid then [0] else [] } }

/-! ### Well-formedness (each check refuses an ill-formed command) -/

theorem test_wf_pulse_spacing :
    (Instr.frameSyncPulse .line 0).wf = false ∧ (Instr.frameSyncPulse .line 1).wf = true := by decide

theorem test_wf_image_after_nack :
    (Instr.bootLoadEnd (some 0) [0]).wf = false ∧ (Instr.bootLoadEnd (some 3) []).wf = true := by decide

theorem test_wf_image_empty : (Instr.bootLoadEnd none []).wf = false ∧ (Instr.bootLoadEnd none [1]).wf = true := by
  decide

theorem test_wf_image_too_long :
    (Instr.bootLoadEnd none (List.replicate 65536 0)).wf = false ∧
      (Instr.bootLoadEnd none (List.replicate 65535 0)).wf = true := by
  simp only [Instr.wf, List.length_replicate]
  decide

theorem test_no_word_spells_a_command : decodeTableWord 8 0 = none ∧ State.reset.withFetchWord 8 0 = State.reset :=
  ⟨rfl, rfl⟩

/-! ### The block as a whole -/

theorem test_step_front_and_empty :
    (∃ t, step { base with pending := [.timebaseTick] } = .next t ∧ t.btl.timebase = 11 ∧ t.pending = []) ∧
      step base = .next base := ⟨⟨_, rfl, by decide, rfl⟩, rfl⟩

theorem test_witness_PowerOnResetsAndTimebaseCounts :
    (run .powerOn (withCall .bound)).chans[0] = initialContext ∧ base.btl.resetLow = false ∧
      (run .timebaseTick base).btl.timebase = 11 ∧ (run .resetAsserted base).btl.timebase = 0 ∧
      (run .resetAsserted base).btl.resetLow = true ∧
      (run .timebaseTick (run .resetAsserted base)).btl.timebase = 0 := by decide +kernel

/-- A state with a live call, a waiting one and a loading one, and words in both memories. -/
def busy : State :=
  { withProfile profile (withCall .tracking) with
    chans := ((withCall .tracking).chans.set 1
      { call .pending with owner := some 1, slot := some 4, segs := [], pages := [] }).set 2
      { call .loading with owner := some 2, slot := some 31, segs := [255, 2], pages := [255] }
    sal :=
      { taps := [(0, eccEncode 7), (8191, eccEncode 9)], hist := [(0, parityEncode 1), (65535, parityEncode 2)]
        freeSegs := ((List.finRange 256).drop 3).take 252, freePages := ((List.finRange 256).drop 1).take 254
        heldSeg := #v[2, 0, 2, 0], heldPage := #v[1, 0, 1, 0]
        waitQ := [{ chan := 1, ctl := 1, segs := 2, pages := 1, accepted := 10, limit := 2000 }] }
    jobs := [{ kind := .load, chan := 2, key := 9, count := 2, moved := 0, eqLast := true, queuedAt := 4 }]
    pending := [.timebaseTick] }

theorem test_witness_StepsKeepTheMemoriesCanonical :
    MemoryOk busy.sal ∧ ∃ t, step busy = .next t := by
  refine ⟨?_, _, rfl⟩
  unfold MemoryOk
  decide +kernel

theorem test_witness_StepsKeepTheProfileStore :
    ProfilesOk busy ∧ busy.pfs.recency = [0] ∧ ∃ t, step busy = .next t := by
  refine ⟨?_, ?_, _, rfl⟩
  · unfold ProfilesOk; decide +kernel
  · decide +kernel

theorem test_witness_StepsKeepCallsSlotsAndStore :
    CallsOk busy ∧ SlotsOk busy ∧ StoreOk busy ∧ ∃ t, step busy = .next t := by
  refine ⟨⟨?_, ?_, ?_, ?_, ?_⟩, ?_, ⟨?_, ?_, ?_, ?_, ?_, ?_, ?_⟩, _, rfl⟩
  all_goals try unfold SlotsOk
  all_goals decide +kernel

/-- The busy part with a lock of each standing: channel 0 under a CHANNEL lock and bound to profile 9, a FILL of profile 10,
and a broken PROFILE READ lock. -/
def contested : State :=
  { busy with
    cbi := { busy.cbi with attached := #v[true, true, true, false] }
    chans := busy.chans.set 0 { busy.chans[0] with lock := true, bound := some 9 }
    pfs := { busy.pfs with
      recs := (busy.pfs.recs.set 0 { profile with boundChan := some 0 }).set 1
        { profile with key := some 10, state := .filling } }
    locks := #v[some { obj := .chan 0, purpose := .channel, active := true, last := 10, held := some 0 },
      some { obj := .profile 10, purpose := .fill, active := true, last := 10, held := none },
      some { obj := .profile 9, purpose := .profileRead, active := false, last := 10, held := none }, none] }

theorem contested_profilesOk : ProfilesOk contested := by
  unfold ProfilesOk
  decide +kernel

theorem contested_callsOk : CallsOk contested := by
  refine ⟨?_, ?_, ?_, ?_, ?_⟩ <;> decide +kernel

theorem contested_locksOk : LocksOk contested := by
  refine ⟨fun j k l m hl hm => ?_, fun c => ?_, fun j k l m c hl hm hc => ?_, fun k l hl => ?_, fun k l hl => ?_,
    fun k l hl hp => ?_, fun k l hl => ?_, ?_⟩
  · exact (by decide +kernel : ∀ j k : Ctl, ∀ l ∈ contested.locks[j], ∀ m ∈ contested.locks[k], l.active = true →
      m.active = true → l.obj = m.obj → j = k) j k l hl m hm
  · rw [(by decide +kernel : ∀ c : Chan, contested.chans[c].lock = decide (c = 0)) c]
    constructor
    · intro h
      exact ⟨0, _, rfl, rfl, by rw [of_decide_eq_true h]⟩
    · rintro ⟨k, l, hl, -, hc⟩
      exact decide_eq_true ((by decide +kernel : ∀ k : Ctl, ∀ l ∈ contested.locks[k], ∀ c ∈ l.held, c = 0) k l hl c hc)
  · exact (by decide +kernel : ∀ j k : Ctl, ∀ l ∈ contested.locks[j], ∀ m ∈ contested.locks[k], ∀ c ∈ l.held,
      m.held = some c → j = k) j k l hl m hm c hc
  · exact (by decide +kernel : ∀ k : Ctl, ∀ l ∈ contested.locks[k], l.active = false → l.held = none) k l hl
  · exact (by decide +kernel : ∀ k : Ctl, ∀ l ∈ contested.locks[k], l.active = true → l.purpose = .channel →
      ∃ c : Chan, l.obj = .chan c ∧ l.held = some c ∧ contested.chans[c].owner = some k ∧
        contested.chans[c].state ≠ .free ∧ contested.chans[c].state ≠ .pending ∧
        contested.chans[c].state ≠ .releasing) k l hl
  · have h := (by decide +kernel : ∀ k : Ctl, ∀ l ∈ contested.locks[k], l.purpose ≠ .channel → ∀ c : Chan,
      l.obj ≠ .chan c) k l hl hp
    cases ho : l.obj with
    | chan c => exact absurd ho (h c)
    | profile key => exact ⟨key, rfl⟩
  · exact (by decide +kernel : ∀ k : Ctl, ∀ l ∈ contested.locks[k], l.purpose = .fill → l.held = none) k l hl
  · decide +kernel

theorem contested_bindingsOk : BindingsOk contested := by
  refine ⟨fun r c h => ?_, fun c key h => ?_, ?_, ?_, fun k l key hl ha hp ho => ?_, ?_⟩
  · have e := (by decide +kernel : ∀ r : Rec, ∀ c ∈ contested.pfs.recs[r].boundChan,
      contested.pfs.recs[r].state ≠ .empty ∧ contested.pfs.recs[r].key = some 9 ∧ contested.chans[c].bound = some 9) r c h
    exact ⟨e.1, 9, e.2⟩
  · have e := (by decide +kernel : ∀ c : Chan, contested.chans[c].bound = if c = 0 then some 9 else none) c
    rw [h] at e
    split at e
    · next hc =>
      cases e
      exact ⟨0, by rw [hc]; decide +kernel⟩
    · cases e
  · decide +kernel
  · decide +kernel
  · have e := (by decide +kernel : ∀ k : Ctl, ∀ l ∈ contested.locks[k], l.active = true → l.purpose = .fill →
      l.obj = .profile 10) k l hl ha hp
    rw [ho] at e
    cases e
    exact ⟨1, by decide +kernel⟩
  · decide +kernel

theorem test_witness_StepsKeepTheLockTable :
    CallsOk contested ∧ LocksOk contested ∧ ∃ t, step contested = .next t :=
  ⟨contested_callsOk, contested_locksOk, _, rfl⟩

theorem test_witness_StepsKeepProfileBindings :
    CallsOk contested ∧ ProfilesOk contested ∧ LocksOk contested ∧ BindingsOk contested ∧
      ∃ t, step contested = .next t := by
  exact ⟨contested_callsOk, contested_profilesOk, contested_locksOk, contested_bindingsOk, _, rfl⟩

theorem test_witness_StepsKeepListsRecordsTagsAndTriggers :
    let s := busy.setCbi { busy.cbi with
      queue := [request 1 0 [], request 2 0 [0]]
      deferred := [{ ctl := 0, tag := 0, ready := false, announced := false, outcome := none },
        { ctl := 0, tag := 15, ready := false, announced := false, outcome := none }] }
    ListsBounded s ∧ RecordsOk s ∧ TagsDistinct s ∧ TriggersInRange s ∧ ∃ t, step s = .next t := by
  refine ⟨?_, ⟨?_, ?_⟩, ?_, ?_, _, rfl⟩
  · unfold ListsBounded; decide +kernel
  · decide +kernel
  · intro g h l r e
    have e : (none : Option Grant) = some g := e
    cases e
  · unfold TagsDistinct; decide +kernel
  · unfold TriggersInRange; decide +kernel

/-! ### Start-up -/

/-- Words as bytes, high byte first. -/
def bytes (ws : List Word) : List Byte := ws.flatMap fun w => [w.extractLsb' 8 8, w.extractLsb' 0 8]

/-- Bytes with their sum behind them. -/
def sealed (b : List Byte) : List Byte := b ++ bytes [word (b.map BitVec.toNat).sum]

/-- The head of an image of n bytes and p profiles, with the built-in site defaults. -/
def imageHead (n p : Nat) : List Byte :=
  [0xC5, 0x3A, 1] ++ bytes [word n] ++ bytes (zeroWords builtInZero) ++ bytes (oneWords builtInOne)
    ++ [BitVec.ofNat 8 p]

/-- A profile under key 9: pinned, one near chunk of 8000H words. -/
def imageProfile : List Byte :=
  [0, 0, 0, 9, 1, 1, 0, 0, 0, 1, 31, 0, 0, 0, 4, 2, 240] ++ bytes (List.replicate 32 0x8000)

/-- The part while the boot load runs. -/
def loading : State := State.reset

theorem test_witness_ValidImageIsInstalled :
    loading.btl.booting = true ∧ loading.btl.status = .loading ∧ 79 ≤ (imageHead 82 0).length ∧
      (imageZero (imageHead 82 0)).getD 14 0 = 20 ∧ (imageOne (imageHead 82 0)).getD 0 0 = 8 ∧
      (imageOne (imageHead 82 0)).getD 21 0 = 1 ∧
    (imageStatus (sealed (imageHead 82 0)) = .valid ∧
      imageLength (sealed (imageHead 82 0)) ≤ (sealed (imageHead 82 0)).length) ∧
    (imageStatus (sealed (imageHead 163 1 ++ imageProfile)) = .valid ∧
      imageLength (sealed (imageHead 163 1 ++ imageProfile)) ≤ (sealed (imageHead 163 1 ++ imageProfile)).length) := by
  decide +kernel

theorem test_image_with_a_profile :
    let t := run (.bootLoadEnd none (sealed (imageHead 163 1 ++ imageProfile))) loading
    t.btl.status = .valid ∧ t.btl.booting = false ∧ t.btl.part0 = builtInZero ∧ t.btl.part1 = builtInOne ∧
      t.pfs.recency = [0] ∧ t.pfs.recs[0].key = some 9 ∧ t.pfs.recs[0].desc.aEchoTrain = some 31 ∧
      t.pfs.recs[0].chunks[0] = List.replicate 32 0x8001 ∧ t.pfs.recs[1].state = .empty := by decide +kernel

theorem test_witness_FailedBootLoadInstallsNothing :
    (∀ i : Fin 4, (run (.bootLoadEnd (some i) []) loading).btl.status = .noDevice) ∧
    (imageStatus [0xC4] = .badSignature ∧ bytesNeeded [0xC4] ≤ 1) ∧
    (imageStatus [0xC5, 0x3B] = .badSignature ∧ bytesNeeded [0xC5, 0x3B] ≤ 2) ∧
    (imageStatus [0xC5, 0x3A, 2] = .badSignature ∧ bytesNeeded [0xC5, 0x3A, 2] ≤ 3) ∧
    (imageLength [0xC5, 0x3A, 1, 0, 81] < 82 ∧ imageStatus [0xC5, 0x3A, 1, 0, 81] = .badField ∧
      bytesNeeded [0xC5, 0x3A, 1, 0, 81] ≤ 5) ∧
    (let b := imageHead 82 0 ++ [0, 0];
      82 ≤ imageLength b ∧ imageChecksum b ≠ imageSum b ∧ imageStatus b = .badChecksum ∧ bytesNeeded b ≤ b.length) ∧
    (let b := sealed (imageHead 82 65);
      82 ≤ imageLength b ∧ imageChecksum b = imageSum b ∧ imageProfiles b = none ∧ imageStatus b = .badField ∧
        bytesNeeded b ≤ b.length) ∧
    (let b := sealed (imageHead 82 0);
      82 ≤ imageLength b ∧ imageChecksum b = imageSum b ∧ zeroInRange (imageZero b) = true ∧
        oneInRange (imageOne b) = true ∧ imageProfiles b ≠ none ∧ imageLength b ≤ b.length) := by decide +kernel

theorem test_image_profiles_that_fail :
    ((imageProfiles (sealed (imageHead 244 2 ++ imageProfile ++ imageProfile.set 3 8))).map List.length = some 2) ∧
    ([imageProfile.set 3 0, imageProfile.set 4 4, imageProfile.set 5 0, imageProfile.set 6 17, imageProfile.set 7 21,
        imageProfile.set 9 16, imageProfile.set 10 32, imageProfile.set 14 32, imageProfile.set 15 9,
        imageProfile.set 16 241].map fun b => (imageProfiles (sealed (imageHead 163 1 ++ b))).isNone) =
      List.replicate 10 true ∧
    (imageProfiles (sealed (imageHead 244 2 ++ imageProfile ++ imageProfile))).isNone ∧
    (imageProfiles (sealed (imageHead 164 1 ++ imageProfile ++ [0]))).isNone ∧
    (imageProfiles (sealed (imageHead 162 1 ++ imageProfile.take 80))).isNone := by decide +kernel

/-- The image of the built-in site defaults with the A-law. -/
def aLawImage : List Byte :=
  sealed ([0xC5, 0x3A, 1] ++ bytes [82] ++ bytes ((zeroWords builtInZero).set 0 1) ++ bytes (oneWords builtInOne) ++ [0])

theorem test_boot_law_reaches_the_idle_codes_and_port_carries_54H :
    (let t := run (.bootLoadEnd none aLawImage) loading;
      t.btl.status = .valid ∧ t.hwi.line.inSync = false ∧ (run (.lineOutputSend 7) t).hwi.lhtx.code = idleCode .a ∧
        t.btl.port.take 2 = [.start, .deviceAddress 0x54 false] ∧ t.btl.port.length = 89 ∧
        t.btl.port.drop 87 = [.readByte (aLawImage.getD 81 0) false, .stop]) ∧
    (run (.bootLoadEnd (some 3) []) loading).btl.port =
      [.start, .deviceAddress 0x54 false, .memoryAddress 0, .memoryAddress 0, .start, .deviceAddress 0x54 true] := by
  decide +kernel

/-! ### Highways -/

/-- A highway's record in the base state. -/
def onSync (h : Highway) (r : SyncRec) : State := setSync h r base

theorem test_witness_SearchFollowsThePulses : ∀ h : Highway,
    (let s := onSync h initialSync;
      (syncOf h s).inSync = false ∧ (syncOf h s).starting = false) ∧
    (let s := onSync h { initialSync with starting := true, run := 1 };
      (syncOf h s).inSync = false ∧ (syncOf h s).starting = true ∧ nominal h - 1 ≠ nominal h ∧
        nominal h + 1 ≠ nominal h ∧ (syncOf h s).run + 1 < 3) ∧
    (let s := onSync h { initialSync with starting := true, run := 2 };
      (syncOf h s).inSync = false ∧ (syncOf h s).starting = true ∧ 3 ≤ (syncOf h s).run + 1) ∧
    (let s := onSync h { initialSync with watch := 8 };
      (syncOf h s).inSync = false ∧ timeReached s (syncOf h s).watch 2 = true) ∧
    (let s := onSync h { initialSync with watch := 9 };
      (syncOf h s).inSync = false ∧ timeReached s (syncOf h s).watch 2 = false) ∧
    (syncOf h (onSync h { initialSync with inSync := true })).inSync = true := by
  intro h; cases h <;> decide +kernel

theorem test_third_nominal_spacing_regains_sync :
    let t := run (.frameSyncPulse .line 256) (onSync .line { initialSync with starting := true, run := 2 })
    t.hwi.line.inSync = true ∧ t.hwi.frameDue = true ∧ t.hwi.line.frame = 1 ∧
      (t.fifos[3].entries.map fun e => (e.kind, e.detail)) = [(.lineSyncRegained, 10)] := by decide +kernel

theorem test_witness_LossOfSyncEmptiesTheGatheredState : ∀ h : Highway,
    let s := onSync h { initialSync with inSync := true, watch := 8 }
    (syncOf h s).inSync = true ∧ nominal h - 1 < nominal h ∧ timeReached s (syncOf h s).watch 2 = true := by
  intro h; cases h <;> decide +kernel

theorem test_witness_PulseInSyncBeginsAFrame :
    base.hwi.line.inSync = true ∧ base.hwi.modem.inSync = true ∧ nominal .line < 257 ∧ nominal .modem < 1025 ∧
      (∃ t, exec (.missingSync .line) base = .next t) ∧ ∃ t, exec (.missingSync .modem) base = .next t :=
  ⟨rfl, rfl, by decide, by decide, ⟨_, rfl⟩, ⟨_, rfl⟩⟩

/-- The call's channel holds one half of its input record. -/
def half (r : InputRec) (s : State) : State := s.setHwi { s.hwi with inputs := s.hwi.inputs.set 0 r }

theorem test_witness_InputsFillTheInputRecord :
    (let s := withCall .bound;
      mappedChan 3 s = some 0 ∧ bothInSync s = true ∧ s.hwi.inputs[0].pair = none ∧ s.hwi.inputs[0].code = none ∧
        s.chans[0].slot.isSome = true) ∧
    (let s := half { code := some (1, 5), pair := none } (withCall .bound);
      s.hwi.inputs[0].pair = none) ∧
    (mappedChan 4 (withCall .bound) = none ∧ base.chans[0].slot = none) ∧
    bothInSync (setSync .modem initialSync (withCall .bound)) = false := by decide +kernel

/-- Either arrival completes the input record of channel 0. -/
theorem raises_line (st : ChanState) (f : Context → Context) (x d : Word) (hs : mappedState st = true)
    (hf : ∀ x, (f x).slot = x.slot) :
    Raises (.lineCodeArrives 3 0xFF) 0 0xFF x d 5 7
      (half { code := none, pair := some (x, d, 7) } ((withCall st).modChan 0 f)) := by
  have hslot : ∀ c : Chan, (half { code := none, pair := some (x, d, 7) } ((withCall st).modChan 0 f)).chans[c].slot
      = if c = 0 then some 3 else none := by
    intro c
    have h0 : (withCall st).chans[(0 : Chan)] = call st := by simp [withCall]
    have h1 : (half { code := none, pair := some (x, d, 7) } ((withCall st).modChan 0 f)).chans
        = (withCall st).chans.set 0 (f (call st)) := by
      simp [half, State.modChan, State.setChan, State.setHwi, h0]
    rw [h1]
    by_cases hc : c = 0
    · subst hc
      simp [hf, call, hs]
    · have : (0 : Nat) ≠ c.val := fun e => hc (Fin.ext e.symm)
      simp [withCall, base, State.reset, initialContext, hc, this]
  refine .byLine 3 rfl ?_ rfl rfl rfl
  simp only [mappedChan, hslot]
  decide +kernel

/-- A modem pair completes the input record of channel 0. -/
theorem raises_modem (st : ChanState) (x d : Word) (hs : mappedState st = true) :
    Raises (.modemPairArrives 0 x d) 0 0x80 x d 5 7
      (half { code := some (0x80, 5), pair := none } (withCall st)) := by
  refine .byModem rfl ?_ rfl rfl rfl
  have : (half { code := some (0x80, 5), pair := none } (withCall st)).chans[(0 : Chan)] = call st := by
    simp [half, withCall, State.setHwi]
  rw [this]
  simp [call, hs]

/-- A service is one arrival away: channel 0 in a state, with tap words in its segments, and a modem pair that waits. -/
def serving (st : ChanState) (f : Context → Context) (taps : List (Nat × BitVec 22)) (d : Word) : State :=
  half { code := none, pair := some (1000, d, 7) }
    (((withCall st).modChan 0 f).setSal { (withCall st).sal with taps })

/-- Power in both directions, a training link and counters one short of their limits. -/
def ready (x : Context) : Context :=
  { x with
    pr := 2 ^ 20, py := 2 ^ 20, pe := 2 ^ 4, pd := 2 ^ 20, peps := 2 ^ 4, trainLink := some 2, streak := 399
    trainFrames := 500 }

/-- The states of a full service. -/
def conditioned : List ChanState := [.bound, .echoTrain, .eqTrain, .tracking]

/-- A d word for each case of R47: absent, and the value 256. -/
def pairsOut (i : Fin 2) : Word := #v[(0x8000 : Word), 0x0100][i]

/-- The line code completes the record of channel 0. -/
theorem serving_raises {st : ChanState} {f : Context → Context} {taps : List (Nat × BitVec 22)} {code : Byte} {d : Word}
    (h : (mappedChan 3 (serving st f taps d) == some 0) = true) :
    Raises (.lineCodeArrives 3 code) 0 code 1000 d 5 7 (serving st f taps d) :=
  .byLine 3 rfl (beq_iff_eq.1 h) rfl rfl rfl

/-- That service is a full one. -/
theorem serving_full {st : ChanState} {f : Context → Context} {taps : List (Nat × BitVec 22)} {code : Byte} {d : Word}
    (h : (mappedChan 3 (serving st f taps d) == some 0 && conditioned.contains (serving st f taps d).chans[0].state
      && (tapsRead 0 (serving st f taps d)).all fun t => t.cls != .uncorrectable) = true) :
    FullService (.lineCodeArrives 3 code) 0 code 1000 d 5 7 (serving st f taps d) := by
  simp only [Bool.and_eq_true, List.all_eq_true, bne_iff_ne, conditioned, List.contains_iff_mem, List.mem_cons,
    List.not_mem_nil, or_false] at h
  exact ⟨serving_raises h.1.1, h.1.2, h.2⟩

theorem test_witness_PassThroughAndFaultServices :
    (∀ st ∈ [ChanState.pending, .loading, .fault], ∀ x d : Word,
      Raises (.lineCodeArrives 3 0xFF) 0 0xFF x d 5 7
        (half { code := none, pair := some (x, d, 7) } ((withCall st).modChan 0 id)) ∧
      Raises (.modemPairArrives 0 x d) 0 0x80 x d 5 7
        (half { code := some (0x80, 5), pair := none } (withCall st))) ∧
    (∀ st ∈ [ChanState.pending, .loading, .fault],
      (half { code := some (0x80, 5), pair := none } (withCall st)).chans[0].state = st) ∧
    (∀ st ∈ conditioned, Raises (.lineCodeArrives 3 0x80) 0 0x80 1000 0x8000 5 7
      (serving st ready [(1, eccEncode 5 ^^^ 1), (33, 3)] 0x8000)) ∧
    (∀ st ∈ conditioned, let s := serving st ready [(1, eccEncode 5 ^^^ 1), (33, 3)] 0x8000
      s.chans[0].state = st ∧ s.chans[0].owner = some 0 ∧ s.chans[0].trainLink = some 2 ∧
        ((tapsRead 0 s)[33]?).map TapRead.cls = some .uncorrectable ∧
        (∀ t ∈ (tapsRead 0 s).take 33, t.cls ≠ .uncorrectable) ∧ s.chans[0].segs.Nodup) ∧
    MemoryOk (serving .bound ready [(1, eccEncode 5 ^^^ 1), (33, 3)] 0x8000).sal := by
  refine ⟨fun st h x d => ⟨raises_line st id x d ?_ fun _ => rfl, raises_modem st x d ?_⟩, by decide +kernel,
    fun st h => serving_raises ?_, by decide +kernel, ?_⟩
  · fin_cases h <;> rfl
  · fin_cases h <;> rfl
  · revert st; decide +kernel
  · unfold MemoryOk; decide +kernel

theorem test_fault_service :
    let t := run (.lineCodeArrives 3 0x80) (serving .echoTrain ready [(1, eccEncode 5 ^^^ 1), (33, 3)] 0x8000)
    t.chans[0].state = .fault ∧ t.chans[0].trainLink = none ∧ t.chans[0].eccCount = 1 ∧
      (t.fifos[0].entries.map fun e => (e.kind, e.detail)) = [(.eccCorrected, 1), (.channelFault, 33)] ∧
      tapAt t 1 = eccEncode 5 ∧ t.hwi.outputs[0].pair = some (32124, 32124, 8) := by decide +kernel

theorem test_witness_FullServiceCancelsTheEstimate :
    (∀ st ∈ conditioned, ∀ i : Fin 2,
      FullService (.lineCodeArrives 3 0x80) 0 0x80 1000 (pairsOut i) 5 7
          (serving st ready [(1, eccEncode 5)] (pairsOut i)) ∧
        (serving st ready [(1, eccEncode 5)] (pairsOut i)).chans[0].state = st) ∧
    (∀ t ∈ tapsRead 0 (serving .bound ready [(1, eccEncode 5)] 0), t.cls = .good 0 ∨ t.cls = .good 5) ∧
    desiredOf 0x8000 = none ∧ desiredOf 0x8001 = some (-32767) ∧ desiredOf 0x0100 = some 256 := by
  refine ⟨fun st h i => ⟨serving_full ?_, ?_⟩, by decide +kernel, by decide, by decide, by decide⟩
  · revert i; revert st; decide +kernel
  · revert i; revert st; decide +kernel

theorem test_witness_ServicesWriteCorrectionsBack :
    (∀ st ∈ conditioned, ∀ taps ∈ [[(1, eccEncode 5 ^^^ 1), (33, eccEncode 6 ^^^ 4)], [(1, eccEncode 5)]],
      FullService (.lineCodeArrives 3 0xFF) 0 0xFF 1000 0x0100 5 7 (serving st ready taps 0x0100) ∧
        (serving st ready taps 0x0100).chans[0].segs.Nodup ∧ MemoryOk (serving st ready taps 0x0100).sal) ∧
    (let s := serving .bound ready [(1, eccEncode 5 ^^^ 1), (33, eccEncode 6 ^^^ 4)] 0x0100;
      (∃ w ∈ tapsRead 0 s, w.cls.isCorrected = true) ∧ s.chans[0].firstCorr = false) ∧
    (let t := run (.lineCodeArrives 3 0xFF)
        (serving .tracking ready [(1, eccEncode 5 ^^^ 1), (33, eccEncode 6 ^^^ 4)] 0x8000);
      t.chans[0].eccCount = 2 ∧ t.chans[0].firstCorr = true ∧ tapAt t 33 = eccEncode 6 ∧
        (t.fifos[0].entries.map fun e => (e.kind, e.detail)) = [(.eccCorrected, 1)]) := by
  refine ⟨fun st h taps ht => ⟨serving_full ?_, ?_, ?_⟩, by decide +kernel, by decide +kernel⟩
  · revert taps; revert st; decide +kernel
  · revert taps; revert st; decide +kernel
  · unfold MemoryOk; revert taps; revert st; decide +kernel

theorem test_witness_EqualizerTapsAdaptByTheRule :
    (∀ st ∈ conditioned, ∀ i : Fin 2,
      FullService (.lineCodeArrives 3 0x80) 0 0x80 1000 (pairsOut i) 5 7
        (serving st ready [(33, eccEncode 6 ^^^ 4)] (pairsOut i))) ∧
    (∀ st ∈ conditioned, let s := serving st ready [(33, eccEncode 6 ^^^ 4)] 0x0100
      MemoryOk s.sal ∧ s.chans[0].segs.Nodup ∧ s.chans[0].eqSeg = some 1 ∧
        s.chans[0].segs.length = s.chans[0].par.near + s.chans[0].par.far + 1 ∧ s.chans[0].resid.length = 40 ∧
        1 ≤ s.chans[0].par.lag ∧ s.chans[0].par.lag ≤ 8 ∧ s.chans[0].freeze = false ∧ s.chans[0].lock = false) := by
  refine ⟨fun st h i => serving_full ?_, ?_⟩
  · revert i; revert st; decide +kernel
  · unfold MemoryOk; decide +kernel

theorem test_equalizer_tap_moves_in_a_service :
    let s := serving .eqTrain (fun x => { ready x with resid := List.replicate 40 3000 }) [(33, eccEncode 6 ^^^ 4)] 0x0400
    let shift := (leak 16 0 + 1024).log2 + 7 - 14
    tapAt (run (.lineCodeArrives 3 0xFF) s) 33 =
      eccEncode (BitVec.ofInt 16 (sat (6 + roundShift (sat (1024 - 0) * 3000) shift))) := by decide +kernel

theorem test_bound_service_outputs :
    let s := (half { code := some (0x80, 5), pair := none } (withCall .bound)).setSal
      (writeTap 0 16384 (writeTap 36 16384 (withCall .bound).sal))
    let t := run (.modemPairArrives 0 1000 0x8000) s
    t.hwi.outputs[0] = { code := some (encodeLine .mu 1000, 6), pair := some (0, 31630, 8) } ∧
      t.hwi.inputs[0] = emptyInput ∧ t.chans[0].w = 1 ∧ t.chans[0].resid.take 2 = [31630, 0] ∧
      reference .mu 1000 = 988 := by decide +kernel

/-- The call of channel 0 in training with power in both directions. -/
def training (st : ChanState) (f : Context → Context) : State :=
  (withCall st).modChan 0 fun x => f { x with pr := 2 ^ 20, py := 2 ^ 10, pe := 2 ^ 4, trainLink := some 2 }

/-- R33's conditions on a state, one by one, then R34's guard. -/
def echoConditions (s : State) : List Bool :=
  let x := s.chans[0]
  [decide (x.state = .echoTrain ∨ x.state = .eqTrain ∨ x.state = .tracking), !x.freeze, !x.lock,
   decide (s.btl.part1.gate ≤ logValue x.pr),
   decide (x.state = .echoTrain ∧ logValue x.pr + s.btl.part1.guard ≤ logValue x.py)]

theorem test_witness_EchoTapsAdaptByTheRule :
    (([training .bound id, training .echoTrain fun x => { x with freeze := true },
        training .tracking fun x => { x with lock := true },
        training .eqTrain fun x => { x with pr := 4094 }].map fun s => (echoConditions s).take 4) =
      [[false, true, true, true], [true, false, true, true], [true, true, false, true], [true, true, true, false]]) ∧
    (([training .echoTrain fun x => { x with pr := 4095, py := 4095 },
        training .echoTrain fun x => { x with pr := 4095, py := 4094 },
        training .eqTrain fun x => { x with pr := 4095, py := 4095 }, training .tracking id].map echoConditions) =
      [[true, true, true, true, true], [true, true, true, true, false], [true, true, true, true, false],
       [true, true, true, true, false]]) ∧
    (let s := training .echoTrain id;
      MemoryOk s.sal ∧ (s.chans[0].segs.take (s.chans[0].par.near + s.chans[0].par.far)).Nodup ∧
      s.chans[0].par.near + s.chans[0].par.far ≤ s.chans[0].segs.length ∧
      (List.replicate 32 (0 : Int)).length = 32 * (s.chans[0].par.near + s.chans[0].par.far)) := by
  unfold MemoryOk
  decide +kernel

theorem test_echo_tap_moves :
    tapAt (echoStage 0 32767 (List.replicate 32 0) (List.replicate 32 (-32767)) (training .echoTrain id)) 31 =
      eccEncode (BitVec.ofInt 16 (sat ((32767 * (-32767) + 2 ^ 12) / 2 ^ 13))) ∧
    tapAt (echoStage 0 32767 (List.replicate 32 0) (List.replicate 32 (-32767)) (training .echoTrain id)) 32 = 0 ∧
    (let t := echoStage 0 32767 (List.replicate 32 0) (List.replicate 32 (-32767))
        (training .echoTrain fun x => { x with pr := 4095, py := 4095 });
      t.chans[0].guarded = 1 ∧ t.sal.taps = []) := by
  decide +kernel

/-- A full service of a call whose ring is pages 3 and 1, at write position 260. -/
def ringed : State :=
  let s := serving .bound (fun x => { x with pages := [3, 1], w := 260 }) [] 0x8000
  s.setSal { s.sal with hist := [(1023, parityEncode 77)] }

theorem test_history_ring_addresses :
    (FullService (.lineCodeArrives 3 0xFF) 0 0xFF 1000 0x8000 5 7 ringed ∧ MemoryOk ringed.sal ∧
      ringed.chans[0].pages[ringed.chans[0].w / 256]? = some 1) ∧
    (let t := run (.lineCodeArrives 3 0xFF) ringed;
      sampleAt t 260 = parityEncode (word 988) ∧ sampleAt t 1023 = parityEncode 77 ∧ t.chans[0].w = 261) ∧
    (lagsRead 0 1000 ringed).take 6 = [some 988, some 0, some 0, some 0, some 0, some 77] := by
  refine ⟨⟨⟨.byLine 3 rfl (beq_iff_eq.1 ?_) rfl rfl rfl, ?_, ?_⟩, ?_, ?_⟩, ?_, ?_⟩
  all_goals first | decide +kernel | (unfold MemoryOk; decide +kernel) | (unfold Conditioned; decide +kernel)

theorem test_witness_TrainingEndsByStreakOrTimeout :
    (let x := { call .echoTrain with streak := 400 };
      x.state = .echoTrain ∧ params.holdCount ≤ x.streak) ∧
    (let x := { call .eqTrain with streak := 399, trainFrames := 16000 };
      x.state = .eqTrain ∧ x.streak < params.holdCount ∧ params.timeout ≤ x.trainFrames) ∧
    (let x := { call .eqTrain with streak := 399, trainFrames := 15999 };
      x.streak < params.holdCount ∧ x.trainFrames < params.timeout) ∧
    (let s := training .echoTrain id;
      s.chans[0].state = .echoTrain ∧ s.chans[0].owner = some 0 ∧ s.chans[0].trainLink = some 2) ∧
    (training .eqTrain id).chans[0].state = .eqTrain ∧
    (∀ st ∈ conditioned, FullService (.lineCodeArrives 3 0xFF) 0 0xFF 1000 0x0100 5 7 (serving st ready [] 0x0100)) := by
  refine ⟨by decide +kernel, by decide +kernel, by decide +kernel, by decide +kernel, by decide +kernel,
    fun st h => serving_full ?_⟩
  revert st; decide +kernel

theorem test_services_end_trainings :
    (let t := run (.lineCodeArrives 3 0xFF) (serving .echoTrain ready [] 0x8000);
      t.chans[0].state = .tracking ∧ t.chans[0].streak = 400 ∧ t.chans[0].trainFrames = 501 ∧
        t.chans[0].guarded = 1 ∧ t.chans[0].converged = true ∧ t.chans[0].convErle = some (erle t.chans[0])) ∧
    (let t := run (.lineCodeArrives 3 0xFF)
        (serving .eqTrain (fun x => { ready x with trainFrames := 15999 }) [] 0x8000);
      t.chans[0].state = .tracking ∧ t.chans[0].streak = 399 ∧ t.chans[0].converged = false) ∧
    (let t := run (.lineCodeArrives 3 0xFF) (serving .eqTrain ready [] 0x8000);
      t.chans[0].state = .eqTrain ∧ t.chans[0].trainFrames = 501) := by decide +kernel

/-- The detectors one service short of a report: no echo loss, no level on the line. -/
def alarmed (x : Context) : Context := { x with pr := 2 ^ 20, py := 64, pe := 64, degradeStreak := 799, quietStreak := 15999 }

theorem test_witness_DetectorsReportOnceAndRearm :
    (∀ st ∈ conditioned, FullService (.lineCodeArrives 3 0xFF) 0 0xFF 1000 0x8000 5 7 (serving st alarmed [] 0x8000)) ∧
    (let t := run (.lineCodeArrives 3 0xFF) (serving .tracking alarmed [] 0x8000);
      t.chans[0].degraded = true ∧ t.chans[0].degradeStreak = 0 ∧ t.chans[0].quiet = true ∧
        t.chans[0].quietStreak = 0 ∧ (t.fifos[0].entries.map Event.kind) = [.echoDegraded, .lineQuiet]) ∧
    (let t := run (.lineCodeArrives 3 0x80)
        (serving .tracking (fun x => { alarmed x with degraded := true, quiet := true }) [] 0x8000);
      t.chans[0].degraded = true ∧ t.chans[0].quiet = false ∧ t.fifos[0].entries = []) := by
  refine ⟨fun st h => serving_full ?_, by decide +kernel, by decide +kernel⟩
  revert st; decide +kernel

theorem test_training_completion_words :
    let s := (training .echoTrain fun x => { x with streak := 400, trainFrames := 401, guarded := 3 }).setCbi
      { base.cbi with deferred := [{ ctl := 0, tag := 2, ready := false, announced := true, outcome := none }] }
    (finishTraining 0 .converged s).cbi.deferred.map Deferred.outcome =
      [some (.converged, [0, 48, 0, 401, 400, 3])] ∧ (finishTraining 0 .converged s).cbi.ready = [(0, 2)] := by
  decide +kernel

/-- The call's channel holds these outputs. -/
def holding (h : HoldSlot) : State :=
  (withCall .bound).setHwi { base.hwi with outputs := base.hwi.outputs.set 0 h }

theorem test_witness_OutputsAreSentInTheirFrame :
    (∀ f ∈ [4, 5, 6], let s := holding { code := some (0x12, f), pair := some (1, 2, f + 2) }
      mappedChan 3 s = some 0 ∧ s.hwi.outputs[0].code = some (0x12, f) ∧
        s.hwi.outputs[0].pair = some (1, 2, f + 2)) ∧
    mappedChan 4 (withCall .bound) = none ∧ (withCall .bound).hwi.outputs[0].code = none ∧
      (withCall .bound).hwi.outputs[0].pair = none := by decide +kernel

theorem test_outputs_now_late_and_early :
    ([4, 5, 6].map fun f => let t := run (.lineOutputSend 3) (holding { code := some (0x12, f), pair := none })
      (t.hwi.lhtx.code, t.hwi.outputs[0].code)) = [(0xFF, none), (0x12, none), (0xFF, some (0x12, 6))] ∧
    ([6, 7, 8].map fun f => let t := run (.modemOutputSend 0) (holding { code := none, pair := some (1, 2, f) })
      (t.hwi.mhtx.first, t.hwi.mhtx.second, t.hwi.outputs[0].pair)) =
        [(0, 0, none), (1, 2, none), (0, 0, some (1, 2, 8))] := by decide +kernel

/-! ### Line code, measures and stores -/

theorem test_line_code_values :
    ([1000, 2000, -1200, 0, 32767, -32768].map fun x => (encodeLine .mu x, reference .mu x)) =
      [(0xCE, 988), (0xBF, 1980), (0x4B, -1180), (0xFF, 0), (0x80, 32124), (0x00, -32124)] ∧
    ([100, 1000, -1200, 256, -32768].map fun x => (encodeLine .a x, reference .a x)) =
      [(0xD3, 104), (0xFA, 1008), (0x67, -1184), (0xC5, 264), (0x2A, -32256)] ∧
    decodeLine .mu 0xC9 = 1308 ∧ decodeLine .mu 0x7F = 0 ∧ decodeLine .a 0xD5 = 8 ∧ encodeLine .a 0 = 0xD5 := by
  decide +kernel

theorem test_witness_EncodingReturnsEveryDecodedSample :
    encodeLine .mu 32635 = 0x80 ∧ encodeLine .mu (-32635) = 0x00 ∧ encodeLine .a 32767 = 0xAA ∧
      encodeLine .a (-32767) = 0x2A := by decide +kernel

theorem test_witness_EstimatorsStayWithinTheirRange :
    (let s := { busy with chans := busy.chans.set 0 { busy.chans[0] with pr := 2 ^ 30, peps := 2 ^ 30 } };
      EstimatorsOk s ∧ ∃ t, step s = .next t) ∧
    leak (2 ^ 30) (-32768) ≤ 2 ^ 30 ∧ leak (2 ^ 30) 32767 ≤ 2 ^ 30 ∧ leak 127 0 = 127 ∧ leak 128 0 = 127 ∧
      logValue 127 = 56 ∧ desiredOf 0x7FFF = some 32767 := by
  refine ⟨⟨?_, _, rfl⟩, by decide +kernel⟩
  unfold EstimatorsOk
  decide +kernel

theorem test_witness_LogValuesAndFiguresOfMerit :
    (2 ^ 0 ≤ 0 + 1 ∧ 0 + 1 < 2 ^ (0 + 1)) ∧ (2 ^ 30 ≤ 2 ^ 30 + 1 ∧ 2 ^ 30 + 1 < 2 ^ (30 + 1)) ∧
      (2 ^ 3 ≤ 14 + 1 ∧ 14 + 1 < 2 ^ (3 + 1)) ∧ logValue 14 = 31 ∧ logValue 15 = 32 := by decide +kernel

theorem test_log_table_values :
    ([0, 127, 3000, 4094, 4095, 1572864, 1992001, 2 ^ 30].map logValue) = [0, 56, 91, 95, 96, 164, 167, 240] ∧
    leak 2000000 988 = 1992001 := by decide +kernel

theorem test_echo_update_values :
    estimate (dot [0, 16384, -8192] [988, 1980, -1180]) = 1285 ∧ sat (1308 - 1285) = 23 ∧
    (List.zipWith (adaptTap (shiftOf 1992001 4096 10 15) 23) [0, 16384, -8192, 0] [988, 1980, -1180, 0]) =
      [1, 16385, -8193, 0] := by decide +kernel

theorem test_equalizer_update_values :
    let q : Params := { near := 1, far := 0, bulk := 0, eq := true, aEchoTrain := 8, aEchoTrack := 13, aEqTrain := 7
                        aEqTrack := 12, erleTarget := 64, qualTarget := 48, holdCount := 3, timeout := 5, mainTap := 4
                        lag := 2, waitLimit := 1 }
    let x := { initialContext with
      state := .eqTrain, params := some q, pe := 60000
      resid := [120, -80, 200, 40, 1000, 600, -400, 300] ++ List.replicate 32 0
      lagLine := [410, 700, 980, -150, 0, 0, 0, 0] }
    let g := [0, 0, 0, 0, 16384, -4096] ++ List.replicate 26 0
    equalizerOutput x 120 g = 850 ∧ equalizerError x 760 = 60 ∧
    (alignDesired (some 760) 850 x).lagLine = [850, 410, 700, 980, -150, 0, 0, 0] ∧
    newEqTaps builtInOne x 60 g = [47, 9, 234, 141, 16290, -4026] ++ List.replicate 26 0 := by decide +kernel

theorem test_witness_StoredWordsShowTheirErrors :
    (∀ i < 22, classify (eccEncode 0x1234 ^^^ (1#22 <<< i)) = .corrected 0x1234) ∧
      (∀ i ∈ [0, 2, 21], ∀ j ∈ [0, 5, 21], i ≠ j →
        classify (eccEncode 0x1234 ^^^ (1#22 <<< i) ^^^ (1#22 <<< j)) = .uncorrectable) ∧
      classify (eccEncode 0x8000 ^^^ 1) = .corrected 0x8001 ∧ classify (eccEncode 0x8000) = .good 0x8000 ∧
    MemoryOk initialSal ∧
    (∀ v ∈ [(-32768 : Int), 0, 32767], readSample (writeSample 255 255 v initialSal) 65535 = some v) ∧
    ∀ i < 17, readSample { initialSal with hist := [(9, parityEncode 5 ^^^ (1#17 <<< i))] } 9 = none := by
  unfold MemoryOk
  decide +kernel

/-- The store with one waiting BIND of controller 1, which needs n segments. -/
def waiting (n : Nat) : State :=
  { base with
    chans := base.chans.set 1 { call .pending with owner := some 1, slot := some 4, segs := [], pages := [] }
    sal := { initialSal with waitQ := [{ chan := 1, ctl := 1, segs := n, pages := 1, accepted := 8, limit := 2 }] } }

theorem test_witness_RecheckGrantsFromTheHead :
    base.sal.waitQ = [] ∧
    (reserveSeg 1 (waiting 257) + 257 > (waiting 257).sal.freeSegs.length) ∧
    (reserveSeg 1 (waiting 256) + 256 ≤ (waiting 256).sal.freeSegs.length ∧
      reservePage 1 (waiting 256) + 1 ≤ (waiting 256).sal.freePages.length) := by decide +kernel

theorem test_reserve_counts_the_unused_shares_of_the_others :
    let part := { builtInZero with shareSeg := #v[7, 5, 10, 3], sharePage := #v[1, 2, 3, 4] }
    let s := { (base.setBtl { base.btl with part0 := part }).setSal
        { initialSal with heldSeg := #v[0, 9, 4, 8], heldPage := #v[0, 0, 3, 1] } with
      cbi := { base.cbi with attached := #v[false, true, true, true] } }
    (List.finRange 4).map (fun c => reserveSeg c s) = [6, 6, 0, 6] ∧
      (List.finRange 4).map (fun c => reservePage c s) = [5, 3, 5, 2] := by decide +kernel

theorem test_recheck_grants :
    let t := recheck (waiting 2)
    t.chans[1].state = .bound ∧ t.chans[1].segs = [0, 1] ∧ t.chans[1].pages = [0] ∧ t.sal.waitQ = [] ∧
      t.sal.heldSeg = #v[0, 2, 0, 0] ∧ tapAt t 36 = eccEncode 16384 := by decide +kernel

theorem test_witness_GrantAllocatesZeroedUnits :
    (let s := waiting 2;
      s.chans[1].owner = some 1 ∧ s.chans[1].load = none ∧ MemoryOk s.sal ∧
        s.sal.freeSegs.Nodup ∧ 256 ≤ s.sal.freeSegs.length ∧ 256 ≤ s.sal.freePages.length) ∧
    (let s := withProfile profile ((waiting 2).modChan 1 fun x => { x with load := some 9, bindLink := some 1 });
      s.chans[1].owner = some 1 ∧ s.chans[1].load = some 9 ∧ s.chans[1].bindLink = some 1 ∧ findValid 9 s = some 0 ∧
        (recheck s).chans[1].state = .loading ∧ (recheck s).chans[1].load = none ∧
        (recheck s).jobs.map Job.count = [1]) ∧
    (let s := (waiting 2).modChan 1 fun x => { x with load := some 9, bindLink := some 1 };
      s.chans[1].bindLink = some 1 ∧ findValid 9 s = none ∧ (recheck s).chans[1].state = .bound) := by
  unfold MemoryOk
  decide +kernel

theorem test_witness_EnteringFreeReturnsTheUnits :
    (withCall .bound).chans[0].owner = some 0 ∧
      ((withCall .bound).modChan 0 fun x => { x with owner := none }).chans[0].owner = none ∧
      (enterFree 0 (withCall .bound)).sal.freeSegs = List.finRange 256 ∧
      (enterFree 0 (withCall .bound)).sal.heldSeg = #v[0, 0, 0, 0] := by decide +kernel

/-! ### Transfers and expiries -/

/-- A channel with a job at the head of the queue, in a line frame that has begun. -/
def moving (kind : JobKind) (moved : Nat) : State :=
  let s := withProfile
    { profile with
      state := if kind = .save then .filling else .valid, boundChan := if kind = .save then some 0 else none
      chunks := (profile.chunks.set 0 (List.replicate 32 5)).set 8 (List.replicate 32 6) }
    (withCall (jobState kind))
  { s with
    hwi := { s.hwi with frameDue := true }
    jobs := [{ kind, chan := 0, key := 9, count := 2, moved, eqLast := true, queuedAt := 4 }] }

theorem test_witness_LoadMovesOneSegmentAFrame :
    (∀ m ∈ [0, 1], let s := moving .load m
      s.hwi.line.inSync = true ∧ s.hwi.frameDue = true ∧ s.jobs.length = 1 ∧
        (∀ j ∈ s.jobs, j.kind = .load ∧ j.queuedAt < s.hwi.line.frame ∧
          j.segment s.chans[j.chan] = some (Fin.ofNat 256 m) ∧ findProfile j.key s = some 0 ∧
          (m = 0 → j.moved + 1 < j.count) ∧ (m = 1 → j.count ≤ j.moved + 1))) ∧
    base.hwi.frameDue = false ∧ (setSync .line initialSync base).hwi.line.inSync = false ∧
    (let s := { moving .load 0 with jobs := [] };
      s.hwi.line.inSync = true ∧ s.hwi.frameDue = true ∧ ∀ j ∈ s.jobs.head?, s.hwi.line.frame ≤ j.queuedAt) ∧
    (let s := (moving .load 0).setJobs [{ kind := .load, chan := 0, key := 9, count := 2, moved := 0, eqLast := true, queuedAt := 5 }];
      s.hwi.line.inSync = true ∧ s.hwi.frameDue = true ∧ ∀ j ∈ s.jobs.head?, s.hwi.line.frame ≤ j.queuedAt) ∧
    (MemoryOk initialSal ∧ zeroChunk.length = 32) := by
  unfold MemoryOk
  decide +kernel

theorem test_load_moves :
    (let t := run .lineFrameStart (moving .load 0);
      tapAt t 0 = eccEncode 5 ∧ tapAt t 32 = 0 ∧ t.jobs.map Job.moved = [1] ∧ t.chans[0].state = .loading) ∧
    (let t := run .lineFrameStart (moving .load 1);
      tapAt t 0 = 0 ∧ tapAt t 63 = eccEncode 6 ∧ t.jobs = [] ∧ t.chans[0].state = .bound) := by decide +kernel

theorem test_witness_SaveMovesOneSegmentAFrame :
    (∀ m ∈ [0, 1], let s := moving .save m
      s.hwi.line.inSync = true ∧ s.hwi.frameDue = true ∧ s.jobs.length = 1 ∧
        s.chans[0].owner = some 0 ∧ (s.modChan 0 fun x => { x with bindLink := some 1 }).chans[0].bindLink = some 1 ∧
        s.chans[0].bindLink = none ∧ s.pfs.recs[0].boundChan = some 0 ∧ s.chans[0].state = .releasing ∧
        (∀ j ∈ s.jobs, j.kind = .save ∧ j.queuedAt < s.hwi.line.frame ∧
          j.segment s.chans[j.chan] = some (Fin.ofNat 256 m) ∧ findProfile j.key s = some 0 ∧
          (m = 0 → j.moved + 1 < j.count) ∧ (m = 1 → j.count ≤ j.moved + 1)) ∧
        (∀ t ∈ readSegment s.sal (Fin.ofNat 256 m), t.cls = .good 0) ∧
        (∀ t ∈ readSegment { s.sal with taps := [(32 * m, eccEncode 5 ^^^ 1)] } (Fin.ofNat 256 m),
          t.cls = .good 0 ∨ t.cls = .corrected 5) ∧
        ∃ t ∈ readSegment { s.sal with taps := [(32 * m, 3)] } (Fin.ofNat 256 m), t.cls = .uncorrectable) ∧
    MemoryOk { (moving .save 0).sal with taps := [(0, eccEncode 5 ^^^ 1)] } := by
  unfold MemoryOk
  decide +kernel

theorem test_save_corrects_what_it_copies :
    let s := (moving .save 0).setSal { (moving .save 0).sal with taps := [(0, eccEncode 5 ^^^ 1)] }
    let t := run .lineFrameStart s
    t.pfs.recs[0].chunks[0].take 2 = [5, 0] ∧ tapAt t 0 = eccEncode 5 ∧ t.chans[0].eccCount = 1 ∧
      t.chans[0].firstCorr = true ∧ (t.fifos[0].entries.map fun e => (e.kind, e.detail)) = [(.eccCorrected, 0)] ∧
      t.jobs.map Job.moved = [1] := by decide +kernel

theorem test_save_ends_valid_or_empty :
    (let t := run .lineFrameStart ((moving .save 1).setSal (writeTap 33 7 (moving .save 1).sal));
      t.pfs.recs[0].state = .valid ∧ (t.pfs.recs[0].chunks[8]).take 2 = [0, 7] ∧ t.pfs.recency = [0] ∧
        t.pfs.recs[0].boundChan = none ∧ t.chans[0].state = .free ∧ t.jobs = []) ∧
    (let t := run .lineFrameStart ((moving .save 0).setSal { (moving .save 0).sal with taps := [(0, 3)] });
      t.pfs.recs[0].state = .empty ∧ t.chans[0].state = .free ∧ t.jobs = []) := by decide +kernel

/-- Two waiting BINDs that are due. -/
def waitingTwo : State :=
  { waiting 2 with
    chans := (waiting 2).chans.set 2 { call .pending with owner := some 2, slot := some 5, segs := [], pages := [] }
    sal := { (waiting 2).sal with waitQ := (waiting 2).sal.waitQ ++
      [{ chan := 2, ctl := 2, segs := 2, pages := 1, accepted := 7, limit := 3 }] } }

theorem test_witness_DueWaitEndsInNoRoom :
    ((waiting 2).sal.waitQ.filter fun e => timeReached (waiting 2) e.accepted e.limit) = (waiting 2).sal.waitQ ∧
      (waiting 2).sal.waitQ.length = 1 ∧
      (let s := { waiting 2 with btl := { base.btl with timebase := 9 } };
        ∀ e ∈ s.sal.waitQ, timeReached s e.accepted e.limit = false) ∧
      (waiting 2).chans[1].owner = some 1 ∧
      ((waiting 2).modChan 1 fun x => { x with bindLink := some 1 }).chans[1].bindLink = some 1 ∧
      (run .waitDeadline (waiting 2)).chans[1].state = .free ∧
      (run .waitDeadline (waiting 2)).sal.waitQ = [] ∧
      (waitingTwo.sal.waitQ.filter fun e => timeReached waitingTwo e.accepted e.limit) = waitingTwo.sal.waitQ ∧
      waitingTwo.sal.waitQ.length = 2 ∧ (run .waitDeadline waitingTwo).chans[2].state = .free ∧
      (run .waitDeadline waitingTwo).sal.waitQ = [] := by decide +kernel

/-- Controller 0 has a lock, and t milliseconds have passed since. -/
def locked (l : Lock) (t : Nat) (s : State) : State :=
  (s.setLock 0 (some l)).setBtl { s.btl with timebase := BitVec.ofNat 32 (10 + t) }

theorem test_witness_LockBreaksAtItsLimit :
    (∀ l ∈ [lockOn (.chan 0) .channel (some 0), lockOn (.profile 9) .profileRead none, lockOn (.profile 9) .fill none],
      (let s := locked l 100 (withProfile { profile with state := .filling } (withCall .bound));
        s.locks[0] = some l ∧ l.active = true ∧ timeReached s l.last s.btl.part0.lockLimit = true ∧
          findProfile 9 s = some 0) ∧
      (let s := locked l 99 base;
        timeReached s l.last s.btl.part0.lockLimit = false)) ∧
    findProfile 9 (locked (lockOn (.profile 9) .fill none) 100 base) = none ∧ base.locks[0] = none := by decide +kernel

theorem test_lock_breaks :
    let s := locked (lockOn (.profile 9) .fill none) 100 (withProfile { profile with state := .filling } base)
    let t := run (.lockExpiry 0) s
    t.pfs.recs[0].state = .empty ∧ t.locks[0] = some { lockOn (.profile 9) .fill none with active := false } ∧
      (t.fifos[0].entries.map fun e => (e.kind, e.detail)) = [(.lockBroken, 3)] := by decide +kernel

/-- An event posted t milliseconds ago for controller 0. -/
def aged (t : Nat) : State :=
  { base with
    btl := { base.btl with timebase := BitVec.ofNat 32 (10 + t) }
    fifos := base.fifos.set 0 { initialFifo with
      entries := [{ kind := .echoDegraded, chan := some 0, detail := 0, posted := 10 }] } }

theorem test_witness_EventsJoinTheFifoAndRaiseTheLine :
    (aged 20).cbi.attached[0] = true ∧ (aged 20).btl.resetLow = false ∧ (aged 20).fifos[0].entries.length = 1 ∧
      (aged 20).fifos[0].hold ≤ elapsed (aged 20) 10 ∧ elapsed (aged 19) 10 < (aged 19).fifos[0].hold ∧
      State.reset.cbi.attached[0] = false ∧ base.fifos[0].entries = [] ∧
      (run (.eventHoldReached 0) (aged 20)).fifos[0].line = true ∧
      (run (.eventHoldReached 0) (aged 19)).fifos[0].line = false := by decide +kernel

theorem test_full_fifo_overflows :
    let s := { base with fifos := base.fifos.set 0 { initialFifo with
      entries := List.replicate 32 { kind := .echoDegraded, chan := none, detail := 0, posted := 10 } } }
    (postTo 0 .lineQuiet none 1 s).fifos[0].entries.length = 32 ∧ (postTo 0 .lineQuiet none 1 s).fifos[0].overflow := by
  decide +kernel

/-! ### The lanes -/

theorem test_witness_GrantsGoRoundTheControllers :
    (base.cbi.grant = none ∧ base.cbi.queue.length < 8 ∧ base.cbi.resetPending = false) ∧
    (∀ k : Ctl, (0xF#4).getLsbD k.val = true) ∧
    (∀ j : Ctl, (0xF#4).getLsbD j.val = true → (0 : Ctl) - (base.cbi.lastGranted + 1) ≤ j - (base.cbi.lastGranted + 1)) ∧
    (∀ j : Ctl, (0x8#4).getLsbD j.val = true → (3 : Ctl) - (base.cbi.lastGranted + 1) ≤ j - (base.cbi.lastGranted + 1)) ∧
    8 ≤ (queued (List.replicate 8 (request 1 0 [])) base).cbi.queue.length ∧
    (base.setCbi { base.cbi with grant := some { ctl := 1, words := [], parityBad := false, since := 10 } }).cbi.grant.isSome
      = true ∧ (base.setCbi { base.cbi with resetPending := true }).cbi.resetPending = true := by decide +kernel

/-- Controller 1 has the grant and these words of a record have come. -/
def granted (ws : List Word) : State :=
  base.setCbi { base.cbi with grant := some { ctl := 1, words := ws, parityBad := false, since := 8 } }

theorem test_witness_StrobesReceiveARecord :
    base.cbi.grant = none ∧ (granted []).cbi.grant.map Grant.words = some [] ∧
      (granted [1]).cbi.grant.map Grant.words = some [1] ∧
      (granted [1, 2, 7]).cbi.grant.map Grant.words = some [1, 2, 7] ∧
      (∀ g ∈ (granted []).cbi.grant, timeReached (granted []) g.since 2 = true) ∧
      (let s := (granted []).setBtl { base.btl with timebase := 9 };
        ∀ g ∈ s.cbi.grant, timeReached s g.since 2 = false) := by decide +kernel

theorem test_strobes_at_the_length_word :
    ([(0, true), (1, false), (42, false), (43, true)].map fun p : Word × Bool =>
      (run (.requestWordStrobe p.1 p.2) (granted [1])).cbi.queue.length) = [1, 0, 0, 1] ∧
    (run (.requestWordStrobe 1 true) (granted [1])).cbi.queue.map Request.parityBad = [true] ∧
    (run (.requestWordStrobe 9 true) (granted [1, 2, 7])).cbi.queue.map Request.words = [[7, 9]] := by decide +kernel

/-- The queue's head is answered, a completion is READY, and the arbiter prefers p. -/
def replying (p : Preference) (rq : Request) (a : Option Answer) (ann : Bool) (rdy : Bool) : State :=
  base.setCbi { base.cbi with
    queue := [{ rq with answer := a, announces := ann }], preference := p
    ready := if rdy then [(0, 3)] else []
    deferred :=
      [{ ctl := 0, tag := 3, ready := rdy, announced := rdy, outcome := some (.bound, [1]) },
       { ctl := 0, tag := 0, ready := false, announced := false, outcome := some (.saved, []) }] }

theorem test_witness_ReplyLaneSendsByPreference :
    (let s := replying .response (request 1 0 []) (some (done [])) false true;
      s.cbi.queue.length = 1 ∧ s.cbi.preference = .response ∧ s.cbi.resetPending = false ∧
        (∃ rq ∈ s.cbi.queue.head?, rq.answer = some (done []) ∧ rq.announces = false)) ∧
    (let s := (replying .response (request 1 0 []) (some (done [])) false true).setCbi
        { (replying .response (request 1 0 []) (some (done [])) false true).cbi with resetPending := true };
      s.cbi.resetPending = true ∧ s.cbi.preference = .response ∧ (request 1 0 []).kind ≠ some .partReset ∧
        (run .sendResponse s).cbi.queue = [] ∧ (run .sendResponse s).cbi.resetPending = true) ∧
    (let s := replying .completion (request 0x20 0 []) (some deferred) true false;
      s.cbi.ready = [] ∧ ∃ rq ∈ s.cbi.queue.head?, rq.answer = some deferred ∧ rq.announces = true) ∧
    (let s := replying .completion (request 1 0 []) (some (done [])) false true;
      s.cbi.ready = [(0, 3)] ∧ s.cbi.preference = .completion ∧ s.cbi.ready ≠ [] ∧
        (s.cbi.deferred.find? fun e => e.is 0 3).bind Deferred.outcome = some (.bound, [1])) ∧
    (let s := replying .response (request 1 0 []) none false true;
      (∀ rq ∈ s.cbi.queue.head?, rq.answer = none)) := by decide +kernel

theorem test_reply_lane_records :
    (run .sendResponse (replying .response (request 1 0 []) (some (done [5])) false true)).cbi.lane.map Prod.fst =
      [0x0101, 2, 0, 5] ∧
    (run .sendCompletion (replying .completion (request 1 0 []) (some (done [5])) false true)).cbi.lane =
      [(0x0E01, true), (1, false), (1, false)] ∧
    (run .sendResponse (replying .response (request 0x20 0 []) (some deferred) true false)).cbi.ready = [(0, 0)] := by
  decide +kernel

/-- PART RESET is decided and its response waits. -/
def resetting : State :=
  (replying .response (request 6 0 []) (some (done [])) false false).setCbi
    { (replying .response (request 6 0 []) (some (done [])) false false).cbi with resetPending := true }

theorem test_witness_PartResetTakesEffectWithItsResponse :
    resetting.cbi.resetPending = true ∧ resetting.cbi.queue.length = 1 ∧
      (∀ rq ∈ resetting.cbi.queue, rq.kind = some .partReset ∧ rq.answer = some (done []) ∧ (done []).kind = .done) ∧
      resetting.cbi.preference = .response ∧ resetting.cbi.ready = [] ∧
      (run .partResetEffect resetting).btl.timebase = 10 ∧ (run .partResetEffect resetting).btl.booting = true ∧
      (run .partResetEffect resetting).hwi.line.inSync = true ∧
      (run .partResetEffect resetting).cbi.queue = [] := by decide +kernel

theorem test_part_reset_law_reaches_the_idle_codes :
    let s := { resetting with
      btl := { resetting.btl with part0 := { builtInZero with law := .a } }, hwi := { resetting.hwi with idleLaw := .a } }
    (run (.lineOutputSend 7) s).hwi.lhtx.code = idleCode .a ∧
      (run (.lineOutputSend 7) (run .partResetEffect s)).hwi.lhtx.code = idleCode .mu := by decide +kernel

/-! ### Requests -/

/-- Controller 0's request passes every check of the response stage on s. -/
def asked (k : Kind) (code marker : Nat) (ws : List Word) (s : State) : Bool :=
  !s.cbi.resetPending && (request code marker ws).kind == some k && (request code marker ws).requester == 0
    && !tagOutstanding s 0 (request code marker ws).tag

/-- Such a request reaches its block. -/
theorem asked_reaches {k : Kind} {code marker : Nat} {ws : List Word} {s : State}
    (h : asked k code marker ws s = true) : Reaches k (request code marker ws) (ask code marker ws s) := by
  simp only [asked, Bool.and_eq_true, Bool.not_eq_true', beq_iff_eq] at h
  exact ⟨h.1.1.1, rfl, rfl, h.1.1.2, h.1.2, h.2⟩

/-- Such a request is admitted by a booted part whose controller 0 is attached. -/
theorem asked_admitted {k : Kind} {code marker : Nat} {ws : List Word} {s : State}
    (h : (asked k code marker ws s && s.btl.status != .loading && s.cbi.attached[0]) = true) :
    Admitted k (request code marker ws) (ask code marker ws s) := by
  simp only [Bool.and_eq_true, bne_iff_ne] at h
  exact ⟨asked_reaches h.1.1, h.1.2, h.2⟩

/-- Such a request passes checks 2 to 5 of R76 when the gate is open and controller 0 owns the channel. -/
theorem asked_owned {k : Kind} {code marker : Nat} {ws : List Word} {s : State}
    (h : ((asked k code marker ws s && s.btl.status != .loading && s.cbi.attached[0]) && s.btl.gateOpen
      && decide ((request code marker ws).num 0 < 32)
      && s.chans[(request code marker ws).chan].state != .free
      && s.chans[(request code marker ws).chan].owner == some 0) = true) :
    Owned k (request code marker ws) (ask code marker ws s) := by
  rw [Bool.and_eq_true, Bool.and_eq_true, Bool.and_eq_true, Bool.and_eq_true] at h
  exact ⟨asked_admitted h.1.1.1.1, h.1.1.1.2, of_decide_eq_true h.1.1.2, bne_iff_ne.1 h.1.2, beq_iff_eq.1 h.2⟩

theorem test_witness_ParityAndUnknownKindsAreAnsweredByTheBus :
    (let s := queued [{ request 0x20 0 [] with parityBad := true }] base;
      s.cbi.resetPending = false ∧ (∀ rq ∈ nextRequest s, rq.parityBad = true) ∧ (nextRequest s).isSome) ∧
    (let rq := request 0x2B 0 [];
      nextRequest (queued [rq] base) = some rq ∧ rq.parityBad = false ∧ rq.kind = none ∧ rq.requester = rq.ctl ∧
        base.btl.status ≠ .loading ∧ base.cbi.attached[rq.ctl] = true ∧ State.reset.btl.status = .loading ∧
        State.reset.cbi.attached[rq.ctl] = false ∧ { rq with ctl := 1 }.requester ≠ (1 : Ctl)) := by decide +kernel

theorem test_witness_OldestRequestIsTakenAndAnswered :
    nextRequest (queued [{ request 1 0 [] with answer := some (done []) }, request 2 0 [0]] base) =
      some (request 2 0 [0]) ∧
    ((base.setCbi { base.cbi with resetPending := true }).cbi.resetPending = true) ∧ nextRequest base = none ∧
      (nextRequest (ask 1 0 [] base) = some (request 1 0 []) ∧ (request 1 0 []).kind ≠ some .detach) ∧
      (nextRequest (queued [{ request 1 0 [] with parityBad := true }] base)).map Request.parityBad = some true := by
  decide +kernel

theorem test_witness_BusChecksAnswerInOrder :
    ∀ k ∈ [(Kind.attach, 1), (.queryPart, 5), (.bind, 0x20), (.fetchEvents, 0x60)],
    let rq := request k.2 0 []
    let busyTag := { base.cbi with
      queue := [rq], deferred := [{ ctl := 0, tag := 0, ready := false, announced := false, outcome := none }] }
    let apart := { base.cbi with queue := [rq], attached := Vector.replicate 4 false }
    rq.kind = some k.1 ∧ rq.requester = rq.ctl ∧ { rq with ctl := 3 }.requester ≠ (3 : Ctl) ∧
      nextRequest (ask k.2 0 [] base) = some rq ∧ nextRequest (ask k.2 0 [] State.reset) = some rq ∧
      State.reset.btl.status = .loading ∧ base.btl.status ≠ .loading ∧
      tagOutstanding (base.setCbi busyTag) rq.ctl rq.tag = true ∧
      (base.setCbi apart).cbi.attached[rq.ctl] = false ∧ nextRequest (base.setCbi apart) = some rq := by
  decide +kernel

theorem test_witness_UnsuitableFormIsBadRequest :
    (∀ p ∈ [(Kind.detach, 2, 0), (.openService, 3, 1), (.release, 0x21, 1), (.setEventTrigger, 0x61, 2)],
      Admitted p.1 (request p.2.1 0 (List.replicate p.2.2 0)) (ask p.2.1 0 (List.replicate p.2.2 0) base)) ∧
    Kind.plainWords .detach = some 1 ∧ (request 2 0 []).plain 1 = false ∧ (request 2 1 [0]).plain 1 = false ∧
      (request 2 0 [0, 0]).plain 1 = false ∧ Kind.plainWords .openService = some 0 ∧
      (request 3 0 [0]).plain 0 = false ∧ Kind.plainWords .setEventTrigger = some 3 ∧
      (request 0x61 0 [0, 0]).plain 3 = false := by
  simp only [admitted_iff, reaches_iff]
  decide +kernel

/-- The part with the gate closed. -/
def closed : State := base.setBtl { base.btl with gateOpen := false }

/-- Requests of a form that does not suit their kind, and profile requests of suitable form with key 0 or chunk 9. -/
def unsuitable : List (Kind × Nat × Nat × List Word) :=
  [(.setDefaults, 0x10, 0, [0]), (.setDefaults, 0x10, 0, [1, 0]), (.setDefaults, 0x10, 1, 0 :: List.replicate 15 0),
   (.storeProfileTaps, 0x41, 1, 0 :: 9 :: 0 :: List.replicate 32 0), (.storeProfileTaps, 0x41, 2, [0, 9, 0]),
   (.readProfile, 0x42, 0, [0]), (.readProfileTaps, 0x43, 0, [0, 9]), (.readTaps, 0x50, 0, [0, 0]),
   (.writeTaps, 0x51, 0, [0, 0, 0])]

/-- Those of suitable form with key 0 or chunk 9. -/
def outOfKey : List (Kind × Nat × Nat × List Word) :=
  [(.storeProfileTaps, 0x41, 2, 0 :: 0 :: 0 :: List.replicate 32 0), (.storeProfileTaps, 0x41, 3, [0, 9, 9]),
   (.readProfile, 0x42, 0, [0, 0]), (.readProfileTaps, 0x43, 0, [0, 0, 0]), (.readProfileTaps, 0x43, 0, [0, 9, 9]),
   (.dropProfile, 0x44, 0, [0, 0])]

theorem test_witness_UnsuitableFormIsBadRequest_of_the_other_kinds :
    (∀ i : Fin 9, let p := unsuitable[i]
      asked p.1 p.2.1 p.2.2.1 p.2.2.2 closed = true ∧
        (answer (run p.1.command (ask p.2.1 p.2.2.1 p.2.2.2 closed))).map Answer.code = some 1) ∧
    (∀ i : Fin 6, let p := outOfKey[i]
      asked p.1 p.2.1 p.2.2.1 p.2.2.2 base = true ∧
        (answer (run p.1.command (ask p.2.1 p.2.2.1 p.2.2.2 base))).map Answer.code = some 2) ∧
    (base.btl.status ≠ .loading ∧ base.cbi.attached[0] = true ∧ closed.cbi.attached[0] = true) ∧
    (request 0x10 0 [0]).plain 16 = false ∧ (request 0x10 0 [1, 0]).plain 23 = false ∧
    (Reaches .attach (request 1 1 []) (ask 1 1 [] (base.setCbi initialCbi)) ∧ (request 1 1 []).plain 0 = false) ∧
    (Reaches .queryPart (request 5 0 [0]) (ask 5 0 [0] State.reset) ∧ (request 5 0 [0]).plain 0 = false) ∧
    ([run .attach (ask 1 1 [] (base.setCbi initialCbi)), run .queryPart (ask 5 0 [0] State.reset)].map fun t =>
      (answer t).map Answer.code) = [some 1, some 1] := by
  simp only [reaches_iff]
  decide +kernel

/-- A BIND of channel 31 in timeslot 30 with P2 flags, key 9 and given words. -/
def bindWordsOf (flags mask : Word) (given : List Word) : List Word := [31, 30, flags, 0, 9, mask] ++ given

/-- BINDs with every parameter given, at the values that each range ends at and one that passes it. -/
def bindBounds : List (List Word) :=
  [[0, 0, 0, 0, 0, 0, 0, 0, 0, 0, 1, 1, 0, 1, 1], [9, 0, 0, 0, 0, 0, 0, 0, 0, 0, 1, 1, 0, 1, 1],
   [1, 17, 0, 0, 0, 0, 0, 0, 0, 0, 1, 1, 0, 1, 1], [1, 0, 5121, 0, 0, 0, 0, 0, 0, 0, 1, 1, 0, 1, 1],
   [1, 0, 0, 2, 0, 0, 0, 0, 0, 0, 1, 1, 0, 1, 1], [1, 0, 0, 0, 32, 0, 0, 0, 0, 0, 1, 1, 0, 1, 1],
   [1, 0, 0, 0, 0, 0, 0, 0, 241, 0, 1, 1, 0, 1, 1], [1, 0, 0, 0, 0, 0, 0, 0, 0, 0, 0, 1, 0, 1, 1],
   [1, 0, 0, 0, 0, 0, 0, 0, 0, 0, 4096, 1, 0, 1, 1], [1, 0, 0, 0, 0, 0, 0, 0, 0, 0, 1, 0, 0, 1, 1],
   [1, 0, 0, 0, 0, 0, 0, 0, 0, 0, 1, 1, 32, 1, 1], [1, 0, 0, 0, 0, 0, 0, 0, 0, 0, 1, 1, 0, 0, 1],
   [1, 0, 0, 0, 0, 0, 0, 0, 0, 0, 1, 1, 0, 9, 1], [1, 0, 0, 0, 0, 0, 0, 0, 0, 0, 1, 1, 0, 1, 0],
   [1, 1, 31, 0, 0, 0, 0, 0, 0, 0, 1, 1, 0, 1, 1]]

theorem test_witness_ChannelChecksAnswerInOrder :
    (∀ p ∈ [(Kind.release, 0x21, [31, 1]), (.trainEcho, 0x22, [31]), (.trainEqualizer, 0x23, [31]), (.track, 0x24, [31]),
        (.freeze, 0x25, [31]), (.thaw, 0x26, [31]), (.restart, 0x27, [31]), (.setFarWindow, 0x28, [31, 16, 5120]),
        (.adopt, 0x29, [31]), (.adopt, 0x29, [32]), (.release, 0x21, [31, 2]), (.setFarWindow, 0x28, [31, 17, 0]),
        (.setFarWindow, 0x28, [31, 0, 5121])],
      Admitted p.1 (request p.2.1 0 p.2.2) (ask p.2.1 0 p.2.2 base) ∧
        Admitted p.1 (request p.2.1 0 p.2.2) (ask p.2.1 0 p.2.2 closed) ∧
        p.1.plainWords = some p.2.2.length ∧ (request p.2.1 0 p.2.2).plain p.2.2.length = true) ∧
    (base.btl.gateOpen = true ∧ closed.btl.gateOpen = false ∧ 31 < (request 0x22 0 [32]).num 0 ∧
      base.chans[31].state = .free ∧ (withCall .bound).chans[0].state ≠ .free ∧
      (withCall .bound).chans[0].owner ≠ some 1) ∧
    (∀ ws ∈ bindBounds, Admitted .bind (request 0x20 0 (bindWordsOf 0 0x7FFF ws))
      (ask 0x20 0 (bindWordsOf 0 0x7FFF ws) base)) := by
  refine ⟨fun p h => ?_, by decide +kernel, fun ws h => asked_admitted ?_⟩
  · revert p; simp only [admitted_iff, reaches_iff]; decide +kernel
  · revert ws; decide +kernel

theorem test_bind_refusals :
    (bindBounds.map fun ws => (answer (run .bind (ask 0x20 0 (bindWordsOf 0 0x7FFF ws) base))).map Answer.code) =
      List.replicate 15 (some 2) ∧
    ([(1, bindWordsOf 0 0 []), (0, bindWordsOf 0 0 [7]), (0, bindWordsOf 8 0 []), (0, bindWordsOf 0 0x8000 [7]),
        (0, bindWordsOf 2 0 [])].map fun p =>
      (answer (run .bind (ask 0x20 p.1 p.2 base))).map Answer.code) = List.replicate 5 (some 1) ∧
    ([([32, 30, 0, 0, 0, 0], base), ([31, 32, 0, 0, 0, 0], base), ([31, 30, 1, 0, 0, 0], base),
        (bindWordsOf 0 0 [], closed), ([0, 30, 0, 0, 0, 0], withCall .bound),
        (bindWordsOf 0 0 [], base.setBtl { base.btl with part0 := { builtInZero with usable := 0 } }),
        ([31, 3, 0, 0, 0, 0], withCall .bound)].map fun p =>
      (answer (run .bind (ask 0x20 0 p.1 p.2))).map Answer.code) =
      [some 2, some 2, some 2, some 9, some 5, some 7, some 6] := by decide +kernel

theorem test_witness_AttachAndDetachChangeTheControllerTable :
    Reaches .attach (request 1 0 []) (ask 1 0 [] base) ∧
    Reaches .attach (request 1 0 []) (ask 1 0 [] (base.setCbi initialCbi)) ∧
    (∀ n ∈ [0, 3, 4], Admitted .detach (request 2 0 [word n]) (ask 2 0 [word n] (withCall .bound))) ∧
    (request 1 0 []).plain 0 = true ∧ base.btl.status ≠ .loading ∧ base.cbi.attached[0] = true ∧
      initialCbi.attached[0] = false ∧ (request 2 0 [3]).plain 1 = true ∧ 3 < (request 2 0 [4]).num 0 ∧
      (request 2 0 [3]).num 0 = 3 ∧
      (base.setCbi { base.cbi with attached := #v[true, true, true, false] }).cbi.attached[3] = false :=
  ⟨asked_reaches (by decide +kernel), asked_reaches (by decide +kernel),
   fun n h => asked_admitted (by revert n; decide +kernel), by decide +kernel⟩

theorem test_detach_orphans_and_frees :
    let s := { ask 2 0 [0] (withCall .tracking) with
      chans := (withCall .tracking).chans.set 1
        { call .pending with slot := some 4, segs := [], pages := [] } }
    let t := run .detach s
    t.chans[0].owner = none ∧ t.chans[0].state = .tracking ∧ t.chans[1].state = .free ∧
      t.sal.heldSeg = #v[0, 0, 0, 0] ∧ (t.fifos[1].entries.map fun e => (e.kind, e.chan, e.detail)) =
        [(.channelOrphaned, some 0, 0)] ∧ (answer t).map Answer.results = some [0, 1, 1, 0] := by decide +kernel

theorem test_detach_of_a_controller_with_a_lock :
    (∀ l ∈ [lockOn (.chan 0) .channel (some 0), lockOn (.profile 9) .fill none],
      let s := locked l 0 (withProfile { profile with state := .filling }
        ((withCall .tracking).modChan 0 fun x => { x with lock := decide (l.held = some 0) }))
      s.locks[0] = some l ∧ s.chans[0].owner = some 0 ∧ s.chans[0].state = .tracking ∧ findProfile 9 s = some 0 ∧
        asked .detach 2 0 [0] s = true) ∧
    (let t := run .detach (ask 2 0 [0] (locked (lockOn (.chan 0) .channel (some 0)) 0
        ((withCall .tracking).modChan 0 fun x => { x with lock := true })));
      t.chans[0].lock = false ∧ t.chans[0].state = .tracking ∧ t.locks[0] = none) ∧
    (run .detach (ask 2 0 [0] (locked (lockOn (.profile 9) .fill none) 0
      (withProfile { profile with state := .filling } base)))).pfs.recs[0].state = .empty ∧
    (answer (run .detach (ask 2 1 [4] base))).map Answer.code = some 1 := by decide +kernel

/-- Controller 1 of `contested` has a FILL and the waiting channel 1; controller 0's lock holds that channel too. -/
def detaching : State :=
  { contested with
    pfs := { contested.pfs with recs := contested.pfs.recs.set 1 { contested.pfs.recs[1] with boundChan := some 4 } }
    chans := contested.chans.set 4 { contested.chans[4] with bound := some 10 }
    locks := contested.locks.set 0 (some { lockOn (.chan 0) .channel (some 1) with active := true }) }

theorem test_witness_AttachAndDetachChangeTheControllerTable_lock_and_wait :
    Admitted .detach (request 2 0 [1]) (ask 2 0 [1] detaching) ∧
    (detaching.chans[1].owner = some 1 ∧ detaching.chans[1].state = .pending ∧
      findProfile 10 detaching = some 1 ∧ (detaching.locks[1].map Lock.purpose) = some .fill) ∧
    (let t := run .detach (ask 2 0 [1] detaching);
      t.chans[1].state = .free ∧ t.sal.waitQ = [] ∧ t.pfs.recs[1] = emptyProfile ∧ t.chans[4].bound = none ∧
        t.locks[1] = none ∧ t.locks[0].map Lock.held = some none ∧ t.locks[2] = detaching.locks[2] ∧
        t.chans[0] = detaching.chans[0] ∧ t.pfs.recs[0] = detaching.pfs.recs[0] ∧ t.pfs.recency = [0] ∧
        (answer t).map Answer.results = some [1, 0, 1, 0]) := by
  refine ⟨asked_admitted (by decide +kernel), by decide +kernel, by decide +kernel⟩

theorem test_witness_ServiceGateAndResetRequests :
    (∀ p ∈ [(Kind.openService, 3), (.closeService, 4), (.partReset, 6)],
      Admitted p.1 (request p.2 0 []) (ask p.2 0 [] (withCall .bound)) ∧ (request p.2 0 []).plain 0 = true) ∧
    (withCall .bound).btl.gateOpen = true ∧ (withCall .bound).chans[0].state ≠ .free ∧
      (∀ c : Chan, base.chans[c].state = .free) ∧ State.reset.btl.gateOpen = false := by
  simp only [admitted_iff, reaches_iff]
  decide +kernel

theorem test_witness_QueriesReportAndChangeNothing :
    Reaches .queryPart (request 5 0 []) (ask 5 0 [] State.reset) ∧
    (∀ n ∈ [0, 1, 2], Admitted .readDefaults (request 0x11 0 [word n]) (ask 0x11 0 [word n] base)) ∧
    (∀ n ∈ [0, 1, 2], Admitted .queryStore (request 0x30 0 [word n]) (ask 0x30 0 [word n] base)) ∧
    (∀ n ∈ [(31, 2), (32, 0), (0, 3)],
      Admitted .queryChannel (request 0x2A 0 [word n.1, word n.2]) (ask 0x2A 0 [word n.1, word n.2] base)) ∧
    (∀ n ∈ [0, 63, 64], Admitted .listProfiles (request 0x45 0 [word n]) (ask 0x45 0 [word n] base)) ∧
    (request 0x30 0 [2]).plain 1 = true ∧ (request 0x2A 0 [0, 3]).plain 2 = true :=
  ⟨asked_reaches (by decide +kernel), fun n h => asked_admitted (by revert n; decide +kernel),
   fun n h => asked_admitted (by revert n; decide +kernel), fun n h => asked_admitted (by revert n; decide +kernel),
   fun n h => asked_admitted (by revert n; decide +kernel), by decide +kernel⟩

theorem test_query_part_after_reset :
    (answer (run .queryPart (ask 5 0 [] State.reset))).map Answer.results =
      some [0x0140, 0, 0, 0, 0, 0, 0, 1, 0, 0, 0, 0] := by decide +kernel

theorem test_query_channel_forms :
    ([ChanState.free, .pending, .bound].map fun st => [0, 1, 2].map fun n =>
      (answer (run .queryChannel (ask 0x2A 0 [0, word n] (withCall st)))).map fun a => (a.results.length, a.results.take 2)) =
      [[some (27, [0, 0xFFFF]), some (25, [0, 0]), some (25, [0, 0])],
       [some (27, [1, 0]), some (25, [0, 0]), some (25, [0, 0])],
       [some (27, [3, 0]), some (25, [0, 0]), some (25, [0x0201, 1])]] ∧
    (answer (run .queryStore (ask 0x30 0 [1] (waiting 2)))).map (fun a => (a.results.length, a.results.take 4)) =
      some (25, [1, 0x0101, 0x0201, 0]) := by decide +kernel

/-- Part 0's built-in words with one changed. -/
def zeroWith (i : Nat) (w : Word) : List Word := (zeroWords builtInZero).set i w

theorem test_witness_SetDefaultsInstallsAPart :
    (∀ ws ∈ [zeroWith 11 1, zeroWith 11 0xFFFF, zeroWith 14 255, zeroWith 3 256, zeroWith 14 256, zeroWith 11 0],
      Admitted .setDefaults (request 0x10 0 (0 :: ws)) (ask 0x10 0 (0 :: ws) closed) ∧
        (request 0x10 0 (0 :: ws)).plain 16 = true) ∧
    (zeroInRange (zeroWith 11 1) ∧ zeroInRange (zeroWith 11 0xFFFF) ∧ zeroInRange (zeroWith 14 255) ∧
      zeroInRange (zeroWith 3 256) ∧ zeroInRange (zeroWith 14 256) = false ∧ zeroInRange (zeroWith 11 0) = false) ∧
    (let ws := oneWords builtInOne;
      Admitted .setDefaults (request 0x10 0 (1 :: ws)) (ask 0x10 0 (1 :: ws) closed) ∧
        (request 0x10 0 (1 :: ws)).plain 23 = true ∧ oneInRange ws = true ∧ oneInRange (ws.set 6 0) = false ∧
        Admitted .setDefaults (request 0x10 0 (1 :: ws)) (ask 0x10 0 (1 :: ws) base)) ∧
    1 < (request 0x10 0 [2]).num 0 ∧ base.btl.gateOpen = true ∧ closed.btl.gateOpen = false ∧
    (let s := (locked (lockOn (.chan 0) .channel none) 1 closed);
      timeReached s 10 (zeroOf (zeroWith 11 1)).lockLimit = true ∧
        timeReached s 10 (zeroOf (zeroWith 11 0xFFFF)).lockLimit = false) := by
  simp only [admitted_iff, reaches_iff]
  decide +kernel

/-- Both locks of the contested part are 91 milliseconds old, and the gate is closed. -/
def contestedLate : State :=
  contested.setBtl { contested.btl with gateOpen := false, timebase := 101 }

theorem test_witness_SetDefaultsInstallsAPart_locks_due :
    let s := ask 0x10 0 (0 :: zeroWith 11 91) contestedLate
    Admitted .setDefaults (request 0x10 0 (0 :: zeroWith 11 91)) s ∧
      (request 0x10 0 (0 :: zeroWith 11 91)).plain 16 = true ∧ s.btl.gateOpen = false ∧
      zeroInRange (zeroWith 11 91) = true ∧ ProfilesOk s ∧ LocksOk s ∧ BindingsOk s ∧
      (∀ k : Fin 2, timeReached s 10 (zeroOf (zeroWith 11 91)).lockLimit = true ∧ s.locks[k.val].isSome = true) := by
  refine ⟨asked_admitted (by decide +kernel), by decide +kernel, rfl, by decide +kernel,
    contested_profilesOk, ?_, ?_, by decide +kernel⟩
  · have h := contested_locksOk
    exact ⟨h.objects, h.holds, h.once, h.broken, h.channel, h.profile, h.fill, h.attached⟩
  · have h := contested_bindingsOk
    exact ⟨h.ofProfile, h.ofChannel, h.free, h.saves, h.fills, by decide +kernel⟩

theorem test_lowered_lock_limit_breaks_every_due_lock :
    let t := run .setDefaults (ask 0x10 0 (0 :: zeroWith 11 91) contestedLate)
    (List.finRange 4).map (fun k : Ctl => t.locks[k].map Lock.active) = [some false, some false, some false, none] ∧
      t.chans[0].lock = false ∧ t.chans[0].bound = some 9 ∧ t.pfs.recs[1].state = .empty ∧
      t.pfs.recs[0].state = .valid ∧ t.pfs.recency = [0] ∧
      (List.finRange 4).map (fun k : Ctl => t.fifos[k].entries.map fun e => (e.kind, e.chan, e.detail)) =
        [[(.lockBroken, some 0, 1)], [(.lockBroken, none, 3)], [], []] := by decide +kernel

theorem test_range_check_of_the_site_defaults :
    let one (i : Nat) (w : Word) : Bool := oneInRange ((oneWords builtInOne).set i w)
    zeroInRange (zeroWith 0 1) ∧ zeroInRange (zeroWith 0 2) = false ∧ zeroInRange (zeroWith 10 257) = false ∧
      zeroInRange ((zeroWith 3 128).set 5 128) ∧ zeroInRange ((zeroWith 3 128).set 9 129) = false ∧
      zeroInRange ((zeroWith 4 128).set 10 129) = false ∧ zeroInRange (zeroWith 12 0) = false ∧
    (one 0 31 ∧ one 3 32 = false ∧ one 6 4095 ∧ one 6 4096 = false ∧ one 7 0 = false ∧ one 8 241 = false ∧
      one 10 0 = false ∧ one 9 15 ∧ one 9 16 = false ∧ one 11 241 = false ∧ one 12 241 = false ∧ one 13 0 = false ∧
      one 14 241 = false ∧ one 15 0 = false ∧ one 16 32 = false ∧ one 17 9 = false ∧ one 18 9 = false ∧
      one 19 1 = false ∧ one 20 5120 ∧ one 20 5121 = false ∧ one 21 2 = false ∧ one 4 0xFFFF ∧ one 5 0xFFFF) ∧
    oneInRange (((oneWords builtInOne).set 19 16).set 20 128) ∧
      oneInRange (((oneWords builtInOne).set 19 16).set 20 127) = false := by decide +kernel

theorem test_site_defaults_words_in_the_order_of_the_table :
    zeroWords { builtInZero with law := .a, shareSeg := #v[1, 2, 3, 4], sharePage := #v[5, 6, 7, 8] } =
      [1, 0xFFFF, 0xFFFF, 1, 5, 2, 6, 3, 7, 4, 8, 100, 2000, 4, 20] ∧
    oneWords builtInOne =
      [8, 13, 7, 12, 64, 48, 400, 16000, 96, 0, 1024, 0, 24, 800, 64, 16000, 4, 2, 4, 0, 0, 1] := by decide +kernel

theorem test_witness_BindGrantsLoadsOrWaits :
    (∀ p ∈ [((0 : Word), (0x7FFF : Word), [(8 : Word), 16, 5120, 1, 31, 31, 31, 31, 240, 240, 4095, 65535, 31, 8, 65535]),
        (0, 0x7FFF, [1, 0, 0, 0, 0, 0, 0, 0, 0, 0, 1, 1, 0, 1, 1]), (3, 0, []), (4, 0, []), (5, 0, [])],
      Bindable (request 0x20 0 (bindWordsOf p.1 p.2.1 p.2.2))
        (ask 0x20 0 (bindWordsOf p.1 p.2.1 p.2.2) (withProfile profile base))) ∧
    foundProfile (request 0x20 0 (bindWordsOf 5 0 [])) (withProfile profile base) = some 0 ∧
    foundProfile (request 0x20 0 (bindWordsOf 5 0 [])) base = none ∧
    (request 0x20 0 (bindWordsOf 5 0 [])).mayWait = true ∧ (request 0x20 0 (bindWordsOf 0 0 [])).mayWait = false ∧
    base.sal.waitQ = [] ∧ (waiting 2).sal.waitQ.length = 1 ∧
    8 ≤ (List.replicate 8 (0 : Nat)).length ∧ ¬ 257 ≤ base.sal.freeSegs.length := by
  refine ⟨fun p h => (bindable_iff _ _).2 ⟨asked_admitted ?_, ?_⟩, by decide +kernel⟩
  · revert p; decide +kernel
  · revert p; decide +kernel

theorem test_bind_at_once_and_waiting :
    (let t := run .bind (ask 0x20 0 (bindWordsOf 0 0 []) base);
      t.chans[31].state = .bound ∧ t.chans[31].slot = some 30 ∧ t.chans[31].segs = [0, 1, 2, 3, 4] ∧
        (answer t).map Answer.results = some [31, 1, 3, 0, 4, 0, 0, 1, 4, 2]) ∧
    (let t := run .bind (ask 0x20 0 (bindWordsOf 4 0 []) (waiting 2));
      t.chans[31].state = .pending ∧ t.sal.waitQ.length = 2 ∧ (answer t).map Answer.kind = some .deferred) := by
  decide +kernel

theorem test_witness_ReleaseFreesOrSaves :
    (∀ st ∈ [ChanState.pending, .loading, .bound, .echoTrain, .eqTrain, .tracking, .fault, .releasing],
      Owned .release (request 0x21 0 [0, 1]) (ask 0x21 0 [0, 1] (withCall st))) ∧
    (∀ st ∈ [ChanState.pending, .loading, .bound, .echoTrain, .eqTrain, .tracking, .fault, .releasing],
      (endOwnLock 0 0 (withCall st)).chans[0].state = st) ∧
    ((request 0x21 0 [0, 1]).plain 2 = true ∧ (request 0x21 0 [0, 1]).num 1 < 2 ∧ (request 0x21 0 [0, 0]).num 1 < 2) ∧
    (let s := (withCall .tracking).modChan 0 fun x => { x with converged := true, learn := some 9 };
      s.chans[0].converged = true ∧ (s.chans[0].bound <|> s.chans[0].learn) = some 9 ∧
        (saveDecision 0 0 s).toOption = some 0 ∧
        (saveDecision 0 0 (withProfile { profile with state := .filling } s)).toOption = none) ∧
    base.locks[0] = none ∧
    (locked (lockOn (.chan 0) .channel (some 0)) 0 (withCall .bound)).locks[0] =
      some (lockOn (.chan 0) .channel (some 0)) ∧ (lockOn (.profile 9) .fill none).obj ≠ .chan 0 := by
  refine ⟨fun st h => asked_owned ?_, by decide +kernel, by decide +kernel, by decide +kernel, by decide +kernel⟩
  revert st; decide +kernel

/-- Every record is in use: one evictable, the others FILLING. -/
def full : State :=
  { base with pfs :=
      { recs := (Vector.replicate 64 { profile with key := some 7, state := .filling }).set 5 profile, recency := [5] } }

/-- That state with another profile in record 5. -/
def fullWith (p : Profile) : State := { full with pfs := { full.pfs with recs := full.pfs.recs.set 5 p } }

/-- A converged call in TRACKING with a bound profile or a learn key. -/
def converged (bound learn : Option Key) : State :=
  (withCall .tracking).modChan 0 fun x => { x with converged := true, bound, learn, convErle := some 70 }

/-- Another controller reads profile 9 under a lock. -/
def readByOther (s : State) : State := s.setLock 1 (some (lockOn (.profile 9) .profileRead none))

/-- The rows of Table 7-3: a bound profile, free and locked by another; a learn key without a profile, with and without
room; a learn key with a profile, VALID, FILLING, bound elsewhere and locked. -/
def saveRows : List State :=
  [withProfile { profile with boundChan := some 0 } (converged (some 9) none),
   readByOther (withProfile { profile with boundChan := some 0 } (converged (some 9) none)),
   converged none (some 9),
   { converged none (some 10) with
     pfs := (fullWith { profile with desc := { profile.desc with pinned := true } }).pfs },
   withProfile profile (converged none (some 9)), withProfile { profile with state := .filling } (converged none (some 9)),
   withProfile { profile with boundChan := some 3 } (converged none (some 9)),
   readByOther (withProfile profile (converged none (some 9)))]

theorem test_witness_ReleaseFreesOrSaves_by_the_rows_of_the_save :
    (∀ i : Fin 8, Owned .release (request 0x21 0 [0, 0]) (ask 0x21 0 [0, 0] saveRows[i]) ∧
      saveRows[i].chans[0].converged = true ∧ (endOwnLock 0 0 saveRows[i]).chans[0].state = .tracking ∧
      (saveRows[i].chans[0].bound.isSome || saveRows[i].chans[0].learn.isSome) = true) ∧
    (saveRows.map fun s => (findProfile 9 s, recordFor s, s.locks[1].isSome)) =
      [(some 0, some 1, false), (some 0, some 1, true), (none, some 0, false), (some 5, none, false),
       (some 0, some 1, false), (some 0, some 1, false), (some 0, some 1, false), (some 0, some 1, true)] ∧
    findProfile 10 saveRows[3] = none ∧
    (saveRows.map fun s => let t := run .release (ask 0x21 0 [0, 0] s)
      (t.chans[0].state, t.jobs.length, (t.cbi.deferred.head?.bind Deferred.outcome).map fun o => o.2.take 2)) =
      [(.releasing, 1, none), (.free, 0, some [0, 3]), (.releasing, 1, none), (.free, 0, some [0, 4]),
       (.releasing, 1, none), (.free, 0, some [0, 3]), (.free, 0, some [0, 3]), (.free, 0, some [0, 3])] := by
  refine ⟨fun i => ⟨asked_owned ?_, ?_⟩, by decide +kernel, by decide +kernel, by decide +kernel⟩
  · revert i; decide +kernel
  · revert i; decide +kernel

theorem test_save_writes_the_record :
    let t := run .release (ask 0x21 0 [0, 0] (withProfile
      { profile with boundChan := some 0, useCount := 3, desc := { profile.desc with pinned := true, near := 2 } }
      (converged (some 9) none)))
    t.pfs.recs[0].desc = { profile.desc with
      pinned := true, near := 1, farHint := 0, bulkHint := 0, mainTap := 4, lag := 2, eq := true, best := 70 } ∧
      t.pfs.recs[0].useCount = 3 ∧ t.pfs.recs[0].state = .filling ∧ t.pfs.recs[0].boundChan = some 0 := by
  decide +kernel

theorem test_release_saves :
    let s := (withCall .tracking).modChan 0 fun x => { x with converged := true, learn := some 9, convErle := some 70 }
    let t := run .release (ask 0x21 0 [0, 0] s)
    t.chans[0].state = .releasing ∧ t.chans[0].slot = none ∧ t.jobs.map Job.count = [2] ∧
      t.pfs.recs[0].state = .filling ∧ t.pfs.recs[0].desc.best = 70 ∧
      (answer t).map Answer.kind = some .deferred := by decide +kernel

theorem test_release_without_save :
    let t := run .release (ask 0x21 0 [0, 0] (withCall .tracking))
    t.chans[0].state = .free ∧ t.sal.freeSegs = List.finRange 256 ∧ (answer t).map Answer.results = some [3, 2, 1] := by
  decide +kernel

theorem test_witness_CallStateRequestsMoveTheChannel :
    (∀ p ∈ [(Kind.trainEcho, 0x22), (.trainEqualizer, 0x23), (.track, 0x24), (.freeze, 0x25), (.thaw, 0x26),
        (.restart, 0x27)],
      ∀ st ∈ [ChanState.loading, .bound, .echoTrain, .eqTrain, .tracking, .fault],
        Owned p.1 (request p.2 0 [0]) (ask p.2 0 [0] (withCall st))) ∧
    (∀ p ∈ [(Kind.freeze, 0x25), (.thaw, 0x26), (.restart, 0x27)], ∀ st ∈ [ChanState.pending, .releasing],
      Owned p.1 (request p.2 0 [0]) (ask p.2 0 [0] (withCall st))) ∧
    (request 0x22 0 [0]).plain 1 = true ∧ (withCall .bound).chans[0].par.eq = true ∧
      ((withCall .bound).modChan 0 fun x => { x with params := none }).chans[0].par.eq = false ∧
    (inTraining (training .echoTrain id).chans[0].state = true ∧ (training .echoTrain id).chans[0].owner = some 0 ∧
      (training .echoTrain id).chans[0].trainLink = some 2 ∧ (withCall .echoTrain).chans[0].trainLink = none ∧
      inTraining (withCall .bound).chans[0].state = false) := by
  refine ⟨fun p hp st h => asked_owned ?_, fun p hp st h => asked_owned ?_, by decide +kernel⟩
  · revert st; revert p; decide +kernel
  · revert st; revert p; decide +kernel

theorem test_hold_and_restart_in_the_states_that_refuse_them :
    ([ChanState.pending, .loading, .releasing].map fun st =>
      [(0x25, Instr.freeze), (0x26, .thaw), (0x27, .restart)].map fun p =>
        (answer (run p.2 (ask p.1 0 [0] (withCall st)))).map Answer.code) =
      [[some 5, some 5, some 5], [some 0, some 0, some 5], [some 5, some 5, some 5]] := by decide +kernel

theorem test_training_hold_and_restart :
    (run .trainEcho (ask 0x22 0 [0] (withCall .bound))).chans[0].state = .echoTrain ∧
      (run .trainEqualizer (ask 0x23 0 [0] (withCall .bound))).chans[0].trainLink = some 0 ∧
      (run .track (ask 0x24 0 [0] (training .echoTrain id))).chans[0].state = .tracking ∧
      (run .freeze (ask 0x25 0 [0] (withCall .bound))).chans[0].freeze = true ∧
      (answer (run .thaw (ask 0x26 0 [0] ((withCall .bound).modChan 0 fun x => { x with lock := true })))).map
        Answer.results = some [2] ∧
      (run .restart (ask 0x27 0 [0] (training .tracking id))).chans[0].pr = 0 := by decide +kernel

theorem test_witness_SetFarWindowAndAdopt :
    (∀ n ∈ [(0, 0), (1, 32), (16, 5120), (1, 31), (16, 0)],
      Owned .setFarWindow (request 0x28 0 [0, word n.1, word n.2]) (ask 0x28 0 [0, word n.1, word n.2] (withCall .bound))) ∧
    (∀ c ∈ [0, 31], Admitted .adopt (request 0x29 0 [word c]) (ask 0x29 0 [word c] (withCall .bound))) ∧
    Admitted .adopt (request 0x29 0 [0])
      (ask 0x29 0 [0] ((withCall .bound).modChan 0 fun x => { x with owner := none })) ∧
    ((request 0x28 0 [0, 16, 5120]).plain 3 = true ∧ (request 0x28 0 [0, 16, 5120]).num 1 ≤ 16 ∧
      (request 0x28 0 [0, 16, 5120]).num 2 ≤ 5120 ∧ (request 0x29 0 [31]).num 0 < 32) ∧
    (reserveSeg 0 (withCall .bound) + 16 ≤ (withCall .bound).sal.freeSegs.length ∧
      ¬ reserveSeg 0 (withCall .bound) + 16 ≤ ((List.finRange 256).take 15).length) ∧
    (withCall .bound).chans[31].state = .free ∧ (withCall .bound).chans[0].owner = some 0 ∧ (0 : Ctl) ≠ 1 := by
  refine ⟨fun n h => asked_owned ?_, fun n h => asked_admitted ?_, asked_admitted (by decide +kernel), by decide +kernel⟩
  · revert n; decide +kernel
  · revert n; decide +kernel

theorem test_far_window_grows_and_adopt :
    (let t := run .setFarWindow (ask 0x28 0 [0, 2, 40] (withCall .bound));
      t.chans[0].segs = [0, 2, 3, 1] ∧ t.chans[0].pages = [0] ∧ t.sal.heldSeg = #v[4, 0, 0, 0] ∧
        (answer t).map Answer.results = some [2, 40, 1, 256]) ∧
    (let t := run .adopt (ask 0x29 0 [0] ((withCall .bound).modChan 0 fun x => { x with owner := none }));
      t.chans[0].owner = some 0 ∧ t.sal.heldSeg = #v[4, 0, 0, 0] ∧
        (answer t).map Answer.results = some [3, 0, 2, 1]) := by decide +kernel

theorem test_witness_LockMarkersBeginContinueAndEnd :
    ((request 0x50 0 []).marker = .none ∧ (request 0x50 1 []).marker = .begin ∧ (request 0x50 2 []).marker = .continue ∧
      (request 0x50 3 []).marker = .ending) ∧ base.locks[0] = none ∧
    (let s := locked (lockOn (.chan 0) .channel (some 0)) 0 base;
      s.locks[0] = some (lockOn (.chan 0) .channel (some 0)) ∧ (lockOn (.chan 0) .channel (some 0)).active = true ∧
        (lockOn (.chan 0) .channel (some 0)).obj ≠ .chan 1) ∧
    { lockOn (.chan 0) .channel (some 0) with active := false }.active = false := by decide +kernel

/-- STORE PROFILE of key n: one near chunk. -/
def storeWordsOf (n : Word) : List Word := [0, n, 0, 0x0100, 0, 0, 0, 0x0401, 0]

/-- STORE PROFILE TAPS of key n, chunk i. -/
def tapsOf (n i : Word) : List Word := [0, n, i] ++ List.replicate 32 0x8000

/-- A fill of key 9 in progress under controller 0's lock. -/
def filling : State :=
  locked (lockOn (.profile 9) .fill none) 0
    (withProfile { profile with state := .filling, desc := { profile.desc with aEchoTrain := none } } base)

theorem test_witness_FillsAndDropsOfProfiles :
    (∀ n ∈ [9, 10],
      Admitted .storeProfile (request 0x40 1 (storeWordsOf (word n))) (ask 0x40 1 (storeWordsOf (word n)) (withProfile profile base))) ∧
    (∀ p ∈ [((0 : Word), 2), (8, 2), (0, 3)],
      Admitted .storeProfileTaps (request 0x41 p.2 (tapsOf 9 p.1)) (ask 0x41 p.2 (tapsOf 9 p.1) filling)) ∧
    Admitted .storeProfileTaps (request 0x41 3 [0, 9, 0]) (ask 0x41 3 [0, 9, 0] filling) ∧
    (∀ n ∈ [9, 10],
      Admitted .dropProfile (request 0x44 0 [0, word n]) (ask 0x44 0 [0, word n] (withProfile profile base))) ∧
    (∀ k : Key, NoOtherLock 0 (.profile k) base ∧ NoOtherHold 0 0 base) ∧
    (let rq := request 0x40 1 (storeWordsOf 9);
      rq.length = 9 ∧ rq.marker = .begin ∧ rq.num 2 < 64 ∧ rq.key ≠ 0 ∧ (rq.descriptor 2).inRange = true) ∧
    (∀ m ∈ [2, 3], let rq := request 0x41 m (tapsOf 9 8)
      rq.key ≠ 0 ∧ rq.num 2 ≤ 8 ∧ rq.words.length = rq.length ∧ rq.length = 35 ∧
        (rq.marker = .continue ∨ rq.marker = .ending)) := by
  refine ⟨fun n h => asked_admitted ?_, fun p h => asked_admitted ?_, asked_admitted (by decide +kernel),
    fun n h => asked_admitted ?_, fun k => ⟨?_, ?_⟩, by decide +kernel, by decide +kernel⟩
  · revert n; decide +kernel
  · revert p; decide +kernel
  · revert n; decide +kernel
  · intro j l _ e
    rw [show base.locks[j] = none by simp [base, State.reset]] at e
    cases e
  · intro j l _ e
    rw [show base.locks[j] = none by simp [base, State.reset]] at e
    cases e

theorem test_witness_FillsAndDropsOfProfiles_states :
    (findProfile 9 (withProfile profile base) = some 0 ∧ findProfile 10 (withProfile profile base) = none ∧
      recordFor (withProfile profile base) = some 1) ∧
    (∀ st ∈ [ChanState.bound, .releasing],
      let s := withProfile { profile with boundChan := some 0 } (withCall st)
      boundChanOf 9 s = some 0 ∧ s.pfs.recs[0].key = some 9 ∧ s.chans[0].state = st) ∧
    (filling.locks[0] = some (lockOn (.profile 9) .fill none) ∧ findProfile 9 filling = some 0 ∧
      filling.pfs.recs[0].boundChan = none ∧ filling.pfs.recs[0].desc.near ≤ 8) ∧
    (loadSource 9 busy = true ∧ loadSource 9 base = false ∧ lockedByAny (.profile 9) filling = true) ∧
    (request 0x44 0 [0, 9]).plain 2 = true ∧ (request 0x44 0 [0, 9]).key ≠ 0 := by decide +kernel

/-- The entries that a CONTINUE or END on profile 9 is refused for: none, a broken one, one on another object, and
controller 0's own PROFILE READ and FILL locks on the profile. -/
def ownEntries : List State :=
  [withProfile profile base,
   locked { lockOn (.profile 9) .fill none with active := false } 0 (withProfile profile base),
   locked (lockOn (.profile 8) .fill none) 0 (withProfile profile base),
   locked (lockOn (.profile 9) .profileRead none) 0 (withProfile profile base), filling]

theorem test_witness_FillsAndDropsOfProfiles_lock_step :
    (∀ i : Fin 5, ∀ p ∈ [((2 : Nat), tapsOf 9 0), (3, tapsOf 9 8), (3, [0, 9, 0])],
      Admitted .storeProfileTaps (request 0x41 p.1 p.2) (ask 0x41 p.1 p.2 ownEntries[i])) ∧
    (ownEntries.map fun s => (answer (run .storeProfileTaps (ask 0x41 2 (tapsOf 9 0) s))).map Answer.code) =
      [some 17, some 16, some 15, some 15, some 0] ∧
    (ownEntries.map fun s => (run .storeProfileTaps (ask 0x41 2 (tapsOf 9 0) s)).locks[0].isSome) =
      [false, false, true, true, true] := by
  refine ⟨fun i p h => asked_admitted ?_, by decide +kernel, by decide +kernel⟩
  revert i; revert p; decide +kernel

theorem test_store_profile_refusals_and_the_record_taken :
    recordFor full = some 5 ∧
    recordFor (fullWith { profile with desc := { profile.desc with pinned := true } }) = none ∧
    ([(1, storeWordsOf 10, fullWith { profile with boundChan := some 3 }),
        (0, storeWordsOf 10, base), (1, storeWordsOf 0, base), (1, storeWordsOf 9, filling),
        (1, storeWordsOf 9, locked { lockOn (.profile 9) .fill none with active := false } 0 base),
        (1, storeWordsOf 9, { base with locks := base.locks.set 1 (some (lockOn (.profile 9) .fill none)) }),
        (1, storeWordsOf 9, { withProfile profile base with jobs := busy.jobs })].map fun p =>
      (answer (run .storeProfile (ask 0x40 p.1 p.2.1 p.2.2))).map fun a => (a.kind, a.code)) =
      [some (.refused, 14), some (.refused, 1), some (.refused, 2), some (.refused, 15), some (.done, 0),
       some (.retry, 3), some (.retry, 4)] := by decide +kernel

theorem test_fill_of_a_profile :
    (let t := run .storeProfile (ask 0x40 1 (storeWordsOf 10) (withProfile profile base));
      t.pfs.recs[1].state = .filling ∧ (answer t).map Answer.results = some [1] ∧
        (t.locks[0].map Lock.purpose) = some .fill) ∧
    (let t := run .storeProfileTaps (ask 0x41 3 (tapsOf 9 0) filling);
      t.pfs.recs[0].state = .valid ∧ t.pfs.recs[0].chunks[0] = List.replicate 32 0x8001 ∧ t.locks[0] = none ∧
        (answer t).map Answer.kind = some .done) ∧
    (let t := run .storeProfileTaps (ask 0x41 3 [0, 9, 0] filling);
      t.pfs.recs[0].state = .empty ∧ (answer t).map Answer.code = some 18) ∧
    (run .dropProfile (ask 0x44 0 [0, 9] (withProfile profile base))).pfs.recs[0].state = .empty := by decide +kernel

/-- A lock step with marker NONE passes. -/
theorem passes_none {rq : Request} (h : rq.marker = .none) (o : LockObj) (b : Prop) (a : Lock → Prop) (s : State) :
    LockPasses rq o b a s := by
  refine ⟨fun e => ?_, fun e => ?_⟩
  · rw [h] at e; cases e
  · rw [h] at e; rcases e with e | e <;> cases e

/-- A lock step with marker BEGIN passes where the controller has no entry. -/
theorem passes_begin {rq : Request} {s : State} (h : rq.marker = .begin) (hl : s.locks[rq.ctl] = none) (o : LockObj)
    {b : Prop} (hb : b) (a : Lock → Prop) : LockPasses rq o b a s := by
  refine ⟨fun _ => ⟨fun l e => ?_, hb⟩, fun e => ?_⟩
  · rw [hl] at e; cases e
  · rw [h] at e; rcases e with e | e <;> cases e

/-- A lock step with marker CONTINUE or END passes on the controller's own ACTIVE entry. -/
theorem passes_held {rq : Request} {s : State} {l : Lock} (hl : s.locks[rq.ctl] = some l) (ha : l.active = true)
    {o : LockObj} (ho : l.obj = o) {a : Lock → Prop} (hb : a l) (hm : rq.marker = .continue ∨ rq.marker = .ending)
    (b : Prop) : LockPasses rq o b a s := by
  refine ⟨fun e => ?_, fun _ => ⟨l, hl, ha, ho, hb⟩⟩
  rw [e] at hm
  rcases hm with h | h <;> cases h

theorem test_witness_ProfileReadsReportStoredOrLive :
    (∀ st ∈ [ChanState.bound, .fault],
      Admitted .readProfile (request 0x42 1 [0, 9])
        (ask 0x42 1 [0, 9] (withProfile { profile with boundChan := some 0 } (withCall st)))) ∧
    (∀ i ∈ [0, 1, 8],
      Admitted .readProfileTaps (request 0x43 0 [0, 9, word i]) (ask 0x43 0 [0, 9, word i] (withProfile profile base))) ∧
    (∀ o a, LockPasses (request 0x43 0 [0, 9, 0]) o False a base ∧ LockPasses (request 0x42 1 [0, 9]) o True a base) ∧
    (∀ st ∈ [ChanState.bound, .fault],
      let s := withProfile { profile with boundChan := some 0 } (withCall st)
      findProfile 9 s = some 0 ∧ s.pfs.recs[0].boundChan = some 0 ∧ s.chans[0].state = st ∧
        s.chans[0].segs[0]? = some 0 ∧ s.chans[0].eqSeg = some 1) ∧
    (profile.desc.eq = false ∧ profile.desc.near = 1 ∧ (request 0x43 0 [0, 9, 8]).num 2 = 8) ∧
    (∀ m ∈ [2, 3], let s := locked (lockOn (.profile 9) .profileRead none) 0 (withProfile profile base)
      (Admitted .readProfile (request 0x42 m [0, 9]) (ask 0x42 m [0, 9] s) ∧
        Admitted .readProfileTaps (request 0x43 m [0, 9, 0]) (ask 0x43 m [0, 9, 0] s)) ∧
      LockPasses (request 0x42 m [0, 9]) (.profile 9) False (fun l => l.purpose ≠ .fill ∨ m ≠ 3) s ∧
      LockPasses (request 0x43 m [0, 9, 0]) (.profile 9) False (fun l => l.purpose ≠ .fill ∨ m ≠ 3) s) ∧
    (Admitted .readProfile (request 0x42 0 [0, 8]) (ask 0x42 0 [0, 8] (withProfile profile base)) ∧
      findProfile 8 (withProfile profile base) = none) := by
  refine ⟨fun st h => asked_admitted ?_, fun i h => asked_admitted ?_,
    fun o a => ⟨passes_none (by decide) _ _ _ _, passes_begin (by decide) rfl _ trivial _⟩, by decide +kernel,
    by decide +kernel, fun m h => ⟨⟨asked_admitted ?_, asked_admitted ?_⟩,
      passes_held (l := lockOn (.profile 9) .profileRead none) rfl rfl rfl (Or.inl (by decide)) ?_ _,
      passes_held (l := lockOn (.profile 9) .profileRead none) rfl rfl rfl (Or.inl (by decide)) ?_ _⟩,
    asked_admitted (by decide +kernel), by decide +kernel⟩
  · revert st; decide +kernel
  · revert i; decide +kernel
  · revert m; decide +kernel
  · revert m; decide +kernel
  · revert m; decide
  · revert m; decide

/-- States in which a BEGIN of a read of profile 9 fails: an own ACTIVE lock; another's on the profile, a LOCK by another
on its channel; its channel in PENDING, LOADING and RELEASING. Then one with a broken entry of its own, which passes. -/
def readBegins : List State :=
  [locked (lockOn (.profile 8) .fill none) 0 (withProfile profile base), readByOther (withProfile profile base),
   (withProfile { profile with boundChan := some 0 } (withCall .bound)).setLock 1
     (some (lockOn (.chan 0) .channel (some 0))),
   withProfile { profile with boundChan := some 0 } (withCall .pending),
   withProfile { profile with boundChan := some 0 } (withCall .loading),
   withProfile { profile with boundChan := some 0 } (withCall .releasing),
   locked { lockOn (.profile 9) .fill none with active := false } 0 (withProfile profile base)]

theorem test_witness_ProfileReadsReportStoredOrLive_begin :
    (∀ i : Fin 7, Admitted .readProfile (request 0x42 1 [0, 9]) (ask 0x42 1 [0, 9] readBegins[i]) ∧
      Admitted .readProfileTaps (request 0x43 1 [0, 9, 8]) (ask 0x43 1 [0, 9, 8] readBegins[i])) ∧
    [(0x42, Instr.readProfile, [(0 : Word), 9]), (0x43, Instr.readProfileTaps, [(0 : Word), 9, 0])].map (fun p =>
      readBegins.map fun s => (answer (run p.2.1 (ask p.1 1 p.2.2 s))).map fun a => (a.kind, a.code)) =
      List.replicate 2 [some (.refused, 15), some (.retry, 3), some (.retry, 3), some (.retry, 5), some (.retry, 5),
        some (.retry, 5), some (.done, 0)] := by
  refine ⟨fun i => ⟨asked_admitted ?_, asked_admitted ?_⟩, by decide +kernel⟩
  · revert i; decide +kernel
  · revert i; decide +kernel

theorem test_witness_ProfileReadsReportStoredOrLive_continue_and_end :
    (∀ i : Fin 5, ∀ m ∈ [(2 : Nat), 3],
      Admitted .readProfile (request 0x42 m [0, 9]) (ask 0x42 m [0, 9] ownEntries[i]) ∧
        Admitted .readProfileTaps (request 0x43 m [0, 9, 8]) (ask 0x43 m [0, 9, 8] ownEntries[i])) ∧
    [(2, 0x42, Instr.readProfile, [(0 : Word), 9]), (3, 0x42, .readProfile, [0, 9]),
      (2, 0x43, .readProfileTaps, [0, 9, 0]), (3, 0x43, .readProfileTaps, [0, 9, 0])].map (fun p =>
      ownEntries.map fun s => (answer (run p.2.2.1 (ask p.2.1 p.1 p.2.2.2 s))).map Answer.code) =
      [[some 17, some 16, some 15, some 0, some 0], [some 17, some 16, some 15, some 0, some 15],
       [some 17, some 16, some 15, some 0, some 0], [some 17, some 16, some 15, some 0, some 15]] := by
  refine ⟨fun i m h => ⟨asked_admitted ?_, asked_admitted ?_⟩, by decide +kernel⟩
  · revert i; revert m; decide +kernel
  · revert i; revert m; decide +kernel

theorem test_profile_reads :
    (let s := (withProfile { profile with boundChan := some 0 } (withCall .bound)).setSal
        { (withCall .bound).sal with taps := [(33, 3), (34, eccEncode 5 ^^^ 1)] };
      let t := run .readProfileTaps (ask 0x43 0 [0, 9, 8] s)
      (answer t).map (fun a => (a.live, a.marks, a.results.take 3)) = some (true, some 2, [0, 0, 5]) ∧
        tapAt t 34 = eccEncode 5 ∧ t.chans[0].eccCount = 1) ∧
    (let t := run .readProfile (ask 0x42 1 [0, 9] (withProfile profile base));
      (answer t).map (fun a => (a.live, a.results.take 4)) = some (false, [2, 4, 0x0100, 0]) ∧ t.free = 4 ∧
        t.locks[0].map Lock.purpose = some .profileRead) := by decide +kernel

/-- The call of channel 0 with one far segment. -/
def withFar (st : ChanState) : State :=
  (withCall st).modChan 0 fun x => { x with segs := [0, 2, 1], params := some { params with far := 1, bulk := 32 } }

theorem test_witness_TapRequestsReadAndWriteASegment :
    (∀ p ∈ [0, 2],
      Admitted .readTaps (request 0x50 1 [0, word p, 0]) (ask 0x50 1 [0, word p, 0] (withCall .bound))) ∧
    (∀ m ∈ [0, 1], Admitted .writeTaps (request 0x51 m ([(0 : Word), 2, 0] ++ List.replicate 32 0x8000))
      (ask 0x51 m ([(0 : Word), 2, 0] ++ List.replicate 32 0x8000) (withCall .bound))) ∧
    ((request 0x50 1 [0, 2, 0]).num 0 < 32 ∧ windowOfCode ((request 0x50 1 [0, 2, 0]).num 1) = some .equalizer ∧
      (request 0x50 1 [0, 2, 0]).words.length = (request 0x50 1 [0, 2, 0]).length ∧
      (request 0x51 0 ([(0 : Word), 2, 0] ++ List.replicate 32 0x8000)).length = 35) ∧
    ((withCall .bound).chans[0].segs[0]? = some 0 ∧ (withCall .bound).chans[0].segs[1]? = some 1 ∧
      (withCall .bound).locks[0] = none ∧ heldByOther 0 0 (withCall .bound) = false) ∧
    (∀ t ∈ readSegment (withCall .bound).sal 0, t.cls = .good 0) ∧
    ((withCall .bound).chans[0].freeze = false ∧
      ((withCall .bound).modChan 0 fun x => { x with freeze := true }).chans[0].freeze = true) ∧
    ((List.finRange 25)[7]? = some 7 ∧ (List.finRange 25)[8 + 15]? = some 23 ∧ (List.finRange 25)[8 + 16]? = some 24) := by
  refine ⟨fun p h => asked_admitted ?_, fun m h => asked_admitted ?_, by decide +kernel, by decide +kernel,
    by decide +kernel, by decide +kernel, by decide +kernel⟩
  · revert p; decide +kernel
  · revert m; decide +kernel

theorem test_witness_TapRequestsReadAndWriteASegment_held_and_far :
    (∀ m ∈ [2, 3], let s := locked (lockOn (.chan 0) .channel (some 0)) 0 (withFar .bound)
      Admitted .readTaps (request 0x50 m [0, 1, 0]) (ask 0x50 m [0, 1, 0] s) ∧
      LockPasses (request 0x50 m [0, 1, 0]) (.chan 0) False (fun _ => True) s) ∧
    (∀ m ∈ [2, 3], Admitted .writeTaps (request 0x51 m ([(0 : Word), 1, 0] ++ List.replicate 32 0x8000))
      (ask 0x51 m ([(0 : Word), 1, 0] ++ List.replicate 32 0x8000)
        (locked (lockOn (.chan 0) .channel (some 0)) 0 (withFar .bound)))) ∧
    ((withFar .bound).chans[0].segs[(withFar .bound).chans[0].par.near + 0]? = some 2 ∧
      windowOfCode ((request 0x50 2 [0, 1, 0]).num 1) = some .far ∧ 0 < (withFar .bound).chans[0].par.far) ∧
    (∀ st ∈ [ChanState.free, .pending, .loading, .bound, .releasing, .fault],
      Admitted .readTaps (request 0x50 1 [0, 0, 0]) (ask 0x50 1 [0, 0, 0] (withCall st)) ∧
        (withCall st).locks[0] = none ∧ (withCall st).chans[0].state = st) := by
  refine ⟨fun m h => ⟨asked_admitted ?_,
      passes_held (l := lockOn (.chan 0) .channel (some 0)) rfl rfl rfl trivial ?_ _⟩, fun m h => asked_admitted ?_,
    by decide +kernel, fun st h => ⟨asked_admitted ?_, ?_, ?_⟩⟩
  · revert m; decide +kernel
  · revert m; decide
  · revert m; decide +kernel
  · revert st; decide +kernel
  · revert st; decide +kernel
  · revert st; decide +kernel

/-- Tap requests that fail a check of Table 8-1 after the form, in its order: gate, range, lock step, ownership, state and
window. -/
def tapRefusals : List (Bool × Nat × List Word × State) :=
  let orphan := (withCall .bound).modChan 0 fun x => { x with owner := none }
  let plain := (withCall .bound).modChan 0 fun x => { x with params := some { params with eq := false } }
  [(false, 0, [0, 0, 0], (withCall .bound).setBtl { base.btl with gateOpen := false }),
   (false, 0, [32, 0, 0], withCall .bound), (false, 0, [0, 3, 0], withCall .bound), (true, 0, [0, 0, 8], withCall .bound),
   (true, 0, [0, 1, 16], withCall .bound), (false, 0, [0, 2, 1], withCall .bound),
   (false, 2, [0, 0, 0], withCall .bound), (true, 1, [0, 0, 0], locked (lockOn (.chan 0) .channel (some 0)) 0 (withCall .bound)),
   (false, 3, [0, 0, 0], locked { lockOn (.chan 0) .channel none with active := false } 0 (withCall .bound)),
   (false, 2, [0, 0, 0], locked (lockOn (.profile 9) .profileRead (some 0)) 0 (withCall .bound)),
   (true, 0, [0, 0, 0], orphan), (true, 0, [0, 0, 0], withCall .fault), (false, 0, [0, 0, 0], withCall .free),
   (false, 0, [0, 0, 0], withCall .pending), (false, 0, [0, 2, 0], plain), (false, 0, [0, 0, 1], withCall .bound),
   (false, 0, [0, 1, 0], withCall .bound)]

theorem test_witness_TapRequestsReadAndWriteASegment_refusals :
    (tapRefusals.map fun p =>
      let ws := if p.1 then p.2.2.1 ++ List.replicate 32 0 else p.2.2.1
      let code := if p.1 then 0x51 else 0x50
      (asked (if p.1 then .writeTaps else .readTaps) code p.2.1 ws p.2.2.2,
        ((answer (run (if p.1 then .writeTaps else .readTaps) (ask code p.2.1 ws p.2.2.2))).map Answer.code))) =
      ([9, 2, 2, 2, 2, 2, 17, 15, 16, 15, 4, 5, 5, 5, 19, 2, 2].map fun n => (true, some n)) := by decide +kernel

theorem test_tap_requests_by_state_lock_and_window :
    ([ChanState.free, .pending, .loading, .releasing].map fun st =>
      (answer (run .readTaps (ask 0x50 1 [0, 0, 0] (withCall st)))).map fun a => (a.kind, a.code)) =
      [some (.refused, 5), some (.refused, 5), some (.retry, 5), some (.refused, 5)] ∧
    (let s := { withCall .bound with locks := base.locks.set 1 (some (lockOn (.profile 9) .profileRead (some 0))) };
      [(0x50, Instr.readTaps, [(0 : Word), 0, 0]),
        (0x51, Instr.writeTaps, [(0 : Word), 0, 0] ++ List.replicate 32 0)].map fun p =>
        (answer (run p.2.1 (ask p.1 1 p.2.2 s))).map fun a => (a.kind, a.code)) =
      [some (.retry, 3), some (.retry, 3)] ∧
    (let s := (withCall .loading).modChan 0 fun x => { x with bindLink := some 1 };
      let t := run .readTaps (ask 0x50 0 [0, 0, 0] ((s.setSal { s.sal with taps := [(31, 3)] }).setJobs
        [{ kind := .load, chan := 0, key := 9, count := 2, moved := 0, eqLast := true, queuedAt := 4 }]));
      t.chans[0].state = .fault ∧ t.chans[0].bindLink = none ∧ t.jobs = [] ∧
        (t.fifos[0].entries.map Event.kind) = [.channelFault]) ∧
    tapAt (run .writeTaps (ask 0x51 3 ([0, 1, 0] ++ List.replicate 32 7)
      (locked (lockOn (.chan 0) .channel (some 0)) 0 (withFar .bound)))) 95 = eccEncode 7 := by decide +kernel

theorem test_tap_reads_and_writes :
    (let t := run .readTaps (ask 0x50 0 [0, 0, 0] ((withCall .bound).setSal { (withCall .bound).sal with taps := [(31, 3)] }));
      t.chans[0].state = .fault ∧ (answer t).map Answer.marks = some (some 0x80000000) ∧
        (t.fifos[0].entries.map fun e => (e.kind, e.detail)) = [(.channelFault, 31)]) ∧
    (let t := run .writeTaps (ask 0x51 1 ([0, 2, 0] ++ List.replicate 32 0x8000) (withCall .bound));
      tapAt t 32 = eccEncode 0x8001 ∧ tapAt t 31 = 0 ∧ (answer t).map Answer.results = some [32] ∧
        t.chans[0].lock = true) ∧
    (answer (run .writeTaps (ask 0x51 0 ([0, 2, 0] ++ List.replicate 32 0) (withCall .bound)))).map Answer.code =
      some 5 := by decide +kernel

theorem test_witness_EventRequestsServeTheFifo :
    Admitted .fetchEvents (request 0x60 0 []) (ask 0x60 0 [] base) ∧
    (∀ n ∈ [(0, 0, 0), (16, 255, 1), (65535, 256, 1), (4, 20, 2)],
      Admitted .setEventTrigger (request 0x61 0 [word n.1, word n.2.1, word n.2.2]) (ask 0x61 0 [word n.1, word n.2.1, word n.2.2] base)) ∧
    ((request 0x60 0 []).plain 0 = true ∧ (request 0x61 0 [65535, 256, 1]).plain 3 = true ∧
      (request 0x61 0 [65535, 256, 1]).num 2 ≤ 1 ∧ 255 < (request 0x61 0 [65535, 256, 1]).num 1 ∧
      (request 0x61 0 [16, 255, 1]).num 1 ≤ 255 ∧ 1 < (request 0x61 0 [4, 20, 2]).num 2) ∧
    (answer (run .setEventTrigger (ask 0x61 0 [4, 20, 2] base))).map Answer.code = some 1 := by
  refine ⟨asked_admitted (by decide +kernel), fun n h => asked_admitted ?_, by decide +kernel, by decide +kernel⟩
  revert n; decide +kernel

theorem test_fetch_and_trigger :
    (let t := run .fetchEvents (ask 0x60 0 [] (aged 20));
      (answer t).map Answer.results = some [0x0100, 0x0740, 0, 10] ∧ t.fifos[0].entries = []) ∧
    (let t := run .setEventTrigger (ask 0x61 0 [5, 0, 1] (aged 20));
      t.fifos[0].level = 8 ∧ t.fifos[0].hold = 1 ∧ t.fifos[0].entries = [] ∧
        (answer t).map Answer.results = some [8, 1, 1]) := by decide +kernel

end Sys2Proof.Tests
end

section
/-! The highways: what a pulse, its absence and the transmit positions leave (R3–R6, R13–R17). -/

namespace Sys2Proof.Machine

/-! ### Events posted to every controller (R179–R182) -/

/-- Posting to a controller touches the FIFOs alone. -/
theorem postTo_eq (k : Ctl) (e : EventKind) (ch : Option Chan) (d : Nat) (s : State) :
    postTo k e ch d s = { s with fifos := (postTo k e ch d s).fifos } := by
  unfold postTo evalLine
  split <;> rfl

/-- Posting to a controller keeps every other controller's FIFO. -/
theorem postTo_fifos_other {k j : Ctl} (h : k ≠ j) (e : EventKind) (ch : Option Chan) (d : Nat) (s : State) :
    (postTo k e ch d s).fifos[j] = s.fifos[j] := by
  unfold postTo evalLine
  split
  · simp only [State.setFifo_fifos, getElem_set_other _ _ _ _ h]
  · rfl

/-- What is placed depends on the controller table, the controller's own FIFO and BTL alone. -/
theorem Placed.congr {k : Ctl} {e : Event} {s s' t t' : State} (h : Placed k e s t)
    (ha : s'.cbi.attached = s.cbi.attached) (hf : s'.fifos[k] = s.fifos[k]) (hb : s'.btl = s.btl)
    (ht : t'.fifos[k] = t.fifos[k]) : Placed k e s' t' := by
  obtain ⟨detached, stored, lost, settings, evaluated⟩ := h
  constructor <;> rw [ht] <;> simp only [ha, hf, hb]
  exacts [detached, stored, lost, settings, evaluated]

/-- The FIFO after an event has come: at the tail where there is room, else the overflow flag (R180, R181). -/
def Fifo.push (e : Event) (f : Fifo) : Fifo :=
  if f.entries.length < 32 then { f with entries := f.entries ++ [e] } else { f with overflow := true }

theorem Fifo.push_settings (e : Event) (f : Fifo) : (f.push e).level = f.level ∧ (f.push e).hold = f.hold := by
  unfold Fifo.push
  split <;> exact ⟨rfl, rfl⟩

/-- Nothing is posted to a DETACHED controller (R179). -/
theorem postTo_detached {k : Ctl} {s : State} (ha : s.cbi.attached[k] = false) (e : EventKind) (ch : Option Chan)
    (d : Nat) : postTo k e ch d s = s := by
  unfold postTo
  rw [ha]
  rfl

/-- An ATTACHED controller's FIFO takes the event and its line is evaluated (R180–R182). -/
theorem postTo_attached {k : Ctl} {s : State} (ha : s.cbi.attached[k] = true) (e : EventKind) (ch : Option Chan)
    (d : Nat) :
    let f := s.fifos[k].push { kind := e, chan := ch, detail := word d, posted := s.btl.timebase }
    (postTo k e ch d s).fifos[k] = { f with line := lineAsserted true s.btl.resetLow s.btl.timebase f } := by
  unfold postTo evalLine
  simp only [ha, if_true, State.setFifo_fifos, getElem_set_same, State.setFifo_cbi, State.setFifo_btl]
  rfl

/-- Posting to a controller places the event there (R179–R182). -/
theorem postTo_placed (k : Ctl) (e : EventKind) (ch : Option Chan) (d : Nat) (s : State) :
    Placed k { kind := e, chan := ch, detail := word d, posted := s.btl.timebase } s (postTo k e ch d s) := by
  cases ha : s.cbi.attached[k] with
  | false =>
    rw [postTo_detached ha]
    exact ⟨fun _ => rfl, by simp [ha], by simp [ha], ⟨rfl, rfl⟩, by simp [ha]⟩
  | true =>
    have hf := postTo_attached ha e ch d
    constructor
    case detached => simp [ha]
    case stored => intro _ hl; rw [hf, Fifo.push, if_pos hl]; exact ⟨rfl, rfl⟩
    case lost => intro _ hl; rw [hf, Fifo.push, if_neg (Nat.not_lt.2 hl)]; exact ⟨rfl, rfl⟩
    case settings => rw [hf]; exact Fifo.push_settings _ _
    case evaluated => intro _; rw [hf]; rfl

/-- Posting to several controllers, each once, touches the FIFOs alone and places the event with each of them. -/
theorem foldl_postTo (e : EventKind) (ch : Option Chan) (d : Nat) {l : List Ctl} (hl : l.Nodup) (s : State) :
    let t := l.foldl (fun s k => postTo k e ch d s) s
    t = { s with fifos := t.fifos } ∧ (∀ k, k ∉ l → t.fifos[k] = s.fifos[k]) ∧
      ∀ k ∈ l, Placed k { kind := e, chan := ch, detail := word d, posted := s.btl.timebase } s t := by
  induction l generalizing s with
  | nil => exact ⟨rfl, fun _ _ => rfl, fun _ h => by simp at h⟩
  | cons j l ih =>
    obtain ⟨hj, hl⟩ := List.nodup_cons.1 hl
    obtain ⟨hframe, hother, hplaced⟩ := ih hl (postTo j e ch d s)
    have hs := postTo_eq j e ch d s
    refine ⟨?_, fun k hk => ?_, fun k hk => ?_⟩
    · rw [List.foldl_cons, hframe, hs]
    · obtain ⟨hkj, hkl⟩ := not_or.1 (fun h => hk (List.mem_cons.2 h))
      exact (hother k hkl).trans (postTo_fifos_other (Ne.symm hkj) e ch d s)
    · by_cases hkj : k = j
      · subst hkj
        exact (postTo_placed k e ch d s).congr rfl rfl rfl (hother k hj)
      · have hkl : k ∈ l := (List.mem_cons.1 hk).resolve_left hkj
        have hb : (postTo j e ch d s).btl = s.btl := by rw [hs]
        rw [hb] at hplaced
        exact (hplaced k hkl).congr (by rw [hs]) (postTo_fifos_other (Ne.symm hkj) e ch d s).symm hb.symm rfl

/-- Posting to every attached controller touches the FIFOs alone. -/
theorem postAll_eq (e : EventKind) (ch : Option Chan) (d : Nat) (s : State) :
    postAll e ch d s = { s with fifos := (postAll e ch d s).fifos } :=
  (foldl_postTo e ch d (List.nodup_finRange 4) s).1

/-- Posting to every attached controller places the event with each of them (R179). -/
theorem postAll_placed (e : EventKind) (ch : Option Chan) (d : Nat) (s : State) (k : Ctl) :
    Placed k { kind := e, chan := ch, detail := word d, posted := s.btl.timebase } s (postAll e ch d s) :=
  (foldl_postTo e ch d (List.nodup_finRange 4) s).2.2 k (List.mem_finRange k)

/-- So it does when HWI alone has changed before. -/
theorem postAll_placed_after (e : EventKind) (ch : Option Chan) (d : Nat) (s : State) (b : Hwi) (k : Ctl) :
    Placed k { kind := e, chan := ch, detail := word d, posted := s.btl.timebase } s
      (postAll e ch d { s with hwi := b }) :=
  (postAll_placed e ch d { s with hwi := b } k).congr rfl rfl rfl rfl

/-! ### The record of a highway -/

@[simp] theorem syncOf_setSync (h : Highway) (r : SyncRec) (s : State) : syncOf h (setSync h r s) = r := by
  cases h <;> rfl

theorem syncOf_setSync_other {g h : Highway} (hg : g ≠ h) (r : SyncRec) (s : State) :
    syncOf g (setSync h r s) = syncOf g s := by
  cases g with
  | line => cases h with
    | line => exact absurd rfl hg
    | modem => rfl
  | modem => cases h with
    | line => rfl
    | modem => exact absurd rfl hg

@[simp] theorem setSync_setSync (h : Highway) (q r : SyncRec) (s : State) :
    setSync h r (setSync h q s) = setSync h r s := by
  cases h <;> rfl

@[simp] theorem setSync_syncOf (h : Highway) (s : State) : setSync h (syncOf h s) s = s := by
  cases h <;> rfl

/-! ### The pulse (R3, R4) -/

/-- The state in which a pulse has restarted the period that the two-millisecond tests watch (R187). -/
def pulseSeen (h : Highway) (s : State) : State := setSync h { syncOf h s with watch := s.btl.timebase } s

@[simp] theorem syncOf_pulseSeen (h : Highway) (s : State) :
    syncOf h (pulseSeen h s) = { syncOf h s with watch := s.btl.timebase } := syncOf_setSync _ _ _

@[simp] theorem setSync_pulseSeen (h : Highway) (r : SyncRec) (s : State) :
    setSync h r (pulseSeen h s) = setSync h r s := setSync_setSync _ _ _ _

/-- A pulse on a highway out of sync is one of the search (R3). -/
theorem framePulse_outOfSync {h : Highway} {s : State} (hs : (syncOf h s).inSync = false) (spacing : Nat) :
    framePulse h spacing s = searchPulse h spacing (pulseSeen h s) := by
  unfold framePulse
  rw [hs]
  rfl

/-- A pulse before the nominal spacing loses sync (R4). -/
theorem framePulse_early {h : Highway} {s : State} (hs : (syncOf h s).inSync = true) {spacing : Nat}
    (hn : spacing < nominal h) : framePulse h spacing s = loseSync h 1 (pulseSeen h s) := by
  unfold framePulse
  rw [hs, if_pos rfl, if_pos hn]
  rfl

/-- A pulse at the nominal spacing begins a frame (R4). -/
theorem framePulse_nominal {h : Highway} {s : State} (hs : (syncOf h s).inSync = true) :
    framePulse h (nominal h) s = beginFrame h (pulseSeen h s) := by
  unfold framePulse
  rw [hs, if_pos rfl, if_neg (Nat.lt_irrefl _), if_pos rfl]
  rfl

/-- A pulse after the nominal spacing finds that sync has been lost (log entry 11). -/
theorem framePulse_late {h : Highway} {s : State} (hs : (syncOf h s).inSync = true) {spacing : Nat}
    (hn : nominal h < spacing) :
    framePulse h spacing s = searchPulse h spacing (loseSync h 2 (pulseSeen h s)) := by
  unfold framePulse
  rw [hs, if_pos rfl, if_neg (Nat.lt_asymm hn), if_neg (Nat.ne_of_gt hn)]
  rfl

/-- The starting pulse of a search (R3). -/
theorem searchPulse_first {h : Highway} {s : State} (hs : (syncOf h s).starting = false) (spacing : Nat) :
    searchPulse h spacing s = setSync h { syncOf h s with starting := true, run := 0 } s := by
  simp only [searchPulse, hs, Bool.not_false, if_true]

/-- A pulse off the nominal spacing restarts the run (R3). -/
theorem searchPulse_offNominal {h : Highway} {s : State} (hs : (syncOf h s).starting = true) {spacing : Nat}
    (hn : spacing ≠ nominal h) : searchPulse h spacing s = setSync h { syncOf h s with run := 0 } s := by
  simp only [searchPulse, hs, Bool.not_true, Bool.false_eq_true, if_false, if_neg hn]

/-- A pulse at the nominal spacing adds to the run; the third regains sync (R3). -/
theorem searchPulse_nominal {h : Highway} {s : State} (hs : (syncOf h s).starting = true) :
    searchPulse h (nominal h) s =
      if 3 ≤ (syncOf h s).run + 1 then regainSync h (setSync h { syncOf h s with run := (syncOf h s).run + 1 } s)
      else setSync h { syncOf h s with run := (syncOf h s).run + 1 } s := by
  simp only [searchPulse, hs, Bool.not_true, Bool.false_eq_true, if_false, if_true]

/-! ### Frames, loss and regain (R4–R6, R15) -/

@[simp] theorem syncOf_beginFrame (h : Highway) (s : State) :
    syncOf h (beginFrame h s) = { syncOf h s with frame := (syncOf h s).frame + 1 } := by
  cases h <;> rfl

/-- A regain begins the first synchronised frame and posts SYNC REGAINED with the time since the loss (R3, R5). -/
theorem regainSync_posts (h : Highway) (s : State) : regainSync h s =
    postAll (regainedKind h) none (min 65535 (elapsed s (syncOf h s).lossTime))
      { s with hwi := (beginFrame h (setSync h { syncOf h s with inSync := true } s)).hwi } := by
  cases h <;> rfl

/-- A loss does not ask when the last pulse came. -/
theorem loseSync_pulseSeen (h : Highway) (cause : Nat) (s : State) :
    loseSync h cause (pulseSeen h s) = loseSync h cause s := by
  cases h <;> rfl

/-- HWI after a loss of sync with a cause (R4, R6). -/
def lostHwi (h : Highway) (cause : Nat) (s : State) : Hwi :=
  let r : SyncRec := { syncOf h s with
    inSync := false, run := 0, starting := decide (cause = 1), lossTime := s.btl.timebase, watch := s.btl.timebase }
  let b := (setSync h r s).hwi
  { b with
    inputs := Vector.replicate 32 emptyInput, outputs := Vector.replicate 32 emptyHold
    frameDue := if h = .line then false else b.frameDue }

/-- A loss empties the gathered records and posts SYNC LOST with its cause (R4–R6). -/
theorem loseSync_posts (h : Highway) (cause : Nat) (s : State) :
    loseSync h cause s = postAll (lostKind h) none cause { s with hwi := lostHwi h cause s } := by
  cases h <;> rfl

theorem loseSync_hwi (h : Highway) (cause : Nat) (s : State) : (loseSync h cause s).hwi = lostHwi h cause s := by
  rw [loseSync_posts, postAll_eq]

/-- A highway's record stands in HWI. -/
theorem syncOf_congr {s t : State} (h : Highway) (he : s.hwi = t.hwi) : syncOf h s = syncOf h t := by
  cases h <;> simp only [syncOf, he]

/-- The record that a loss leaves (R4). -/
theorem syncOf_loseSync (h : Highway) (cause : Nat) (s : State) : syncOf h (loseSync h cause s) =
    { syncOf h s with
      inSync := false, run := 0, starting := decide (cause = 1), lossTime := s.btl.timebase
      watch := s.btl.timebase } := by
  rw [syncOf_congr (t := { s with hwi := lostHwi h cause s }) h (loseSync_hwi h cause s)]
  cases h <;> rfl

/-- What a loss of sync leaves (R4, R5, R6). -/
theorem loseSync_syncLost (h : Highway) (cause : Nat) (s : State) : SyncLost h cause s (loseSync h cause s) where
  search := syncOf_loseSync h cause s
  emptied c := by simp [loseSync_hwi, lostHwi]
  other g hg := by
    rw [syncOf_congr (t := { s with hwi := lostHwi h cause s }) g (loseSync_hwi h cause s)]
    exact (syncOf_congr g rfl).trans (syncOf_setSync_other hg _ s)
  sent := by
    rw [loseSync_hwi]
    cases h <;> exact ⟨rfl, rfl, rfl⟩
  events k := by
    rw [loseSync_posts]
    exact postAll_placed_after _ _ _ _ _ _
  frame := by rw [loseSync_posts, postAll_eq]

/-! ### The commands -/

theorem exec_frameSyncPulse (h : Highway) (spacing : Nat) (s : State) :
    exec (.frameSyncPulse h spacing) s = .next (framePulse h spacing s) := rfl

theorem exec_missingSync (h : Highway) (s : State) :
    exec (.missingSync h) s = .next (if (syncOf h s).inSync then loseSync h 2 s else s) := rfl

theorem exec_clockStopped (h : Highway) (s : State) : exec (.clockStopped h) s =
    .next (if (syncOf h s).inSync && timeReached s (syncOf h s).watch 2 then loseSync h 3 s else s) := rfl

theorem exec_syncSearchTimeout (h : Highway) (s : State) : exec (.syncSearchTimeout h) s =
    .next (if !(syncOf h s).inSync && timeReached s (syncOf h s).watch 2 then
      setSync h { syncOf h s with run := 0, starting := false } s else s) := rfl

/-- The third nominal spacing of a search regains sync (R3, R5). -/
theorem framePulse_regains {h : Highway} {s : State} (hs : (syncOf h s).inSync = false)
    (hp : (syncOf h s).starting = true) (hr : 3 ≤ (syncOf h s).run + 1) :
    framePulse h (nominal h) s =
      regainSync h (setSync h { syncOf h s with run := (syncOf h s).run + 1, watch := s.btl.timebase } s) := by
  rw [framePulse_outOfSync hs, searchPulse_nominal (by simp [hp]), if_pos (by simpa using hr)]
  simp

/-- What that pulse leaves: the record in sync, its first frame begun, the event posted, all else as it was. -/
theorem regain_leaves (h : Highway) (s : State) :
    let t := regainSync h (setSync h { syncOf h s with run := (syncOf h s).run + 1, watch := s.btl.timebase } s)
    let r : SyncRec := { syncOf h s with
      inSync := true, run := (syncOf h s).run + 1, frame := (syncOf h s).frame + 1, watch := s.btl.timebase }
    (syncOf h t).inSync = true ∧
      ((h = .line → t.hwi = { s.hwi with line := r, idleLaw := s.btl.part0.law, frameDue := true }) ∧
       (h = .modem → t.hwi = { s.hwi with modem := r })) ∧
      (∀ k : Ctl, Placed k
        { kind := regainedKind h, chan := none, detail := word (min 65535 (elapsed s (syncOf h s).lossTime))
          posted := s.btl.timebase } s t) ∧
      { t with hwi := s.hwi, fifos := s.fifos } = s := by
  intro t r
  have ht : t = postAll (regainedKind h) none (min 65535 (elapsed s (syncOf h s).lossTime))
      { s with hwi := (beginFrame h (setSync h { r with frame := (syncOf h s).frame } s)).hwi } := by
    simp only [t, regainSync_posts]
    cases h <;> rfl
  have hb : t.hwi = (beginFrame h (setSync h { r with frame := (syncOf h s).frame } s)).hwi := by
    rw [ht, postAll_eq]
  refine ⟨?_, ⟨?_, ?_⟩, fun k => ?_, ?_⟩
  · rw [syncOf_congr h hb, syncOf_beginFrame, syncOf_setSync]
  · rintro rfl; exact hb
  · rintro rfl; exact hb
  · rw [ht]; exact postAll_placed_after _ _ _ _ _ k
  · rw [ht, postAll_eq]

end Sys2Proof.Machine

open Sys2Proof Sys2Proof.Machine

/-- Settles O14: the search's cases, then the regain, then the end of a search. -/
theorem searchFollowsThePulses : Obligations.SearchFollowsThePulses := by
  refine ⟨⟨rfl, rfl, rfl, rfl⟩, fun h spacing s hs => ⟨fun hp => ?_, fun hp hn => ?_, ?_, ?_⟩,
    fun h s => ⟨fun hs ht => ?_, fun hst => ?_⟩⟩
  · rw [exec_frameSyncPulse, framePulse_outOfSync hs, searchPulse_first (by simp [hp])]
    simp
  · rw [exec_frameSyncPulse, framePulse_outOfSync hs, searchPulse_offNominal (by simp [hp]) hn]
    simp
  · rintro hp rfl hr
    rw [exec_frameSyncPulse, framePulse_outOfSync hs, searchPulse_nominal (by simp [hp]), if_neg (by simp; omega)]
    simp
  · rintro hp rfl hr
    exact ⟨_, by rw [exec_frameSyncPulse, framePulse_regains hs hp hr], regain_leaves h s⟩
  · rw [exec_syncSearchTimeout, hs, ht]
    rfl
  · rw [exec_syncSearchTimeout, if_neg]
    rcases hst with hs | ht
    · simp [hs]
    · simp [ht]

/-- Settles O15: each of the three causes is one loss. -/
theorem lossOfSyncEmptiesTheGatheredState : Obligations.LossOfSyncEmptiesTheGatheredState := by
  refine ⟨⟨rfl, rfl⟩, fun h s hs => ⟨fun spacing hn => ⟨_, exec_frameSyncPulse h spacing s, ?_⟩,
    ⟨_, exec_missingSync h s, ?_⟩, fun ht => ⟨_, exec_clockStopped h s, ?_⟩⟩⟩
  · rw [framePulse_early hs hn, loseSync_pulseSeen]
    exact loseSync_syncLost h 1 s
  · rw [if_pos hs]
    exact loseSync_syncLost h 2 s
  · rw [hs, ht]
    exact loseSync_syncLost h 3 s

/-- Settles O16: a late pulse finds what MISSING SYNC leaves, where the watch already starts now. -/
theorem pulseInSyncBeginsAFrame : Obligations.PulseInSyncBeginsAFrame := by
  refine ⟨fun s hs => ?_, fun s hs => ?_, fun h spacing s t hs hn ht => ?_⟩
  · exact congrArg _ (framePulse_nominal (h := .line) hs)
  · exact congrArg _ (framePulse_nominal (h := .modem) hs)
  · rw [exec_missingSync, if_pos hs] at ht
    obtain rfl : loseSync h 2 s = t := by simpa using ht
    have hl := syncOf_loseSync h 2 s
    have hw : pulseSeen h (loseSync h 2 s) = loseSync h 2 s := by
      have hb : (loseSync h 2 s).btl = s.btl := by rw [loseSync_posts, postAll_eq]
      rw [pulseSeen, hb]
      calc setSync h { syncOf h (loseSync h 2 s) with watch := s.btl.timebase } (loseSync h 2 s)
          _ = setSync h (syncOf h (loseSync h 2 s)) (loseSync h 2 s) := by rw [hl]
          _ = loseSync h 2 s := setSync_syncOf _ _
    rw [exec_frameSyncPulse, exec_frameSyncPulse, framePulse_late hs hn, loseSync_pulseSeen,
      framePulse_outOfSync (by rw [hl]), hw]
end

section
/-! Arriving inputs and transmit positions (R13, R15–R17). -/

namespace Sys2Proof.Machine

/-! ### Arriving inputs (R1, R6, R13) -/

theorem bothInSync_iff (s : State) : bothInSync s = true ↔ s.hwi.line.inSync = true ∧ s.hwi.modem.inSync = true := by
  rw [bothInSync, Bool.and_eq_true]

/-- A timeslot is unmapped when no channel has it (R73). -/
theorem mappedChan_eq_none_iff (n : Slot) (s : State) :
    mappedChan n s = none ↔ ∀ c : Chan, s.chans[c].slot ≠ some n := by
  simp only [mappedChan, List.find?_eq_none, List.mem_finRange, true_imp_iff, beq_iff_eq, ne_eq]

/-- The channel found for a timeslot has it. -/
theorem slot_of_mappedChan {n : Slot} {s : State} {c : Chan} (h : mappedChan n s = some c) :
    s.chans[c].slot = some n := by
  simpa only [beq_iff_eq] using List.find?_some h

/-- Where no other channel has the timeslot, it is mapped to the one that has it (R73). -/
theorem mappedChan_eq_some_iff {n : Slot} {s : State} {c : Chan}
    (hc : ∀ c' : Chan, c' ≠ c → s.chans[c'].slot ≠ some n) :
    mappedChan n s = some c ↔ s.chans[c].slot = some n := by
  refine ⟨slot_of_mappedChan, fun h => ?_⟩
  cases hm : mappedChan n s with
  | none => exact absurd h ((mappedChan_eq_none_iff n s).1 hm c)
  | some c' =>
    by_cases he : c' = c
    · rw [he]
    · exact absurd (slot_of_mappedChan hm) (hc c' he)

/-- The state with a channel's input record replaced. -/
def withInput (c : Chan) (r : InputRec) (s : State) : State :=
  { s with hwi := { s.hwi with inputs := s.hwi.inputs.set c r } }

/-- A record that lacks one of its parts raises no service (R13). -/
theorem raiseService_incomplete {c : Chan} {s : State}
    (h : s.hwi.inputs[c].code = none ∨ s.hwi.inputs[c].pair = none) : raiseService c s = s := by
  unfold raiseService
  split
  · rename_i hr
    rw [hr] at h
    simp at h
  · rfl

theorem exec_lineCodeArrives (n : Slot) (code : Byte) (s : State) :
    exec (.lineCodeArrives n code) s = .next (lineCode n code s) := rfl

theorem exec_modemPairArrives (c : Chan) (x d : Word) (s : State) :
    exec (.modemPairArrives c x d) s = .next (modemPair c x d s) := rfl

/-- A line code of a mapped timeslot is placed in the record, which is asked for completeness (R13). -/
theorem lineCode_mapped {n : Slot} {s : State} {c : Chan} (hm : mappedChan n s = some c) (hs : bothInSync s = true)
    (code : Byte) : lineCode n code s =
      raiseService c (withInput c { s.hwi.inputs[c] with code := some (code, s.hwi.line.frame) } s) := by
  simp only [lineCode, hm, hs, if_true]
  rfl

/-- A line code of an unmapped timeslot, or out of sync, is discarded (R1, R6). -/
theorem lineCode_discarded {n : Slot} {s : State} (h : mappedChan n s = none ∨ bothInSync s = false) (code : Byte) :
    lineCode n code s = s := by
  unfold lineCode
  cases hm : mappedChan n s with
  | none => rfl
  | some c =>
    have hs : bothInSync s = false := h.resolve_left (by simp [hm])
    simp [hs]

/-- A modem pair of a mapped channel is placed in the record, which is asked for completeness (R13). -/
theorem modemPair_mapped {c : Chan} {s : State} (hm : s.chans[c].slot.isSome = true) (hs : bothInSync s = true)
    (x d : Word) : modemPair c x d s =
      raiseService c (withInput c { s.hwi.inputs[c] with pair := some (x, d, s.hwi.modem.frame) } s) := by
  simp only [modemPair, hm, hs, Bool.and_self, if_true]
  rfl

/-- A modem pair of an unmapped channel, or out of sync, is discarded (R2, R6). -/
theorem modemPair_discarded {c : Chan} {s : State} (h : s.chans[c].slot = none ∨ bothInSync s = false) (x d : Word) :
    modemPair c x d s = s := by
  unfold modemPair
  rcases h with h | h <;> simp [h, -Fin.getElem_fin]

/-! ### Transmit positions (R15, R17) -/

theorem exec_lineOutputSend (n : Slot) (s : State) : exec (.lineOutputSend n) s = .next (lineSend n s) := rfl

theorem exec_modemOutputSend (c : Chan) (s : State) : exec (.modemOutputSend c) s = .next (modemSend c s) := rfl

/-- A held output is sent in its frame, and is held no longer in that frame or after it (R15). -/
theorem sendHeld_some {α : Type} (n m : Nat) (v : α) :
    sendHeld n (some (v, m)) = (if m = n then some v else none, if m ≤ n then none else some (v, m)) := by
  unfold sendHeld
  rcases Nat.lt_trichotomy m n with h | h | h
  · simp [h, Nat.ne_of_lt h, Nat.le_of_lt h]
  · simp [h]
  · simp [Nat.ne_of_gt h, Nat.not_lt.2 (Nat.le_of_lt h), Nat.not_le.2 h]

/-- A holding slot written back as it stands leaves HWI's outputs as they were. -/
theorem outputs_set_self (b : Hwi) (c : Chan) : b.outputs.set c b.outputs[c] = b.outputs := by
  simp

/-- The line's transmit position of a held code (R15, R17). -/
theorem lineSend_held {n : Slot} {c : Chan} {s : State} {v : Byte} {f : Nat} (hm : mappedChan n s = some c)
    (hv : s.hwi.outputs[c].code = some (v, f)) : lineSend n s = { s with hwi := { s.hwi with
      lhtx := { slot := n, code := if f = s.hwi.line.frame then v else idleCode s.hwi.idleLaw }
      outputs := s.hwi.outputs.set c { s.hwi.outputs[c] with
        code := if f ≤ s.hwi.line.frame then none else some (v, f) } } } := by
  simp only [lineSend, hm, hv, sendHeld_some, State.setHwi]
  by_cases h : f = s.hwi.line.frame
  · simp only [if_pos h, Option.getD_some]
  · simp only [if_neg h, Option.getD_none]

/-- The line's transmit position where no code is held sends the idle code (R17). -/
theorem lineSend_idle {n : Slot} {s : State}
    (hn : ∀ c, mappedChan n s = some c → s.hwi.outputs[c].code = none) : lineSend n s =
      { s with hwi := { s.hwi with lhtx := { slot := n, code := idleCode s.hwi.idleLaw } } } := by
  unfold lineSend
  cases hm : mappedChan n s with
  | none => rfl
  | some c =>
    have hslot : ({ s.hwi.outputs[c] with code := none } : HoldSlot) = s.hwi.outputs[c] := by rw [← hn c hm]
    simp only [hn c hm, sendHeld, hslot, outputs_set_self, Option.getD_none]
    rfl

/-- The modem's transmit positions of a held pair (R15). -/
theorem modemSend_held {c : Chan} {s : State} {v w : Int} {f : Nat} (hv : s.hwi.outputs[c].pair = some (v, w, f)) :
    modemSend c s = { s with hwi := { s.hwi with
      mhtx := { chan := c, first := if f = s.hwi.modem.frame then v else 0
                second := if f = s.hwi.modem.frame then w else 0 }
      outputs := s.hwi.outputs.set c { s.hwi.outputs[c] with
        pair := if f ≤ s.hwi.modem.frame then none else some (v, w, f) } } } := by
  have hpair : (if f ≤ s.hwi.modem.frame then none else some ((v, w), f)).map (fun p => (p.1.1, p.1.2, p.2)) =
      if f ≤ s.hwi.modem.frame then none else some (v, w, f) := by
    split <;> rfl
  simp only [modemSend, hv, Option.map_some, sendHeld_some, hpair, State.setHwi]
  by_cases h : f = s.hwi.modem.frame
  · simp only [if_pos h, Option.getD_some]
  · simp only [if_neg h, Option.getD_none]

/-- The modem's transmit positions where no pair is held send 0 and 0 (R15). -/
theorem modemSend_idle {c : Chan} {s : State} (hn : s.hwi.outputs[c].pair = none) : modemSend c s =
    { s with hwi := { s.hwi with mhtx := { chan := c, first := 0, second := 0 } } } := by
  have hslot : ({ s.hwi.outputs[c] with pair := none } : HoldSlot) = s.hwi.outputs[c] := by rw [← hn]
  simp only [modemSend, hn, Option.map_none, sendHeld, hslot, outputs_set_self, Option.getD_none]
  rfl

end Sys2Proof.Machine

open Sys2Proof Sys2Proof.Machine

/-- Settles O17: the mapping, then each input placed or discarded. -/
theorem inputsFillTheInputRecord : Obligations.InputsFillTheInputRecord := by
  refine ⟨bothInSync_iff, fun n s => ⟨mappedChan_eq_none_iff n s, fun c => mappedChan_eq_some_iff⟩,
    fun n code c s hm hs hp => ?_, fun c x d s hm hs hc => ?_, fun n code s h => ?_, fun c x d s h => ?_⟩
  · rw [exec_lineCodeArrives, lineCode_mapped hm hs, raiseService_incomplete (.inr (by simpa [withInput] using hp))]
    simp only [hp, withInput]
  · rw [exec_modemPairArrives, modemPair_mapped hm hs, raiseService_incomplete (.inl (by simpa [withInput] using hc))]
    simp only [hc, withInput]
  · rw [exec_lineCodeArrives, lineCode_discarded h]
  · rw [exec_modemPairArrives, modemPair_discarded h]

/-- Settles O25: the held output by its frame mark, and what is sent where none is held. -/
theorem outputsAreSentInTheirFrame : Obligations.OutputsAreSentInTheirFrame := by
  refine ⟨fun n c s v f hm hv => ?_, fun n s hn => ?_, fun c s v w f hv => ?_, fun c s hn => ?_⟩
  · rw [exec_lineOutputSend, lineSend_held hm hv]
  · rw [exec_lineOutputSend, lineSend_idle hn]
  · rw [exec_modemOutputSend, modemSend_held hv]
  · rw [exec_modemOutputSend, modemSend_idle hn]
end

section
/-! The channel service as a whole: when an input raises it, and the services that pass the received sample through
(R13, R14, R16, R32, R58, R95). -/

namespace Sys2Proof.Machine

/-! ### Raising a service (R13–R15) -/

/-- The state in which a service is carried out: the input record has been emptied (R13). -/
def inputTaken (c : Chan) (s : State) : State := withInput c emptyInput s

@[simp] theorem inputTaken_chans (c : Chan) (s : State) : (inputTaken c s).chans = s.chans := rfl
@[simp] theorem inputTaken_sal (c : Chan) (s : State) : (inputTaken c s).sal = s.sal := rfl

/-- A complete record raises the service of its channel's state; the outputs are held (R13–R15). -/
theorem raiseService_complete {c : Chan} {s u : State} {code : Byte} {x d : Word} {n m : Nat} {y z : Int}
    (hs : serviceByState c (recvSample code s) (refSample x s) (desiredOf d) (inputTaken c s) = some (u, y, z))
    (hu : u.hwi = (inputTaken c s).hwi) :
    raiseService c (withInput c { code := some (code, n), pair := some (x, d, m) } s) =
      { u with hwi := served c (sentCode x s) y z n m s.hwi } := by
  have hin : (withInput c { code := some (code, n), pair := some (x, d, m) } s).hwi.inputs[c] =
      { code := some (code, n), pair := some (x, d, m) } := getElem_set_same _ _ _
  have htaken : inputTaken c (withInput c { code := some (code, n), pair := some (x, d, m) } s) = inputTaken c s := by
    simp [inputTaken, withInput]
  unfold raiseService
  rw [hin]
  change (match serviceByState c (recvSample code s) (refSample x s) (desiredOf d)
    (inputTaken c (withInput c { code := some (code, n), pair := some (x, d, m) } s)) with
    | none => _
    | some (s2, first, second) => _) = _
  rw [htaken, hs]
  simp only [hu, State.setHwi]
  rfl

/-- The command that completes an input record leaves its service and the outputs (R13–R15). -/
theorem exec_of_raises {i : Instr} {c : Chan} {code : Byte} {x d : Word} {n m : Nat} {s u : State} {y z : Int}
    (hr : Raises i c code x d n m s)
    (hs : serviceByState c (recvSample code s) (refSample x s) (desiredOf d) (inputTaken c s) = some (u, y, z))
    (hu : u.hwi = (inputTaken c s).hwi) :
    exec i s = .next { u with hwi := served c (sentCode x s) y z n m s.hwi } := by
  rw [← raiseService_complete hs hu]
  cases hr with
  | byLine slot command mapped sync held now =>
    rw [command, now, exec_lineCodeArrives, lineCode_mapped mapped sync, ← held]
  | byModem command mapped sync held now =>
    rw [command, now, exec_modemPairArrives, modemPair_mapped mapped sync, ← held]

/-! ### The service of each state (R14, R16, R58) -/

theorem serviceByState_waiting {c : Chan} {s : State} (h : s.chans[c].state = .pending ∨ s.chans[c].state = .loading)
    (y r : Int) (d : Option Int) : serviceByState c y r d s = some (s, y, y) := by
  unfold serviceByState
  rcases h with h | h <;> rw [h]

theorem serviceByState_fault {c : Chan} {s : State} (h : s.chans[c].state = .fault) (y r : Int) (d : Option Int) :
    serviceByState c y r d s = some (s.modChan c (faultMeasure r y), y, y) := by
  unfold serviceByState
  rw [h]

theorem serviceByState_conditioned {c : Chan} {s : State} (h : Conditioned s.chans[c].state) (y r : Int)
    (d : Option Int) : serviceByState c y r d s = some (fullService c y r d s) := by
  unfold serviceByState
  rcases h with h | h | h | h <;> rw [h]

/-! ### Reads and corrections -/

/-- A read of segments asks the tap store alone. -/
theorem readSegments_congr {m m' : Sal} (h : m.taps = m'.taps) (gs : List Seg) :
    readSegments m gs = readSegments m' gs := by
  have hread : readSegment m = readSegment m' := by funext g; simp only [readSegment, h]
  simp only [readSegments, hread]

/-- The words of distinct segments have distinct addresses (R100). -/
theorem readSegments_addr_nodup (m : Sal) {gs : List Seg} (h : gs.Nodup) :
    ((readSegments m gs).map TapRead.addr).Nodup := by
  simp only [readSegments, List.map_flatMap]
  refine List.nodup_flatMap.2 ⟨fun g _ => readSegment_addr_nodup m g, h.imp fun {g g'} hne => ?_⟩
  intro a ha ha'
  simp only [readSegment, List.map_map, List.mem_map, List.mem_range, Function.comp] at ha ha'
  obtain ⟨i, hi, rfl⟩ := ha
  obtain ⟨j, hj, he⟩ := ha'
  exact hne (Fin.ext (by omega))

/-- A write-back keeps the history store beside it. -/
theorem writeBack_withHist (rd : List TapRead) (m : Sal) (hist : List (Nat × BitVec 17)) :
    writeBack rd { m with hist } = { writeBack rd m with hist } := by
  induction rd generalizing m with
  | nil => rfl
  | cons r rd ih =>
    unfold writeBack at ih ⊢
    simp only [List.foldl_cons]
    cases r.cls with
    | good v => exact ih m
    | corrected v => exact ih (writeTap r.addr v m)
    | uncorrectable => exact ih m

/-- The count of corrections changes its two fields alone. -/
theorem countCorrections_eq (rd : List TapRead) (x : Context) : countCorrections rd x =
    { x with eccCount := (countCorrections rd x).eccCount, firstCorr := (countCorrections rd x).firstCorr } := by
  unfold countCorrections
  split <;> rfl

/-- The count of corrections does not ask the write position. -/
theorem countCorrections_withW (rd : List TapRead) (x : Context) (w : Nat) :
    countCorrections rd { x with w } = { countCorrections rd x with w } := by
  unfold countCorrections
  split <;> rfl

/-- What a correction's event leaves in the FIFOs depends on the owner, the flag, the FIFOs, the controller table and
BTL alone. -/
theorem correctionEvent_fifos_congr {c : Chan} {s t : State} (rd : List TapRead)
    (ho : t.chans[c].owner = s.chans[c].owner) (hc : t.chans[c].firstCorr = s.chans[c].firstCorr)
    (hf : t.fifos = s.fifos) (hb : t.btl = s.btl) (ha : t.cbi.attached = s.cbi.attached) :
    (correctionEvent c rd t).fifos = (correctionEvent c rd s).fifos := by
  unfold correctionEvent
  rw [hc]
  cases s.chans[c].firstCorr with
  | true => exact hf
  | false =>
    cases rd.find? fun t => t.cls.isCorrected with
    | none => exact hf
    | some b => exact postOwner_fifos_congr ho hf hb ha

/-! ### Entry to FAULT (R95) -/

/-- The context after entry to FAULT: a training's link is gone (R95). -/
def Context.faulted (x : Context) : Context :=
  { x with state := .fault, trainLink := if inTraining x.state then none else x.trainLink }

/-- The deferred table after a training's completion: the outcome where a training is in progress (R65). -/
def trainingCbi (c : Chan) (o : Result) (ws : List Word) (s : State) : Cbi :=
  if inTraining s.chans[c].state then (postLink c s.chans[c].trainLink o ws s).cbi else s.cbi

theorem trainingCbi_attached (c : Chan) (o : Result) (ws : List Word) (s : State) :
    (trainingCbi c o ws s).attached = s.cbi.attached := by
  unfold trainingCbi
  split
  · exact postLink_attached _ _ _ _ _
  · rfl

/-- What a completion leaves in the deferred table depends on the channel's state, owner and link, and on the table. -/
theorem trainingCbi_congr {c : Chan} {s t : State} (o : Result) (ws : List Word)
    (hs : t.chans[c].state = s.chans[c].state) (hl : t.chans[c].trainLink = s.chans[c].trainLink)
    (ho : t.chans[c].owner = s.chans[c].owner) (hc : t.cbi = s.cbi) :
    trainingCbi c o ws t = trainingCbi c o ws s := by
  unfold trainingCbi
  rw [hs, hl, hc, postLink_cbi_congr ho hc]

/-- Entry to FAULT of a channel that is not loading: the training completed, CHANNEL FAULT posted (R95). -/
theorem enterFault_eq {c : Chan} {s : State} (h : s.chans[c].state ≠ .loading) (a : Nat) :
    enterFault c a s = { s with
      chans := s.chans.set c s.chans[c].faulted
      cbi := trainingCbi c .faulted (trainingWords s.chans[c]) s
      fifos := (postOwner c .channelFault a s).fifos } := by
  have hl : (s.chans[c].state == .loading) = false := by simpa using h
  have hstate : (completeTraining c .faulted s).modChan c (fun x => { x with state := .fault }) = { s with
      chans := s.chans.set c s.chans[c].faulted
      cbi := trainingCbi c .faulted (trainingWords s.chans[c]) s } := by
    unfold completeTraining trainingCbi Context.faulted
    split
    · rw [postLink_eq]
      simp [State.modChan, State.setChan]
    · rfl
  unfold enterFault
  simp only [hl, Bool.false_eq_true, if_false, hstate]
  rw [postOwner_eq, postOwner_fifos_congr (s := s)]
  · simp [Context.faulted]
  · rfl
  · rfl
  · exact trainingCbi_attached _ _ _ _

/-! ### The fault service (R32) -/

/-- A read that meets an uncorrectable word makes the service a fault service, at the first such word (R32). -/
theorem fullService_bad {c : Chan} {s : State} {pre post : List TapRead} {b : TapRead} (r : Int)
    (hrd : tapsRead c s = pre ++ b :: post) (hb : b.cls = .uncorrectable)
    (hpre : ∀ t ∈ pre, t.cls ≠ .uncorrectable) (y : Int) (d : Option Int) :
    fullService c y r d s = (enterFault c b.addr
      ((applyCorrections c (tapsRead c s) (writeHistory c r s)).modChan c (faultMeasure r y)), y, y) := by
  have hread : readSegments (writeHistory c r s).sal (writeHistory c r s).chans[c].segs = tapsRead c s := by
    rw [writeHistory_eq]
    simp only [getElem_set_same]
    exact readSegments_congr rfl _
  have hfirst : firstOf TapClass.isBad (tapsRead c s) = some b.addr := by
    have hnone : pre.find? (fun t => t.cls.isBad) = none := by
      refine List.find?_eq_none.2 fun t ht => ?_
      have := hpre t ht
      cases hc : t.cls <;> simp_all [TapClass.isBad]
    rw [hrd, firstOf, List.find?_append, hnone, Option.none_or, List.find?_cons_of_pos (by rw [hb]; rfl)]
    rfl
  unfold fullService
  simp only [hread, hfirst]

/-- The words of a training that a fault service completes: P_y and P_e have become equal, so ERLE is 0 (R58, R65). -/
def faultWords (x : Context) : List Word :=
  [if x.state = .echoTrain then 0 else 1, if x.state = .echoTrain then 0 else word (quality x),
   if x.state = .echoTrain then word (quality x) else 0, word x.trainFrames, word x.streak, word x.guarded]

/-- The context after a fault service (R20, R31, R58, R95). -/
def faultContext (rd : List TapRead) (r y : Int) (x : Context) : Context :=
  { countCorrections rd x with
    state := .fault, w := (x.w + 1) % (256 * x.pages.length), pr := leak x.pr r, py := leak x.py y, pe := leak x.py y
    trainLink := if x.state = .echoTrain ∨ x.state = .eqTrain then none else x.trainLink }

theorem inTraining_iff (st : ChanState) : inTraining st = true ↔ st = .echoTrain ∨ st = .eqTrain := by
  cases st <;> decide

/-- Entry to FAULT after the stages of a fault service (R58, R95). -/
theorem faulted_faultMeasure (rd : List TapRead) (r y : Int) (x : Context) :
    (faultMeasure r y (countCorrections rd { x with w := (x.w + 1) % (256 * x.pages.length) })).faulted =
      faultContext rd r y x := by
  rw [countCorrections_withW]
  unfold faultContext
  rw [countCorrections_eq]
  simp only [Context.faulted, faultMeasure, inTraining_iff]

/-- The completion of a training that a fault service ends (R58, R65). -/
theorem trainingWords_faultMeasure (rd : List TapRead) (r y : Int) (x : Context) (w : Nat) :
    trainingWords (faultMeasure r y (countCorrections rd { x with w })) = faultWords x := by
  rw [countCorrections_withW, countCorrections_eq]
  have herle : ∀ p : Nat, word (logValue p - logValue p) = 0 := fun p => by rw [Nat.sub_self]; rfl
  by_cases h : x.state = .echoTrain
  · simp only [trainingWords, faultWords, faultMeasure, erle, quality, h, beq_self_eq_true, if_true, herle]
    rfl
  · have hb : (x.state == .echoTrain) = false := by simpa using h
    simp only [trainingWords, faultWords, faultMeasure, erle, quality, hb, h, Bool.false_eq_true, if_false, herle]
    rfl

/-- The reads of a fault service after its write of r, with the measures: what they leave (R20, R31, R58). -/
theorem faultReads_eq (c : Chan) (r y : Int) (rd : List TapRead) (s : State) :
    (applyCorrections c rd (writeHistory c r s)).modChan c (faultMeasure r y) = { s with
      sal := { writeBack rd s.sal with hist := (writeHistory c r s).sal.hist }
      chans := s.chans.set c (faultMeasure r y
        (countCorrections rd { s.chans[c] with w := (s.chans[c].w + 1) % (256 * s.chans[c].pages.length) }))
      fifos := (correctionEvent c rd s).fifos } := by
  have hw := writeHistory_eq c r s
  have hevent : (correctionEvent c rd (writeHistory c r s)).fifos = (correctionEvent c rd s).fifos := by
    refine correctionEvent_fifos_congr rd ?_ ?_ ?_ ?_ ?_ <;> rw [hw] <;> simp only [getElem_set_same]
  rw [applyCorrections_eq, hevent]
  generalize (writeHistory c r s).sal.hist = hist at hw ⊢
  rw [hw, writeBack_withHist]
  simp only [State.modChan, State.setChan, getElem_set_same, Vector.set_set]

/-- A fault service, whole (R20, R31, R32, R58, R95). -/
theorem faultService_eq {c : Chan} {s : State} (h : s.chans[c].state ≠ .loading) (r y : Int) (rd : List TapRead)
    (a : Nat) :
    enterFault c a ((applyCorrections c rd (writeHistory c r s)).modChan c (faultMeasure r y)) = { s with
      sal := { writeBack rd s.sal with hist := (writeHistory c r s).sal.hist }
      chans := s.chans.set c (faultContext rd r y s.chans[c])
      cbi := trainingCbi c .faulted (faultWords s.chans[c]) s
      fifos := (postOwner c .channelFault a (correctionEvent c rd s)).fifos } := by
  have hu := faultReads_eq c r y rd s
  generalize (applyCorrections c rd (writeHistory c r s)).modChan c (faultMeasure r y) = u at hu ⊢
  generalize (writeHistory c r s).sal.hist = hist at hu ⊢
  have hx : u.chans[c] = faultMeasure r y
      (countCorrections rd { s.chans[c] with w := (s.chans[c].w + 1) % (256 * s.chans[c].pages.length) }) := by
    rw [hu]
    exact getElem_set_same _ _ _
  have hkept : u.chans[c].state = s.chans[c].state ∧ u.chans[c].owner = s.chans[c].owner ∧
      u.chans[c].trainLink = s.chans[c].trainLink := by
    rw [hx, countCorrections_withW, countCorrections_eq]
    exact ⟨rfl, rfl, rfl⟩
  obtain ⟨hstate, howner, hlink⟩ := hkept
  have hcbi : u.cbi = s.cbi := by rw [hu]
  have hpost : (postOwner c .channelFault a u).fifos =
      (postOwner c .channelFault a (correctionEvent c rd s)).fifos := by
    rw [correctionEvent_eq]
    refine postOwner_fifos_congr howner ?_ ?_ ?_ <;> rw [hu]
  rw [enterFault_eq (by rw [hstate]; exact h), hpost, trainingCbi_congr _ _ hstate hlink howner hcbi, hx,
    faulted_faultMeasure, trainingWords_faultMeasure, hu]
  simp only [Vector.set_set]

/-- The state after a fault service, with its outputs held (R15, R32, R95). -/
def faultServed (c : Chan) (code : Byte) (x : Word) (n m : Nat) (a : Nat) (s : State) : State :=
  { s with
    hwi := served c (sentCode x s) (recvSample code s) (recvSample code s) n m s.hwi
    sal := { writeBack (tapsRead c s) s.sal with hist := (writeHistory c (refSample x s) s).sal.hist }
    chans := s.chans.set c (faultContext (tapsRead c s) (refSample x s) (recvSample code s) s.chans[c])
    cbi := trainingCbi c .faulted (faultWords s.chans[c]) s
    fifos := (postOwner c .channelFault a (correctionEvent c (tapsRead c s) s)).fifos }

/-- Stage 1 asks nothing of HWI. -/
theorem writeHistory_inputTaken (c : Chan) (r : Int) (s : State) :
    (writeHistory c r (inputTaken c s)).sal.hist = (writeHistory c r s).sal.hist := by
  simp only [writeHistory, inputTaken_chans, inputTaken_sal, State.modChan_sal]
  cases s.chans[c].pages[s.chans[c].w / 256]? <;> rfl

/-- The command that completes the record of a conditioned channel with an uncorrectable tap word (R14, R32). -/
theorem exec_faultService {i : Instr} {c : Chan} {code : Byte} {x d : Word} {n m : Nat} {s : State}
    (hr : Raises i c code x d n m s) (hc : Conditioned s.chans[c].state) {pre post : List TapRead} {b : TapRead}
    (hrd : tapsRead c s = pre ++ b :: post) (hb : b.cls = .uncorrectable)
    (hpre : ∀ t ∈ pre, t.cls ≠ .uncorrectable) :
    exec i s = .next (faultServed c code x n m b.addr s) := by
  have hl : (inputTaken c s).chans[c].state ≠ .loading := by
    rcases hc with h | h | h | h <;> simp [h, -Fin.getElem_fin]
  have hcbi : trainingCbi c .faulted (faultWords (inputTaken c s).chans[c]) (inputTaken c s) =
      trainingCbi c .faulted (faultWords s.chans[c]) s := trainingCbi_congr _ _ rfl rfl rfl rfl
  have hevent : (correctionEvent c (tapsRead c s) (inputTaken c s)).fifos =
      (correctionEvent c (tapsRead c s) s).fifos :=
    correctionEvent_fifos_congr _ rfl rfl rfl rfl rfl
  have hpost : (postOwner c .channelFault b.addr
      (correctionEvent c (tapsRead c (inputTaken c s)) (inputTaken c s))).fifos =
        (postOwner c .channelFault b.addr (correctionEvent c (tapsRead c s) s)).fifos := by
    refine postOwner_fifos_congr ?_ hevent ?_ ?_ <;>
      rw [correctionEvent_eq c _ s, correctionEvent_eq c _ (inputTaken c s)] <;> rfl
  have hservice := (serviceByState_conditioned (s := inputTaken c s) hc (recvSample code s) (refSample x s)
    (desiredOf d)).trans (congrArg some (fullService_bad (s := inputTaken c s) _ hrd hb hpre _ _))
  rw [faultService_eq hl, hcbi, hpost, writeHistory_inputTaken] at hservice
  exact exec_of_raises hr hservice rfl

end Sys2Proof.Machine

open Sys2Proof Sys2Proof.Machine

/-- Settles O18: the services of PENDING and LOADING, of FAULT, and the fault service read off `faultServed`. -/
theorem passThroughAndFaultServices : Obligations.PassThroughAndFaultServices := by
  intro i c code x d n m s hr law out y r x0
  refine ⟨fun hw => ?_, fun hf => ?_, fun pre post b hc hrd hb hpre => ?_⟩
  · have hservice := serviceByState_waiting (s := inputTaken c s) hw (recvSample code s) (refSample x s) (desiredOf d)
    rw [exec_of_raises hr hservice rfl]
    rfl
  · have hservice := serviceByState_fault (s := inputTaken c s) hf (recvSample code s) (refSample x s) (desiredOf d)
    rw [exec_of_raises hr hservice rfl]
    rfl
  · refine ⟨_, exec_faultService hr hc hrd hb hpre, rfl, rfl, fun k g ht ho hg => ?_, fun hn => ?_, rfl,
      fun hm hd => ?_, writeHistory_written rfl, ?_, rfl⟩
    · have hin : inTraining s.chans[c].state = true := (inTraining_iff _).2 ht
      simp only [faultServed, trainingCbi, hin, if_true]
      exact congrArg State.cbi (postLink_some ho hg)
    · simp only [faultServed, trainingCbi]
      split
      · rename_i hin
        rcases hn with hs | hn
        · rcases hs with hs | hs <;> rw [hs] at hin <;> cases hin
        · rw [postLink_none hn]
      · rfl
    · have hback := applyCorrections_writtenBack c hm (readSegments_addr_nodup s.sal hd) (readSegments_addr s.sal _)
      rw [applyCorrections_eq] at hback
      exact hback
    · rw [faultServed, writeBack_eq]
      rfl
end

section
/-! The line code (section 1.3, R7–R12): the accessors of a built field form, the segment and step of a magnitude, and
what the laws decode and encode. -/

namespace Sys2Proof.Machine

/-! ### Field forms (Table 1-2) -/

/-- Between line form and field form there and back (R7). -/
@[simp] theorem lineForm_lineForm (l : Law) (b : Byte) : lineForm l (lineForm l b) = b := by
  cases l <;> simp [lineForm]

/-- The number a built field form spells. -/
theorem fieldForm_toNat {s q : Nat} (hs : s ≤ 7) (hq : q ≤ 15) (p : Bool) :
    (fieldForm p s q).toNat = (if p then 128 else 0) + 16 * s + q := by
  unfold fieldForm
  rw [BitVec.toNat_ofNat, Nat.mod_eq_of_lt]
  split <;> omega

theorem polarity_eq (f : Byte) : polarity f = decide (128 ≤ f.toNat) := by
  unfold polarity
  rw [← BitVec.msb_eq_getLsbD_last, BitVec.msb_eq_decide]

theorem polarity_fieldForm {s q : Nat} (hs : s ≤ 7) (hq : q ≤ 15) (p : Bool) : polarity (fieldForm p s q) = p := by
  rw [polarity_eq, fieldForm_toNat hs hq]
  cases p <;> simp <;> omega

theorem segmentOf_fieldForm {s q : Nat} (hs : s ≤ 7) (hq : q ≤ 15) (p : Bool) : segmentOf (fieldForm p s q) = s := by
  rw [segmentOf, fieldForm_toNat hs hq]
  split <;> omega

theorem stepOf_fieldForm {s q : Nat} (hs : s ≤ 7) (hq : q ≤ 15) (p : Bool) : stepOf (fieldForm p s q) = q := by
  rw [stepOf, fieldForm_toNat hs hq]
  split <;> omega

/-- Every code is the line form of a polarity, a segment and a step (R7, Table 1-2). -/
theorem exists_lineForm_fieldForm (l : Law) (code : Byte) :
    ∃ p s q, s ≤ 7 ∧ q ≤ 15 ∧ code = lineForm l (fieldForm p s q) := by
  have hs : segmentOf (lineForm l code) ≤ 7 := by unfold segmentOf; omega
  have hq : stepOf (lineForm l code) ≤ 15 := by unfold stepOf; omega
  refine ⟨polarity (lineForm l code), _, _, hs, hq, ?_⟩
  suffices h : fieldForm (polarity (lineForm l code)) (segmentOf (lineForm l code)) (stepOf (lineForm l code))
      = lineForm l code by rw [h, lineForm_lineForm]
  apply BitVec.eq_of_toNat_eq
  rw [fieldForm_toNat hs hq, polarity_eq, segmentOf, stepOf]
  have := (lineForm l code).isLt
  split <;> simp_all <;> omega

/-! ### Magnitudes (R8, R9) -/

/-- The number below which a μ-law magnitude lies 132: its leading bit is 2^(s+7) (R8). -/
theorem muMagnitude_add (s q : Nat) : muMagnitude s q + 132 = (8 * q + 132) * 2 ^ s := by
  have h : 132 * 1 ≤ (8 * q + 132) * 2 ^ s := Nat.mul_le_mul (by omega) Nat.one_le_two_pow
  unfold muMagnitude
  omega

theorem muMagnitude_le {s q : Nat} (hs : s ≤ 7) (hq : q ≤ 15) : muMagnitude s q ≤ 32124 := by
  have h : (8 * q + 132) * 2 ^ s ≤ (8 * 15 + 132) * 2 ^ 7 :=
    Nat.mul_le_mul (by omega) (Nat.pow_le_pow_right (by decide) hs)
  have := muMagnitude_add s q
  omega

theorem aMagnitude_bounds {s q : Nat} (hs : s ≤ 7) (hq : q ≤ 15) : 8 ≤ aMagnitude s q ∧ aMagnitude s q ≤ 32256 := by
  unfold aMagnitude
  split
  · omega
  · have h : (16 * q + 264) * 2 ^ (s - 1) ≤ (16 * 15 + 264) * 2 ^ 6 :=
      Nat.mul_le_mul (by omega) (Nat.pow_le_pow_right (by decide) (by omega))
    have h' : 264 * 1 ≤ (16 * q + 264) * 2 ^ (s - 1) := Nat.mul_le_mul (by omega) Nat.one_le_two_pow
    omega

/-! ### Decoding (R8, R9) -/

theorem decodeLine_mu (p : Bool) {s q : Nat} (hs : s ≤ 7) (hq : q ≤ 15) :
    decodeLine .mu (lineForm .mu (fieldForm p s q)) = if p then -(muMagnitude s q : Int) else muMagnitude s q := by
  simp only [decodeLine, lineForm_lineForm, polarity_fieldForm hs hq, segmentOf_fieldForm hs hq,
    stepOf_fieldForm hs hq]

theorem decodeLine_a (p : Bool) {s q : Nat} (hs : s ≤ 7) (hq : q ≤ 15) :
    decodeLine .a (lineForm .a (fieldForm p s q)) = if p then (aMagnitude s q : Int) else -(aMagnitude s q : Int) := by
  simp only [decodeLine, lineForm_lineForm, polarity_fieldForm hs hq, segmentOf_fieldForm hs hq,
    stepOf_fieldForm hs hq]

theorem decodeLine_mu_natAbs_le (code : Byte) : (decodeLine .mu code).natAbs ≤ 32124 := by
  obtain ⟨p, s, q, hs, hq, rfl⟩ := exists_lineForm_fieldForm .mu code
  have := muMagnitude_le hs hq
  rw [decodeLine_mu p hs hq]
  split <;> omega

theorem decodeLine_a_natAbs (code : Byte) :
    8 ≤ (decodeLine .a code).natAbs ∧ (decodeLine .a code).natAbs ≤ 32256 := by
  obtain ⟨p, s, q, hs, hq, rfl⟩ := exists_lineForm_fieldForm .a code
  have := aMagnitude_bounds hs hq
  rw [decodeLine_a p hs hq]
  split <;> omega

/-! ### The segment and the step of a magnitude (R10, R11) -/

/-- The segment of a number of 8 to 15 bits, by its leading one. -/
def leadSegment (v : Nat) : Nat := v.log2 - 7

/-- The step of such a number: the four bits behind its leading one. -/
def leadStep (v : Nat) : Nat := v / 2 ^ (leadSegment v + 3) - 16

/-- Segment and step lie in their ranges. -/
theorem lead_bounds {v : Nat} (h : 128 ≤ v) (h' : v < 2 ^ 15) : leadSegment v ≤ 7 ∧ leadStep v ≤ 15 := by
  have hlog : 7 ≤ v.log2 := (Nat.le_log2 (by omega)).2 h
  have hlog' : v.log2 < 15 := (Nat.log2_lt (by omega)).2 h'
  have hlt : v < 2 ^ (leadSegment v + 3) * 32 := by
    calc v < 2 ^ (v.log2 + 1) := Nat.lt_log2_self
      _ = 2 ^ (leadSegment v + 3) * 32 := by
        rw [← Nat.pow_add 2 _ 5]; congr 1; unfold leadSegment; omega
  have hdiv : v / 2 ^ (leadSegment v + 3) < 32 := Nat.div_lt_of_lt_mul hlt
  exact ⟨by unfold leadSegment; omega, by unfold leadStep; omega⟩

/-- They are read off a number whose top five bits are a one and the step (R8, R9 and R10, R11 agree). -/
theorem lead_of_top {s q v : Nat} (hq : q ≤ 15) (h : (16 + q) * 2 ^ (s + 3) ≤ v) (h' : v < (17 + q) * 2 ^ (s + 3)) :
    leadSegment v = s ∧ leadStep v = q := by
  have hpow : 2 ^ (s + 7) = 16 * 2 ^ (s + 3) ∧ 2 ^ (s + 8) = 32 * 2 ^ (s + 3) := by
    constructor <;> ring
  have hlo : 16 * 2 ^ (s + 3) ≤ (16 + q) * 2 ^ (s + 3) := Nat.mul_le_mul_right _ (by omega)
  have hhi : (17 + q) * 2 ^ (s + 3) ≤ 32 * 2 ^ (s + 3) := Nat.mul_le_mul_right _ (by omega)
  have hpos : 0 < 2 ^ (s + 7) := Nat.two_pow_pos _
  have hlog : v.log2 = s + 7 := (Nat.log2_eq_iff (by omega)).2 ⟨by omega, by omega⟩
  have hseg : leadSegment v = s := by unfold leadSegment; omega
  have hdiv : v / 2 ^ (s + 3) = 16 + q := by
    apply Nat.div_eq_of_lt_le
    · exact h
    · rw [show 16 + q + 1 = 17 + q by omega]; exact h'
  exact ⟨hseg, by rw [leadStep, hseg, hdiv]; omega⟩

/-! ### Encoding (R10, R11) -/

/-- The magnitude of a sample as the μ-law takes it: clamped, 132 added (R10). -/
def muValue (x : Int) : Nat := min x.natAbs 32635 + 132

theorem muValue_bounds (x : Int) : 132 ≤ muValue x ∧ muValue x ≤ 32767 := by
  unfold muValue
  omega

theorem encodeLine_mu (x : Int) : encodeLine .mu x =
    lineForm .mu (fieldForm (decide (x < 0)) (leadSegment (muValue x)) (leadStep (muValue x))) := rfl

theorem encodeLine_a_small {x : Int} (h : min x.natAbs 32767 < 256) : encodeLine .a x =
    lineForm .a (fieldForm (decide (0 ≤ x)) 0 (min x.natAbs 32767 / 16)) := by
  simp only [encodeLine, aField, if_pos h]

theorem encodeLine_a_large {x : Int} (h : ¬ min x.natAbs 32767 < 256) : encodeLine .a x =
    lineForm .a (fieldForm (decide (0 ≤ x)) (leadSegment (min x.natAbs 32767)) (leadStep (min x.natAbs 32767))) := by
  simp only [encodeLine, aField, if_neg h]
  rfl

/-- A sample of a decoded μ-law magnitude is encoded with that magnitude's segment and step. -/
theorem encodeLine_mu_of_natAbs {x : Int} {s q : Nat} (hs : s ≤ 7) (hq : q ≤ 15) (hx : x.natAbs = muMagnitude s q) :
    encodeLine .mu x = lineForm .mu (fieldForm (decide (x < 0)) s q) := by
  have hv : muValue x = (8 * q + 132) * 2 ^ s := by
    have := muMagnitude_le hs hq
    rw [← muMagnitude_add, ← hx, muValue]
    omega
  have hpos := Nat.two_pow_pos s
  obtain ⟨hseg, hstep⟩ : leadSegment (muValue x) = s ∧ leadStep (muValue x) = q := by
    refine lead_of_top hq ?_ ?_ <;> rw [hv, Nat.pow_add] <;> nlinarith
  rw [encodeLine_mu, hseg, hstep]

/-- A sample of a decoded A-law magnitude is encoded with that magnitude's segment and step. -/
theorem encodeLine_a_of_natAbs {x : Int} {s q : Nat} (hs : s ≤ 7) (hq : q ≤ 15) (hx : x.natAbs = aMagnitude s q) :
    encodeLine .a x = lineForm .a (fieldForm (decide (0 ≤ x)) s q) := by
  have ha : min x.natAbs 32767 = aMagnitude s q := by
    have := aMagnitude_bounds hs hq
    omega
  cases s with
  | zero =>
    have h0 : aMagnitude 0 q = 16 * q + 8 := rfl
    rw [encodeLine_a_small (by omega), ha, h0, show (16 * q + 8) / 16 = q by omega]
  | succ s =>
    have hv : aMagnitude (s + 1) q = (16 * q + 264) * 2 ^ s := rfl
    have hpos := Nat.two_pow_pos s
    obtain ⟨hseg, hstep⟩ : leadSegment (aMagnitude (s + 1) q) = s + 1 ∧ leadStep (aMagnitude (s + 1) q) = q := by
      refine lead_of_top hq ?_ ?_ <;> rw [hv, show s + 1 + 3 = s + 4 by omega, Nat.pow_add] <;> nlinarith
    rw [encodeLine_a_large (by rw [ha, hv]; nlinarith), ha, hseg, hstep]

/-- A sample of a decoded magnitude is its own reference (R12). -/
theorem reference_mu_of_natAbs {x : Int} {s q : Nat} (hs : s ≤ 7) (hq : q ≤ 15) (hx : x.natAbs = muMagnitude s q) :
    reference .mu x = x := by
  rw [reference, encodeLine_mu_of_natAbs hs hq hx, decodeLine_mu _ hs hq]
  simp only [decide_eq_true_eq]
  split <;> omega

theorem reference_a_of_natAbs {x : Int} {s q : Nat} (hs : s ≤ 7) (hq : q ≤ 15) (hx : x.natAbs = aMagnitude s q) :
    reference .a x = x := by
  rw [reference, encodeLine_a_of_natAbs hs hq hx, decodeLine_a _ hs hq]
  simp only [decide_eq_true_eq]
  split <;> omega

/-- Encoding gives back every decoded sample (R12). -/
theorem reference_decodeLine (l : Law) (code : Byte) : reference l (decodeLine l code) = decodeLine l code := by
  obtain ⟨p, s, q, hs, hq, rfl⟩ := exists_lineForm_fieldForm l code
  cases l with
  | mu => exact reference_mu_of_natAbs hs hq (by rw [decodeLine_mu p hs hq]; split <;> omega)
  | a => exact reference_a_of_natAbs hs hq (by rw [decodeLine_a p hs hq]; split <;> omega)

/-- Beyond the laws' ranges the last segment and step are sent (R10, R11). -/
theorem encodeLine_clamped (x : Int) :
    (32635 ≤ x.natAbs → encodeLine .mu x = lineForm .mu (fieldForm (decide (x < 0)) 7 15)) ∧
      (32767 ≤ x.natAbs → encodeLine .a x = lineForm .a (fieldForm (decide (0 ≤ x)) 7 15)) := by
  obtain ⟨hseg, hstep⟩ : leadSegment 32767 = 7 ∧ leadStep 32767 = 15 := lead_of_top (by decide) (by decide) (by decide)
  refine ⟨fun h => ?_, fun h => ?_⟩
  · rw [encodeLine_mu, show muValue x = 32767 by unfold muValue; omega, hseg, hstep]
  · have ha : min x.natAbs 32767 = 32767 := by omega
    rw [encodeLine_a_large (by omega), ha, hseg, hstep]

/-- Silence is sent as the idle code (R7). -/
theorem encodeLine_zero (l : Law) : encodeLine l 0 = idleCode l := by
  cases l with
  | mu => exact encodeLine_mu_of_natAbs (s := 0) (q := 0) (by decide) (by decide) rfl
  | a => exact encodeLine_a_small (by decide)

end Sys2Proof.Machine

open Sys2Proof Sys2Proof.Machine

/-- Settles O26: every code is a polarity, a segment and a step, whose magnitude has its bounds. -/
theorem lineCodesDecodeByTheLaws : Obligations.LineCodesDecodeByTheLaws := by
  refine ⟨fun code => ?_, decodeLine_mu_natAbs_le, by decide +kernel, by decide +kernel, by decide +kernel,
    fun code => ?_, decodeLine_a_natAbs, by decide +kernel, by decide +kernel, by decide +kernel⟩
  · have hm : ((muMagnitude (segmentOf (~~~code)) (stepOf (~~~code)) : Nat) : Int) =
        (8 * ((stepOf (~~~code) : Nat) : Int) + 132) * 2 ^ segmentOf (~~~code) - 132 := by
      have := congrArg (Nat.cast (R := Int)) (muMagnitude_add (segmentOf (~~~code)) (stepOf (~~~code)))
      push_cast at this
      omega
    exact (congrArg (fun m : Int => if polarity (~~~code) then -m else m) hm)
  · have hm : ((aMagnitude (segmentOf (code ^^^ 0x55)) (stepOf (code ^^^ 0x55)) : Nat) : Int) =
        if segmentOf (code ^^^ 0x55) = 0 then 16 * ((stepOf (code ^^^ 0x55) : Nat) : Int) + 8
        else (16 * ((stepOf (code ^^^ 0x55) : Nat) : Int) + 264) * 2 ^ (segmentOf (code ^^^ 0x55) - 1) := by
      unfold aMagnitude
      split <;> push_cast <;> rfl
    exact (congrArg (fun m : Int => if polarity (code ^^^ 0x55) then m else -m) hm)

/-- Settles O27: the formulas with their ranges, then the round trip, the idle codes and the clamps. -/
theorem encodingReturnsEveryDecodedSample : Obligations.EncodingReturnsEveryDecodedSample := by
  refine ⟨fun x => ?_, fun x => ?_, reference_decodeLine, encodeLine_zero, fun x hx => ⟨?_, ?_⟩, fun x hx => ⟨?_, ?_⟩⟩
  · obtain ⟨hlo, hhi⟩ := muValue_bounds x
    obtain ⟨hseg, hstep⟩ := lead_bounds (v := muValue x) (by omega) (by omega)
    refine ⟨?_, hlo, hhi, hseg, hstep⟩
    rw [encodeLine_mu]
    simp only [lineForm, fieldForm, decide_eq_true_eq]
    rfl
  · dsimp only
    by_cases ha : min x.natAbs 32767 < 256
    · rw [encodeLine_a_small ha]
      simp only [if_pos ha, lineForm, fieldForm, decide_eq_true_eq]
      exact ⟨trivial, fun h => absurd ha (Nat.not_lt.2 h), by decide, by omega⟩
    · obtain ⟨hseg, hstep⟩ := lead_bounds (v := min x.natAbs 32767) (by omega) (by omega)
      have hone : 8 ≤ (min x.natAbs 32767).log2 := (Nat.le_log2 (by omega)).2 (by omega)
      rw [encodeLine_a_large ha]
      simp only [if_neg ha, lineForm, fieldForm, decide_eq_true_eq]
      exact ⟨rfl, fun _ => by omega, hseg, hstep⟩
  · rw [(encodeLine_clamped x).1 (by omega), decide_eq_false (by omega)]
    rfl
  · rw [(encodeLine_clamped (-x)).1 (by omega), decide_eq_true (by omega)]
    rfl
  · rw [(encodeLine_clamped x).2 (by omega), decide_eq_true (by omega)]
    rfl
  · rw [(encodeLine_clamped (-x)).2 (by omega), decide_eq_false (by omega)]
    rfl
end

section
/-! A grant of units to a channel: what it leaves in the stores, on the channel and beside it (R43, R82, R83, R102,
R114, R126). -/

namespace Sys2Proof.Machine

/-! ### Entry to BOUND or LOADING (R83, R85, R126) -/

/-- The completion of a BIND, whole (R85). -/
theorem completeBind_eq (c : Chan) (o : Result) (s : State) : completeBind c o s = { s with
    chans := s.chans.set c { s.chans[c] with bindLink := none }
    cbi := (postLink c s.chans[c].bindLink o (bindWords c o s.chans[c]) s).cbi } := by
  unfold completeBind
  rw [postLink_eq]
  rfl

/-- The context of a channel that has nothing to load, its BIND not yet completed (R83). -/
def Context.nothingToLoad (x : Context) : Context := { x with load := none, state := .bound }

/-- A channel whose load key names no VALID profile enters BOUND (R83). -/
theorem enterGranted_bound {c : Chan} {s : State} (h : ∀ key, s.chans[c].load = some key → findValid key s = none) :
    enterGranted c s = completeBind c .bound (s.setChan c s.chans[c].nothingToLoad) := by
  unfold enterGranted
  cases hl : s.chans[c].load with
  | none => rfl
  | some key =>
    simp only [Option.bind_some, h key hl, Option.map_none]
    rfl

/-- A channel whose load key names a VALID profile has its LOAD queued (R126). -/
theorem enterGranted_loading {c : Chan} {s : State} {key : Key} {r : Rec} (hl : s.chans[c].load = some key)
    (hv : findValid key s = some r) : enterGranted c s = queueLoad c key r s := by
  unfold enterGranted
  simp only [hl, Option.bind_some, hv, Option.map_some]

/-- The queueing of a LOAD job, whole (R84, R126). -/
theorem queueLoad_eq (c : Chan) (key : Key) (r : Rec) (s : State) : queueLoad c key r s = { s with
    chans := s.chans.set c { s.chans[c] with load := none, state := .loading }
    jobs := s.jobs ++ [{
      kind := .load, chan := c, key, moved := 0, queuedAt := s.hwi.line.frame
      count := min s.pfs.recs[r].desc.near s.chans[c].par.near
        + (if s.pfs.recs[r].desc.eq && s.chans[c].par.eq then 1 else 0)
      eqLast := s.pfs.recs[r].desc.eq && s.chans[c].par.eq }]
    pfs := {
      recs := s.pfs.recs.set r { s.pfs.recs[r] with useCount := min 65535 (s.pfs.recs[r].useCount + 1) }
      recency := toFront r s.pfs.recency } } := rfl

/-! ### The grant (R82, R114) -/

/-- The context with the units of a grant and everything of a bind initialised, before the channel changes its state
(R82). -/
def grantContext (c : Chan) (n p : Nat) (s : State) : Context :=
  s.chans[c].atBind (s.sal.freeSegs.take n) (s.sal.freePages.take p)

/-- SAL after a grant (R43, R102, R108). -/
def grantSal (c : Chan) (n p : Nat) (s : State) : Sal :=
  unitInit (grantContext c n p s) (credit s.chans[c].owner n p (allocate n p s.sal))

/-- The state with the units granted, on which the channel enters LOADING or BOUND (R82). -/
def unitsGranted (c : Chan) (n p : Nat) (s : State) : State :=
  { s with sal := grantSal c n p s, chans := s.chans.set c (grantContext c n p s) }

@[simp] theorem unitsGranted_chan (c : Chan) (n p : Nat) (s : State) :
    (unitsGranted c n p s).chans[c] = grantContext c n p s := getElem_set_same _ _ _

theorem grant_eq (c : Chan) (n p : Nat) (s : State) : grant c n p s = enterGranted c (unitsGranted c n p s) := rfl

theorem grant_sal (c : Chan) (n p : Nat) (s : State) : (grant c n p s).sal = grantSal c n p s := by
  rw [grant_eq, (enterGranted_keeps _ _).2.1]
  rfl

/-- A grant to a channel that has nothing to load: BOUND, and a BIND that waited for it completes (R83, R85). -/
theorem grant_bound {c : Chan} {s : State} (h : ∀ key, s.chans[c].load = some key → findValid key s = none)
    (n p : Nat) : grant c n p s = { s with
      sal := grantSal c n p s
      chans := s.chans.set c { (grantContext c n p s).nothingToLoad with bindLink := none }
      cbi := (postLink c s.chans[c].bindLink .bound
        (bindWords c .bound (grantContext c n p s).nothingToLoad) s).cbi } := by
  have hx : ((unitsGranted c n p s).setChan c (grantContext c n p s).nothingToLoad).chans[c] =
      (grantContext c n p s).nothingToLoad := getElem_set_same _ _ _
  rw [grant_eq, enterGranted_bound (by rw [unitsGranted_chan]; exact h), unitsGranted_chan, completeBind_eq, hx,
    postLink_cbi_congr (s := s) (t := (unitsGranted c n p s).setChan c _) (by rw [hx]; rfl) rfl]
  simp only [unitsGranted, State.setChan, Vector.set_set]
  rfl

/-- A grant to a channel whose load key names a VALID profile: LOADING, with the LOAD job queued (R126). -/
theorem grant_loading {c : Chan} {s : State} {key : Key} {r : Rec} (hl : s.chans[c].load = some key)
    (hv : findValid key s = some r) (n p : Nat) : grant c n p s = queueLoad c key r (unitsGranted c n p s) := by
  rw [grant_eq]
  exact enterGranted_loading (by rw [unitsGranted_chan]; exact hl) hv

/-- The equalizer segment of the channel after a grant is that of its new list. -/
theorem grant_eqSeg (c : Chan) (n p : Nat) (s : State) :
    (grant c n p s).chans[c].eqSeg = (grantContext c n p s).eqSeg := by
  by_cases h : ∀ key, s.chans[c].load = some key → findValid key s = none
  · rw [grant_bound h, getElem_set_same]
    rfl
  · push Not at h
    obtain ⟨key, hl, hv⟩ := h
    obtain ⟨r, hr⟩ := Option.ne_none_iff_exists'.1 hv
    rw [grant_loading hl hr, queueLoad_eq, unitsGranted_chan]
    simp only [getElem_set_same]
    rfl

/-! ### The stores after a grant (R43, R102) -/

/-- The accounts and the free sets after a grant to an owned channel (R102, R108). -/
theorem grantSal_accounts {c : Chan} {s : State} {k : Ctl} (ho : s.chans[c].owner = some k) (n p : Nat) :
    (grantSal c n p s).freeSegs = s.sal.freeSegs.drop n ∧ (grantSal c n p s).freePages = s.sal.freePages.drop p ∧
      (grantSal c n p s).heldSeg = s.sal.heldSeg.set k (s.sal.heldSeg[k] + n) ∧
      (grantSal c n p s).heldPage = s.sal.heldPage.set k (s.sal.heldPage[k] + p) ∧
      (grantSal c n p s).waitQ = s.sal.waitQ := by
  simp only [grantSal, unitInit_keeps, ho, credit, setHeld, allocate_keeps, and_self]

/-- SAL of a grant before unit initialisation is in canonical form. -/
theorem credit_allocate_ok (o : Option Ctl) (n p : Nat) {m : Sal} (h : MemoryOk m) :
    MemoryOk (credit o n p (allocate n p m)) := credit_ok _ _ _ _ (allocate_ok _ _ _ h)

/-- A word outside the equalizer segment after a grant is that of the allocation. -/
theorem tap_grantSal_out {c : Chan} {n p : Nat} {s : State} (hm : MemoryOk s.sal) {a : Nat}
    (ha : ∀ g, (grantContext c n p s).eqSeg = some g → a < 32 * g.val ∨ 32 * g.val + 32 ≤ a) :
    cellRead tapBlank (grantSal c n p s).taps a = cellRead tapBlank (allocate n p s.sal).taps a := by
  rw [grantSal, tap_unitInit_out _ _ (credit_allocate_ok _ _ _ hm) _ ha, (credit_keeps _ _ _ _).1]

/-- A word outside the granted segments stays (R102). -/
theorem tap_grantSal_other {c : Chan} {n p : Nat} {s : State} (hm : MemoryOk s.sal) {a : Nat}
    (ha : ¬ inSegments (s.sal.freeSegs.take n) a) :
    cellRead tapBlank (grantSal c n p s).taps a = cellRead tapBlank s.sal.taps a := by
  rw [tap_grantSal_out hm, (tap_allocate n p s.sal hm a).2 ha]
  intro g hg
  have hmem : g ∈ s.sal.freeSegs.take n := eqSeg_mem _ g hg
  by_contra hin
  exact ha ⟨g, hmem, by omega⟩

/-- The samples after a grant are those of the allocation. -/
theorem grantSal_hist (c : Chan) (n p : Nat) (s : State) : (grantSal c n p s).hist = (allocate n p s.sal).hist := by
  rw [grantSal, (unitInit_keeps _ _).1, (credit_keeps _ _ _ _).2.1]

/-- The words of a BIND completed BOUND by a channel that has nothing to load (R85, R164). -/
theorem bindWords_nothingToLoad (c : Chan) (x : Context) : bindWords c .bound x.nothingToLoad =
    [word c.val, 1, 3, word x.relation.code, word x.par.near, word x.par.far, word x.par.bulk,
     if x.par.eq then 1 else 0, word x.par.mainTap, word x.par.lag] := by
  have hbit : word (bit x.par.eq 0) = if x.par.eq then 1 else 0 := by cases x.par.eq <;> rfl
  rw [← hbit]
  rfl

end Sys2Proof.Machine

open Sys2Proof Sys2Proof.Machine

/-- Settles O32: the two outcomes of the entry after the grant, then the accounts and the words of the stores. -/
theorem grantAllocatesZeroedUnits : Obligations.GrantAllocatesZeroedUnits := by
  intro c n p k s ho hm _ _ _ x q t granted
  have hsal : t.sal = grantSal c n p s := grant_sal c n p s
  have heq : t.chans[c].eqSeg = (grantContext c n p s).eqSeg := grant_eqSeg c n p s
  obtain ⟨hsegs, hpages, hheldSeg, hheldPage, hwait⟩ := grantSal_accounts ho n p
  simp only [tapAt, sampleAt, hsal, heq]
  refine ⟨fun hl => ?_, fun key r hl hv => ?_, hsegs, hpages, hheldSeg, hheldPage, hwait, fun a ha hg => ?_,
    fun g hg i hi => ?_, fun a ha => tap_grantSal_other hm ha, fun a ha => ?_, fun a ha => ?_⟩
  · have ht : t = _ := grant_bound hl n p
    rw [bindWords_nothingToLoad] at ht
    refine ⟨by rw [ht]; rfl, fun g hg => ?_, fun hg => ?_, by rw [ht]⟩
    · rw [ht, postLink_some ho hg]
      rfl
    · rw [ht, postLink_none (.inr hg)]
  · have ht : t = _ := (grant_loading hl hv n p).trans (queueLoad_eq _ _ _ _)
    rw [unitsGranted_chan] at ht
    simp only [unitsGranted, Vector.set_set] at ht
    rw [ht]
    exact ⟨rfl, rfl, rfl, rfl⟩
  · rw [tap_grantSal_out hm hg, (tap_allocate n p s.sal hm a).1 ha]
  · exact tap_unitInit_in _ _ (credit_allocate_ok _ _ _ hm) g hg i hi
  · rw [grantSal_hist, (hist_allocate n p s.sal hm a).1 ha]
  · rw [grantSal_hist, (hist_allocate n p s.sal hm a).2 ha]
end

section
/-! The full service of a conditioned channel as a whole, and the equalizer taps in it (R18, R27–R31, R33–R37,
R49–R52). -/

namespace Sys2Proof.Machine

/-! ### Reads of segments (R27, R105) -/

/-- A word that lies at an offset of a segment lies in a list of segments exactly where the list holds the segment. -/
theorem inSegments_offset_iff (gs : List Seg) (g : Seg) {j : Nat} (hj : j < 32) :
    inSegments gs (32 * g.val + j) ↔ g ∈ gs := by
  refine ⟨fun ⟨g', hg', hlo, hhi⟩ => ?_, fun hg => ⟨g, hg, by omega⟩⟩
  have he : g = g' := Fin.ext (by omega)
  rwa [he]

theorem readSegments_length (m : Sal) (gs : List Seg) : (readSegments m gs).length = 32 * gs.length := by
  induction gs with
  | nil => rfl
  | cons g gs ih =>
    have he : readSegments m (g :: gs) = readSegment m g ++ readSegments m gs := rfl
    rw [he, List.length_append, ih, List.length_cons, readSegment, List.length_map, List.length_range]
    omega

/-- The class of a word read is that of the word in the store. -/
theorem cls_of_mem_readSegments {m : Sal} {gs : List Seg} {w : TapRead} (h : w ∈ readSegments m gs) :
    w.cls = classify (cellRead tapBlank m.taps w.addr) := by
  simp only [readSegments, readSegment, List.mem_flatMap, List.mem_map, List.mem_range] at h
  obtain ⟨g, -, i, -, rfl⟩ := h
  rfl

/-- Every word of the segments is read. -/
theorem exists_mem_readSegments (m : Sal) {gs : List Seg} {g : Seg} (hg : g ∈ gs) {j : Nat} (hj : j < 32) :
    ∃ w ∈ readSegments m gs, w.addr = 32 * g.val + j :=
  ⟨_, List.mem_flatMap.2 ⟨g, hg, List.mem_map.2 ⟨j, List.mem_range.2 hj, rfl⟩⟩, rfl⟩

theorem TapClass.isBad_iff (k : TapClass) : k.isBad = true ↔ k = .uncorrectable := by
  cases k <;> simp [TapClass.isBad]

/-- What a word becomes when it is read: its corrected value where it reads corrected (R105). -/
def rewritten (w : BitVec 22) : BitVec 22 :=
  match classify w with
  | .corrected v => eccEncode v
  | _ => w

/-- A word of distinct segments after their read has been written back (R105). -/
theorem tap_writeBack_in {m : Sal} (hm : MemoryOk m) {gs : List Seg} (hn : gs.Nodup) {g : Seg} (hg : g ∈ gs) {j : Nat}
    (hj : j < 32) : cellRead tapBlank (writeBack (readSegments m gs) m).taps (32 * g.val + j) =
      rewritten (cellRead tapBlank m.taps (32 * g.val + j)) := by
  have haddr := readSegments_addr m gs
  obtain ⟨w, hw, ha⟩ := exists_mem_readSegments m hg hj
  have hcls := cls_of_mem_readSegments hw
  rw [ha] at hcls
  have hkeeps (h : (classify (cellRead tapBlank m.taps (32 * g.val + j))).isCorrected = false) :
      cellRead tapBlank (writeBack (readSegments m gs) m).taps (32 * g.val + j) =
        cellRead tapBlank m.taps (32 * g.val + j) :=
    writeBack_other hm haddr fun w' hw' ha' => by rw [cls_of_mem_readSegments hw', ha', h]
  unfold rewritten
  cases hc : classify (cellRead tapBlank m.taps (32 * g.val + j)) with
  | corrected v =>
    rw [← ha]
    exact (writeBack_read _ (readSegments_addr_nodup m hn) m hm haddr 0).1 w hw v (hcls.trans hc)
  | good v => exact hkeeps (by rw [hc]; rfl)
  | uncorrectable => exact hkeeps (by rw [hc]; rfl)

/-! ### Stages 1 and 2 (R20, R31) -/

/-- Stage 1 keeps the form. -/
theorem writeHistory_ok (c : Chan) (r : Int) {s : State} (h : MemoryOk s.sal) : MemoryOk (writeHistory c r s).sal := by
  unfold writeHistory
  dsimp only
  split
  · exact h
  · exact writeSample_ok _ _ _ _ h

/-- The write of r and the corrections of a read, whole (R20, R31, R105). -/
theorem corrections_writeHistory_eq (c : Chan) (r : Int) (rd : List TapRead) (s : State) :
    applyCorrections c rd (writeHistory c r s) = { s with
      sal := { writeBack rd s.sal with hist := (writeHistory c r s).sal.hist }
      chans := s.chans.set c
        (countCorrections rd { s.chans[c] with w := (s.chans[c].w + 1) % (256 * s.chans[c].pages.length) })
      fifos := (correctionEvent c rd s).fifos } := by
  have hw := writeHistory_eq c r s
  have hevent : (correctionEvent c rd (writeHistory c r s)).fifos = (correctionEvent c rd s).fifos := by
    refine correctionEvent_fifos_congr rd ?_ ?_ ?_ ?_ ?_ <;> rw [hw] <;> simp only [getElem_set_same]
  rw [applyCorrections_eq, hevent]
  generalize (writeHistory c r s).sal.hist = hist at hw ⊢
  rw [hw, writeBack_withHist]
  simp only [getElem_set_same, Vector.set_set]

/-- The samples of the windows' lags depend on the history store, the parameters and the pages alone (R21). -/
theorem lagSamples_congr {m m' : Sal} {x x' : Context} (hm : m.hist = m'.hist) (hq : x.params = x'.params)
    (hp : x.pages = x'.pages) (wt : Nat) : lagSamples m x wt = lagSamples m' x' wt := by
  have hsample (a : Nat) : readSample m a = readSample m' a := by simp only [readSample, hm]
  have hring (i : Nat) : readRing m x i = readRing m' x' i := by
    unfold readRing
    rw [hp]
    cases x'.pages[i / 256]? with
    | none => rfl
    | some p => exact hsample _
  have hindex (k : Nat) : lagIndex x wt k = lagIndex x' wt k := by
    simp only [lagIndex, Context.ringLength, hp]
  simp only [lagSamples, Context.par, hq, hring, hindex]

/-- The samples that stage 3 reads are those of the windows' lags, r written first (R20, R21). -/
theorem lagSamples_corrected (c : Chan) (x : Word) (s : State) :
    let v := applyCorrections c (tapsRead c s) (writeHistory c (refSample x s) (inputTaken c s))
    lagSamples v.sal v.chans[c] s.chans[c].w = lagsRead c x s := by
  intro v
  have hv : v = _ := corrections_writeHistory_eq c (refSample x s) (tapsRead c s) (inputTaken c s)
  have hu := writeHistory_eq c (refSample x s) s
  rw [countCorrections_eq, writeHistory_inputTaken] at hv
  refine lagSamples_congr ?_ ?_ ?_ _
  · rw [hv]
  · rw [hv, hu]
    simp only [getElem_set_same]
    rfl
  · rw [hv, hu]
    simp only [getElem_set_same]
    rfl

/-! ### The stages after a clean read (R18) -/

/-- A read without an uncorrectable word is followed by stages 3 to 7 (R18, R32). -/
theorem fullService_clean {c : Chan} {s : State} (h : ∀ t ∈ tapsRead c s, t.cls ≠ .uncorrectable) (y r : Int)
    (d : Option Int) : fullService c y r d s = conditionedService c s.chans[c].w y r d (tapValues c s)
      (applyCorrections c (tapsRead c s) (writeHistory c r s)) := by
  have hread : readSegments (writeHistory c r s).sal (writeHistory c r s).chans[c].segs = tapsRead c s := by
    rw [writeHistory_eq]
    simp only [getElem_set_same]
    exact readSegments_congr rfl _
  have hfirst : firstOf TapClass.isBad (tapsRead c s) = none := by
    rw [firstOf, Option.map_eq_none_iff, List.find?_eq_none]
    exact fun t ht => (TapClass.isBad_iff t.cls).not.2 (h t ht)
  unfold fullService
  simp only [hread, hfirst]
  rfl

/-- The state of a full service after stages 1 to 4 (R20, R21, R29, R31, R55). -/
def measured (c : Chan) (code : Byte) (x : Word) (s : State) : State :=
  (applyCorrections c (tapsRead c s) (writeHistory c (refSample x s) (inputTaken c s))).modChan c
    (recordResidual (refSample x s) (recvSample code s) (residual c code x s)
      ((lagsRead c x s).filter Option.isNone).length)

/-- The state of a full service after stage 5 (R33–R37). -/
def echoAdapted (c : Chan) (code : Byte) (x : Word) (s : State) : State :=
  echoStage c (residual c code x s) ((tapValues c s).take (echoTapCount c s)) (lagValues c x s) (measured c code x s)

/-- The state of a full service after stage 6, with its output z (R44–R52). -/
def equalizerDone (c : Chan) (code : Byte) (x d : Word) (s : State) : State × Int :=
  equalizerStage c (residual c code x s) (desiredOf d) ((tapValues c s).drop (echoTapCount c s))
    (echoAdapted c code x s)

/-- Stages 3 to 7 of a full service, from the state in which it is raised (R18, R28, R29). -/
theorem conditionedService_eq (c : Chan) (code : Byte) (x d : Word) (s : State) :
    conditionedService c s.chans[c].w (recvSample code s) (refSample x s) (desiredOf d) (tapValues c s)
      (applyCorrections c (tapsRead c s) (writeHistory c (refSample x s) (inputTaken c s))) =
    (stageSeven c s.chans[c].state (desiredOf d).isSome (equalizerDone c code x d s).1,
      (equalizerDone c code x d s).2, residual c code x s) := by
  have hlags := lagSamples_corrected c x s
  have hx : (applyCorrections c (tapsRead c s) (writeHistory c (refSample x s) (inputTaken c s))).chans[c].state =
        s.chans[c].state ∧
      (applyCorrections c (tapsRead c s) (writeHistory c (refSample x s) (inputTaken c s))).chans[c].par.echoTaps =
        echoTapCount c s := by
    rw [corrections_writeHistory_eq, countCorrections_eq]
    simp only [getElem_set_same]
    exact ⟨rfl, rfl⟩
  obtain ⟨hstate, hecho⟩ := hx
  unfold conditionedService
  simp only [hlags, hstate, hecho]
  rfl

theorem stageSeven_keeps (c : Chan) (taken : ChanState) (b : Bool) (s : State) :
    (stageSeven c taken b s).sal = s.sal ∧ (stageSeven c taken b s).hwi = s.hwi := by
  rw [stageSeven_eq]
  exact ⟨rfl, rfl⟩

/-- The command that completes the record of a conditioned channel without an uncorrectable tap word: the stages in
their order, and the outputs held (R14, R15, R18). -/
theorem exec_fullService {i : Instr} {c : Chan} {code : Byte} {x d : Word} {n m : Nat} {s : State}
    (h : FullService i c code x d n m s) : exec i s = .next
      { stageSeven c s.chans[c].state (desiredOf d).isSome (equalizerDone c code x d s).1 with
        hwi := served c (sentCode x s) (equalizerDone c code x d s).2 (residual c code x s) n m s.hwi } := by
  have hservice := (serviceByState_conditioned (s := inputTaken c s) h.state (recvSample code s) (refSample x s)
    (desiredOf d)).trans (congrArg some ((fullService_clean (s := inputTaken c s) h.clean _ _ _).trans
      (conditionedService_eq c code x d s)))
  refine exec_of_raises h.raised hservice ?_
  rw [(stageSeven_keeps _ _ _ _).2, equalizerDone, equalizerStage_eq, echoAdapted, echoStage_eq, measured,
    corrections_writeHistory_eq]
  rfl

/-! ### Stage 5 and the equalizer segment (R33–R37) -/

/-- A word outside the segments stays when they are written over. -/
theorem tap_writeSegments_out (gs : List Seg) (vs : List Word) {m : Sal} (h : MemoryOk m) {a : Nat}
    (ha : ¬ inSegments gs a) : cellRead tapBlank (writeSegments gs vs m).taps a = cellRead tapBlank m.taps a := by
  induction gs generalizing vs m with
  | nil => rfl
  | cons g gs ih =>
    rw [writeSegments, ih _ (writeSegment_ok g vs m h) fun ⟨g', hg', ha'⟩ => ha ⟨g', by simp [hg'], ha'⟩]
    exact tap_writeSegment_out g vs m h a fun hin => ha ⟨g, by simp, hin⟩

/-- Stage 5 keeps the store or writes over the echo segments (R33–R37). -/
theorem echoStage_sal (c : Chan) (e : Int) (taps samples : List Int) (s : State) :
    (echoStage c e taps samples s).sal = s.sal ∨ ∃ vs, (echoStage c e taps samples s).sal =
      writeSegments (s.chans[c].segs.take (s.chans[c].par.near + s.chans[c].par.far)) vs s.sal := by
  unfold echoStage
  dsimp only
  split
  · exact .inl rfl
  · split
    · exact .inl rfl
    · exact .inr ⟨_, rfl⟩

/-- Stage 5 keeps the form. -/
theorem echoStage_ok (c : Chan) (e : Int) (taps samples : List Int) {s : State} (h : MemoryOk s.sal) :
    MemoryOk (echoStage c e taps samples s).sal := by
  rcases echoStage_sal c e taps samples s with he | ⟨vs, he⟩
  · rwa [he]
  · rw [he]
    exact writeSegments_ok _ _ _ h

/-- Stage 5 keeps every word outside the echo segments. -/
theorem tap_echoStage_out (c : Chan) (e : Int) (taps samples : List Int) {s : State} (h : MemoryOk s.sal) {a : Nat}
    (ha : ¬ inSegments (s.chans[c].segs.take (s.chans[c].par.near + s.chans[c].par.far)) a) :
    cellRead tapBlank (echoStage c e taps samples s).sal.taps a = cellRead tapBlank s.sal.taps a := by
  rcases echoStage_sal c e taps samples s with he | ⟨vs, he⟩
  · rw [he]
  · rw [he]
    exact tap_writeSegments_out _ vs h ha

/-- The guard's count changes its field alone (R34). -/
theorem echoGuarded_eq (p : PartOne) (x : Context) :
    echoGuarded p x = { x with guarded := (echoGuarded p x).guarded } := by
  unfold echoGuarded
  split <;> rfl

/-- An equalizer segment stands behind the echo segments (R24). -/
theorem eqSeg_eq_some_iff (x : Context) (g : Seg) :
    x.eqSeg = some g ↔ x.par.eq = true ∧ x.segs[x.par.near + x.par.far]? = some g := by
  unfold Context.eqSeg
  split
  · next h => simp [h]
  · next h => simp [h]

/-- Among distinct segments the equalizer's is none of the echo segments (R24). -/
theorem eqSeg_notMem_echo {x : Context} {g : Seg} (hn : x.segs.Nodup) (hg : x.eqSeg = some g) :
    g ∉ x.segs.take (x.par.near + x.par.far) := by
  obtain ⟨-, hat⟩ := (eqSeg_eq_some_iff x g).1 hg
  obtain ⟨hlt, rfl⟩ := List.getElem?_eq_some_iff.1 hat
  intro hmem
  obtain ⟨k, hk, he⟩ := List.mem_take_iff_getElem.1 hmem
  have := (hn.getElem_inj_iff).1 he
  omega

/-! ### Stage 6 (R49–R52) -/

/-- What stage 6 finds on the channel: the residual ring and P_e have moved, and what else it asks is as it was. -/
structure BeforeEqualizer (e : Int) (x z : Context) : Prop where
  params : z.params = x.params
  segs : z.segs = x.segs
  state : z.state = x.state
  freeze : z.freeze = x.freeze
  lock : z.lock = x.lock
  lagLine : z.lagLine = x.lagLine
  resid : z.resid = ringPush 40 e x.resid
  power : z.pe = leak x.pe e

namespace BeforeEqualizer

variable {e : Int} {x z : Context}

theorem par (h : BeforeEqualizer e x z) : z.par = x.par := by rw [Context.par, h.params, Context.par]

theorem eqSeg (h : BeforeEqualizer e x z) : z.eqSeg = x.eqSeg := by rw [Context.eqSeg, h.par, h.segs, Context.eqSeg]

theorem equalizerError (h : BeforeEqualizer e x z) (v : Int) : equalizerError z v = Machine.equalizerError x v := by
  rw [Machine.equalizerError, h.par, h.lagLine, Machine.equalizerError]

theorem eqExponent (h : BeforeEqualizer e x z) : eqExponent z = Machine.eqExponent x := by
  rw [Machine.eqExponent, h.par, h.state, Machine.eqExponent]

theorem eqAdapts (h : BeforeEqualizer e x z) : eqAdapts z z.par true = Machine.eqAdapts x x.par true := by
  simp only [Machine.eqAdapts, holdEmpty, h.par, h.state, h.freeze, h.lock]

end BeforeEqualizer

theorem measured_before (c : Chan) (code : Byte) (x : Word) (s : State) :
    BeforeEqualizer (residual c code x s) s.chans[c] (measured c code x s).chans[c] := by
  have hv : (measured c code x s).chans[c] = recordResidual (refSample x s) (recvSample code s) (residual c code x s)
      ((lagsRead c x s).filter Option.isNone).length (countCorrections (tapsRead c s)
        { s.chans[c] with w := (s.chans[c].w + 1) % (256 * s.chans[c].pages.length) }) := by
    rw [measured, corrections_writeHistory_eq]
    simp only [State.modChan, State.setChan, getElem_set_same]
    rfl
  rw [hv, countCorrections_eq]
  exact ⟨rfl, rfl, rfl, rfl, rfl, rfl, rfl, rfl⟩

theorem echoAdapted_before (c : Chan) (code : Byte) (x : Word) (s : State) :
    BeforeEqualizer (residual c code x s) s.chans[c] (echoAdapted c code x s).chans[c] := by
  obtain ⟨hparams, hsegs, hstate, hfreeze, hlock, hline, hresid, hpower⟩ := measured_before c code x s
  have hx : (echoAdapted c code x s).chans[c] = echoGuarded (measured c code x s).btl.part1
      (measured c code x s).chans[c] := by
    rw [echoAdapted, echoStage_eq]
    exact getElem_set_same _ _ _
  rw [hx, echoGuarded_eq]
  exact ⟨hparams, hsegs, hstate, hfreeze, hlock, hline, hresid, hpower⟩

/-- The equalizer taps' condition, where the channel has an equalizer and d is present (R49). -/
theorem eqAdapts_iff {x : Context} (h : x.par.eq = true) : eqAdapts x x.par true = true ↔
    (x.state = .eqTrain ∨ x.state = .tracking) ∧ x.freeze = false ∧ x.lock = false := by
  simp [eqAdapts, holdEmpty, h]

/-- The new value of equalizer tap j (R50–R52). -/
theorem newEqTaps_getD (p : PartOne) (x : Context) (eps : Int) {taps : List Int} {j : Nat} (ht : j < taps.length)
    (hr : x.par.lag + j < x.resid.length) : (newEqTaps p x eps taps).getD j 0 =
      adaptTap (shiftOf x.pe p.pfloor (eqExponent x) 14) eps (taps.getD j 0) (x.resid.getD (x.par.lag + j) 0) := by
  have hj : j < (newEqTaps p x eps taps).length := by
    simp only [newEqTaps, List.length_zipWith, List.length_drop]
    omega
  rw [List.getD_eq_getElem _ _ hj, List.getD_eq_getElem _ _ ht, List.getD_eq_getElem _ _ hr]
  simp only [newEqTaps, List.getElem_zipWith, List.getElem_drop]

/-- Stage 6 keeps the store where the equalizer taps do not adapt (R49). -/
theorem equalizerSal_idle {c : Chan} {d : Option Int} {s : State}
    (h : eqAdapts s.chans[c] s.chans[c].par true = false ∨ d = none) (taps : List Int) :
    equalizerSal c d taps s = s.sal := by
  unfold equalizerSal
  rcases h with h | rfl
  · simp only [h, Bool.false_eq_true, if_false]
    split <;> rfl
  · rfl

/-- Stage 6 writes the equalizer segment where its taps adapt (R49–R52). -/
theorem equalizerSal_adapts {c : Chan} {s : State} {g : Seg} (hg : s.chans[c].eqSeg = some g)
    (h : eqAdapts s.chans[c] s.chans[c].par true = true) (v : Int) (taps : List Int) :
    equalizerSal c (some v) taps s = writeSegment g
      ((newEqTaps s.btl.part1 s.chans[c] (equalizerError s.chans[c] v) taps).map (BitVec.ofInt 16)) s.sal := by
  unfold equalizerSal
  simp only [hg, h, if_true]

/-! ### The equalizer taps in a full service (R49–R52) -/

theorem measured_sal (c : Chan) (code : Byte) (x : Word) (s : State) : (measured c code x s).sal =
    { writeBack (tapsRead c s) s.sal with hist := (writeHistory c (refSample x s) s).sal.hist } := by
  rw [measured, State.modChan_sal, corrections_writeHistory_eq, writeHistory_inputTaken]
  rfl

/-- Stages 1 to 4 keep the form. -/
theorem measured_ok {c : Chan} {s : State} (h : MemoryOk s.sal) (code : Byte) (x : Word) :
    MemoryOk (measured c code x s).sal := by
  have hback := writeBack_ok (tapsRead c s) s.sal (readSegments_addr s.sal _) h
  rw [measured_sal]
  exact ⟨hback.1, (writeHistory_ok c (refSample x s) h).2⟩

/-- What an equalizer tap holds before stage 6: its word, corrected where it reads so (R31, R105). -/
theorem tap_echoAdapted_equalizer {c : Chan} {s : State} (hm : MemoryOk s.sal) (hn : s.chans[c].segs.Nodup) {g : Seg}
    (hg : s.chans[c].eqSeg = some g) {j : Nat} (hj : j < 32) (code : Byte) (x : Word) :
    cellRead tapBlank (echoAdapted c code x s).sal.taps (32 * g.val + j) =
      rewritten (tapAt s (32 * g.val + j)) := by
  have hout : ¬ inSegments ((measured c code x s).chans[c].segs.take
      ((measured c code x s).chans[c].par.near + (measured c code x s).chans[c].par.far)) (32 * g.val + j) := by
    rw [inSegments_offset_iff _ _ hj, (measured_before c code x s).segs, (measured_before c code x s).par]
    exact eqSeg_notMem_echo hn hg
  rw [echoAdapted, tap_echoStage_out c _ _ _ (measured_ok hm code x) hout, measured_sal]
  exact tap_writeBack_in hm hn (eqSeg_mem _ g hg) hj

/-- Stage 7 leaves the tap store of stage 6. -/
theorem stageSeven_equalizerDone_sal (c : Chan) (code : Byte) (x d : Word) (taken : ChanState) (b : Bool) (s : State) :
    (stageSeven c taken b (equalizerDone c code x d s).1).sal =
      equalizerSal c (desiredOf d) ((tapValues c s).drop (echoTapCount c s)) (echoAdapted c code x s) := by
  rw [(stageSeven_keeps _ _ _ _).1, equalizerDone, equalizerStage_eq]

theorem echoAdapted_btl (c : Chan) (code : Byte) (x : Word) (s : State) : (echoAdapted c code x s).btl = s.btl := by
  rw [echoAdapted, echoStage_eq, measured, corrections_writeHistory_eq]
  rfl

/-- An equalizer tap after a service that adapts it (R50–R52). -/
theorem tap_equalizer_adapted {c : Chan} {s : State} (hm : MemoryOk s.sal) {g : Seg} (hg : s.chans[c].eqSeg = some g)
    (hlen : s.chans[c].segs.length = s.chans[c].par.near + s.chans[c].par.far + 1)
    (hring : s.chans[c].resid.length = 40) (hlag : s.chans[c].par.lag ≤ 8)
    (ha : eqAdapts s.chans[c] s.chans[c].par true = true) (code : Byte) (x : Word) (v : Int) {j : Nat} (hj : j < 32) :
    cellRead tapBlank (equalizerSal c (some v) ((tapValues c s).drop (echoTapCount c s))
      (echoAdapted c code x s)).taps (32 * g.val + j) = eccEncode (BitVec.ofInt 16
        (adaptTap (shiftOf (leak s.chans[c].pe (residual c code x s)) s.btl.part1.pfloor (eqExponent s.chans[c]) 14)
          (equalizerError s.chans[c] v) ((tapValues c s).getD (echoTapCount c s + j) 0)
          ((residualRing c code x s).getD (s.chans[c].par.lag + j) 0))) := by
  have hz := echoAdapted_before c code x s
  have hok : MemoryOk (echoAdapted c code x s).sal := echoStage_ok c _ _ _ (measured_ok hm code x)
  have htaps : ((tapValues c s).drop (echoTapCount c s)).length = 32 := by
    rw [List.length_drop, tapValues, List.length_map, tapsRead, readSegments_length, hlen, echoTapCount]
    omega
  have hresid : (echoAdapted c code x s).chans[c].resid.length = 40 := by
    rw [hz.resid, ringPush, List.length_take, List.length_cons, hring]
    rfl
  have hnew : 32 ≤ ((newEqTaps (echoAdapted c code x s).btl.part1 (echoAdapted c code x s).chans[c]
      (equalizerError (echoAdapted c code x s).chans[c] v) ((tapValues c s).drop (echoTapCount c s))).map
        (BitVec.ofInt 16)).length := by
    rw [List.length_map, newEqTaps, List.length_zipWith, htaps, List.length_drop, hresid, hz.par]
    omega
  have hzero : (0 : Word) = BitVec.ofInt 16 0 := rfl
  have hat : ((tapValues c s).drop (echoTapCount c s)).getD j 0 = (tapValues c s).getD (echoTapCount c s + j) 0 := by
    simp only [List.getD_eq_getElem?_getD, List.getElem?_drop]
  rw [equalizerSal_adapts (hz.eqSeg.trans hg) (hz.eqAdapts.trans ha), tap_writeSegment_in g _ _ hok j hj hnew, hzero,
    List.getD_map, newEqTaps_getD _ _ _ (by omega) (by rw [hresid, hz.par]; omega), hat, hz.power, hz.eqExponent,
    hz.equalizerError, hz.resid, hz.par, echoAdapted_btl]
  rfl

end Sys2Proof.Machine

open Sys2Proof Sys2Proof.Machine

/-- Settles O22: the adapted taps by stage 6, whose `adaptTap` unfolds to R50–R52, the others by the write-back of
stage 2. -/
theorem equalizerTapsAdaptByTheRule : Obligations.EqualizerTapsAdaptByTheRule := by
  intro i c code x d n m g s hf hm hn hg hlen hring _ hlag x0 q e before adapts
  obtain ⟨heq, -⟩ := (eqSeg_eq_some_iff _ _).1 hg
  have hadapts : eqAdapts x0 x0.par true = true ↔ adapts := eqAdapts_iff heq
  refine ⟨_, exec_fullService hf, fun v ha hd => ?_, fun hidle j hj => ?_⟩
  · intro eps b shift delta j hj
    have htap := tap_equalizer_adapted hm hg hlen hring hlag (hadapts.2 ha) code x v hj
    have hexp : eqExponent x0 = if x0.state = .eqTrain then q.aEqTrain else q.aEqTrack := by
      simp only [eqExponent, beq_iff_eq, q]
    rw [hexp] at htap
    rw [tapAt, stageSeven_equalizerDone_sal, hd]
    exact htap
  · have hkeeps := equalizerSal_idle (c := c) (d := desiredOf d) (s := echoAdapted c code x s)
      (hidle.imp (fun h => by
        rw [(echoAdapted_before c code x s).eqAdapts, Bool.eq_false_iff]
        exact fun hc => h (hadapts.1 hc)) id)
    rw [tapAt, stageSeven_equalizerDone_sal, hkeeps]
    exact tap_echoAdapted_equalizer hm hn hg hj code x
end

section
/-! The measures: the saturation and the estimators' update (R55, R56), the log scale and the figures of merit (R59,
R60). -/

namespace Sys2Proof.Machine

/-! ### The log scale (R59) -/

/-- The log value by the leading bit of P + 1 (R59). -/
theorem logValue_eq {p b : Nat} (hlo : 2 ^ b ≤ p + 1) (hhi : p + 1 < 2 ^ (b + 1)) :
    logValue p = 8 * b + (p + 1 - 2 ^ b) * 8 / 2 ^ b := by
  have hlog : (p + 1).log2 = b := (Nat.log2_eq_iff (by omega)).2 ⟨hlo, hhi⟩
  simp only [logValue, hlog]

/-- The part below the leading bit is one of eight steps (R59). -/
theorem logStep_le {m b : Nat} (hhi : m < 2 ^ (b + 1)) : (m - 2 ^ b) * 8 / 2 ^ b ≤ 7 := by
  have hpos := Nat.two_pow_pos b
  refine Nat.le_of_lt_succ (Nat.div_lt_of_lt_mul ?_)
  rw [Nat.pow_succ] at hhi
  omega

/-- Every P + 1 has its leading bit. -/
theorem exists_leadingBit (p : Nat) : ∃ b, 2 ^ b ≤ p + 1 ∧ p + 1 < 2 ^ (b + 1) :=
  ⟨(p + 1).log2, Nat.log2_self_le (by omega), Nat.lt_log2_self⟩

/-- The log value grows with the estimator: within an octave by its step, beyond it by its octave (R59). -/
theorem logValue_mono {p q : Nat} (h : p ≤ q) : logValue p ≤ logValue q := by
  obtain ⟨b, hb, hb'⟩ := exists_leadingBit p
  obtain ⟨d, hd, hd'⟩ := exists_leadingBit q
  rw [logValue_eq hb hb', logValue_eq hd hd']
  have hbd : b < d + 1 := (Nat.pow_lt_pow_iff_right Nat.one_lt_two).1 (by omega)
  rcases Nat.lt_or_ge b d with hlt | hge
  · have hstep := logStep_le hb'
    exact Nat.le_trans (m := 8 * d) (by omega) (Nat.le_add_right _ _)
  · obtain rfl : b = d := by omega
    have : (p + 1 - 2 ^ b) * 8 / 2 ^ b ≤ (q + 1 - 2 ^ b) * 8 / 2 ^ b := Nat.div_le_div_right (by omega)
    omega

/-! ### The estimators (R55, R56) -/

theorem sat_eq (x : Int) : sat x = max (-32767) (min 32767 x) := by
  unfold sat
  split
  · omega
  · split <;> omega

theorem sat_natAbs_le (x : Int) : (sat x).natAbs ≤ 32767 := by
  rw [sat_eq]
  omega

theorem leak_eq (p : Nat) (v : Int) : leak p v = p - p / 128 + v.natAbs ^ 2 / 128 := by
  rw [leak, Nat.pow_two]

/-- What a sample adds is at most what a full estimator loses (R56). -/
theorem gain_le {v : Int} (h : v.natAbs ≤ 32768) : v.natAbs * v.natAbs / 128 ≤ 2 ^ 23 := by
  have : v.natAbs * v.natAbs ≤ 32768 * 32768 := Nat.mul_le_mul h h
  omega

theorem loss_mono {p q : Nat} (h : p ≤ q) : p - p / 128 ≤ q - q / 128 := by omega

/-- No clamp is needed (R56). -/
theorem leak_le {p : Nat} {v : Int} (hp : p ≤ 2 ^ 30) (hv : v.natAbs ≤ 32768) : leak p v ≤ 2 ^ 30 := by
  have := gain_le hv
  rw [leak]
  omega

theorem leak_lt {p : Nat} {v : Int} (hp : p < 2 ^ 30) (hv : v.natAbs ≤ 32767) : leak p v < 2 ^ 30 := by
  have : v.natAbs * v.natAbs ≤ 32767 * 32767 := Nat.mul_le_mul hv hv
  rw [leak]
  omega

theorem decodeLine_natAbs_le (l : Law) (code : Byte) : (decodeLine l code).natAbs ≤ 32256 := by
  cases l with
  | mu => exact Nat.le_trans (decodeLine_mu_natAbs_le code) (by decide)
  | a => exact (decodeLine_a_natAbs code).2

/-- The one word beyond the range marks an absent sample (R46). -/
theorem desiredOf_natAbs_le {d : Word} {v : Int} (h : desiredOf d = some v) : v.natAbs ≤ 32767 := by
  unfold desiredOf at h
  split at h
  · cases h
  · rename_i hd
    obtain rfl : d.toInt = v := by simpa using h
    have hne : d.toInt ≠ -32768 := fun he => hd (BitVec.eq_of_toInt_eq he)
    have hlo := BitVec.le_toInt d
    have hhi := BitVec.toInt_lt (x := d)
    omega

/-! ### Silence (R56) -/

theorem leak_zero (p : Nat) : leak p 0 = p - p / 128 := by simp [leak]

/-- Silence leaves an estimator below 128 as it is. -/
theorem leak_zero_small {p : Nat} (h : p < 128) : leak p 0 = p := by
  rw [leak_zero]
  omega

/-- Silence takes an estimator of 127 or more down to 127. -/
theorem exists_silence_reaches (p : Nat) (h : 127 ≤ p) : ∃ n, (fun q => leak q 0)^[n] p = 127 := by
  induction p using Nat.strong_induction_on with
  | h p ih =>
    rcases Nat.eq_or_lt_of_le h with rfl | hlt
    · exact ⟨0, rfl⟩
    · have hstep := leak_zero p
      obtain ⟨n, hn⟩ := ih (leak p 0) (by omega) (by omega)
      exact ⟨n + 1, hn⟩

/-- It stays there. -/
theorem silence_stays {p n : Nat} (h : (fun q => leak q 0)^[n] p = 127) (k : Nat) :
    (fun q => leak q 0)^[n + k] p = 127 := by
  rw [Nat.add_comm, Function.iterate_add_apply, h]
  exact Function.iterate_fixed (f := fun q => leak q 0) (leak_zero_small (p := 127) (by decide)) k

end Sys2Proof.Machine

open Sys2Proof Sys2Proof.Machine

/-- Settles O29: the log value by its octave and step, its growth, and the truncated differences. -/
theorem logValuesAndFiguresOfMerit : Obligations.LogValuesAndFiguresOfMerit := by
  refine ⟨fun p b hlo hhi => ⟨logValue_eq hlo hhi, logStep_le hhi⟩, fun p q => logValue_mono,
    logValue_eq (b := 0) (by decide) (by decide), logValue_eq (b := 30) (by decide) (by decide), fun x => ⟨?_, ?_⟩⟩
  · rw [erle]
    omega
  · rw [quality]
    omega
end

section
/-! The degrade and quiet detectors in a full service (R66–R70): what each leaves on a context, what stage 7 finds on
the channel, and the events posted. -/

namespace Sys2Proof.Machine

/-! ### The detectors on a context (R66, R68) -/

/-- The degrade detector watches: the service was taken in TRACKING and the gate is met (R66). -/
def degradeWatches (taken : ChanState) (p : PartOne) (x : Context) : Bool :=
  decide (taken = .tracking ∧ p.gate ≤ logValue x.pr)

/-- ERLE lies below the target by more than the margin (R66). -/
def erleLow (p : PartOne) (x : Context) : Bool := decide (erle x + p.degradeMargin < x.par.erleTarget)

/-- The degrade detector reports: its streak reaches the count (R66). -/
def degradeTrips (taken : ChanState) (p : PartOne) (x : Context) : Bool :=
  degradeWatches taken p x && !x.degraded && erleLow p x && decide (x.degradeStreak + 1 = p.degradeCount)

/-- L(P_y) lies below the quiet level (R68). -/
def lineSilent (p : PartOne) (x : Context) : Bool := decide (logValue x.py < p.quietLevel)

/-- The quiet detector reports: its streak reaches the limit (R68). -/
def quietRings (p : PartOne) (x : Context) : Bool :=
  !x.quiet && lineSilent p x && decide (x.quietStreak + 1 = p.quietLimit)

/-- The context after the degrade detector (R66, R67). -/
def afterDegrade (taken : ChanState) (p : PartOne) (x : Context) : Context :=
  { x with
    degraded := if degradeWatches taken p x = false then x.degraded
      else if x.degraded = true then decide (erle x < x.par.erleTarget) else degradeTrips taken p x
    degradeStreak := if degradeWatches taken p x = false ∨ x.degraded = true then x.degradeStreak
      else if erleLow p x = false ∨ degradeTrips taken p x = true then 0 else x.degradeStreak + 1 }

/-- The context after the quiet detector (R68, R69). -/
def afterQuiet (p : PartOne) (x : Context) : Context :=
  { x with
    quiet := if x.quiet = true then lineSilent p x else quietRings p x
    quietStreak := if x.quiet = true then x.quietStreak
      else if lineSilent p x = false ∨ quietRings p x = true then 0 else x.quietStreak + 1 }

/-- The degrade detector does not act outside TRACKING or below the gate. -/
theorem degraded_unwatched {taken : ChanState} {p : PartOne} {x : Context} (h : degradeWatches taken p x = false) :
    degraded taken p x = (x, false) := by
  unfold degraded
  split
  · next ht =>
    have hg : gateMet p x = false := by simpa [degradeWatches, ht, gateMet] using h
    simp [degradeStep, hg]
  · rfl

theorem degraded_watched {taken : ChanState} {p : PartOne} {x : Context} (h : degradeWatches taken p x = true) :
    degraded taken p x =
      if x.degraded then (if x.par.erleTarget ≤ erle x then { x with degraded := false } else x, false)
      else if erleLow p x then
        if x.degradeStreak + 1 = p.degradeCount then ({ x with degraded := true, degradeStreak := 0 }, true)
        else ({ x with degradeStreak := x.degradeStreak + 1 }, false)
      else ({ x with degradeStreak := 0 }, false) := by
  obtain ⟨ht, hg⟩ : taken = .tracking ∧ p.gate ≤ logValue x.pr := by simpa [degradeWatches] using h
  simp [degraded, degradeStep, ht, gateMet, hg, erleLow]

/-- The degrade detector, by its report and its armed state (R66, R67). -/
theorem degraded_eq (taken : ChanState) (p : PartOne) (x : Context) :
    degraded taken p x = (afterDegrade taken p x, degradeTrips taken p x) := by
  unfold afterDegrade
  cases hw : degradeWatches taken p x with
  | false =>
    simp [degraded_unwatched hw, degradeTrips, hw]
  | true =>
    rw [degraded_watched hw]
    cases hd : x.degraded with
    | true =>
      have hsame : { x with degraded := true } = x := by rw [← hd]
      by_cases he : x.par.erleTarget ≤ erle x
      · simp [degradeTrips, hd, he, Nat.not_lt.2 he]
      · simp [degradeTrips, hd, he, Nat.not_le.1 he, hsame]
    | false =>
      by_cases hl : erleLow p x = true
      · by_cases hc : x.degradeStreak + 1 = p.degradeCount
        · simp [degradeTrips, hw, hd, hl, hc]
        · simp [degradeTrips, hw, hd, hl, hc]
      · simp [degradeTrips, hw, hd, hl]

/-- The quiet detector, by its report and its armed state (R68, R69). -/
theorem quietStep_eq (p : PartOne) (x : Context) : quietStep p x = (afterQuiet p x, quietRings p x) := by
  unfold quietStep afterQuiet quietRings lineSilent
  cases hq : x.quiet with
  | true =>
    have hsame : { x with quiet := true } = x := by rw [← hq]
    by_cases hs : logValue x.py < p.quietLevel
    · simp [hs, Nat.not_le.2 hs, hsame]
    · simp [hs, Nat.not_lt.1 hs]
  | false =>
    by_cases hs : logValue x.py < p.quietLevel
    · by_cases hc : x.quietStreak + 1 = p.quietLimit
      · simp [hs, hc]
      · simp [hs, hc]
    · simp [hs]

/-! ### What stage 7 finds (R18, R70) -/

/-- What the detectors ask of a channel and the service has not changed: the parameters, the owner and their own
fields. -/
structure DetectorsKept (x z : Context) : Prop where
  params : z.params = x.params
  owner : z.owner = x.owner
  degraded : z.degraded = x.degraded
  degradeStreak : z.degradeStreak = x.degradeStreak
  quiet : z.quiet = x.quiet
  quietStreak : z.quietStreak = x.quietStreak

theorem DetectorsKept.trans {x y z : Context} (h : DetectorsKept x y) (h' : DetectorsKept y z) : DetectorsKept x z :=
  ⟨h'.params.trans h.params, h'.owner.trans h.owner, h'.degraded.trans h.degraded,
    h'.degradeStreak.trans h.degradeStreak, h'.quiet.trans h.quiet, h'.quietStreak.trans h.quietStreak⟩

theorem DetectorsKept.par {x z : Context} (h : DetectorsKept x z) : z.par = x.par := by
  rw [Context.par, h.params, Context.par]

/-- The counting and the end of training keep them (R61–R65). -/
theorem counted_detectorsKept (p : PartOne) (b : Bool) (x : Context) : DetectorsKept x (counted p b x) := by
  have hcount : DetectorsKept x (countTraining p x.par b x) := by
    unfold countTraining
    split <;> exact ⟨rfl, rfl, rfl, rfl, rfl, rfl⟩
  unfold counted
  dsimp only
  split
  · exact hcount
  · exact hcount.trans ⟨rfl, rfl, rfl, rfl, rfl, rfl⟩

/-- Stage 6 keeps them on the context (R47). -/
theorem alignDesired_detectorsKept (d : Option Int) (z : Int) (x : Context) : DetectorsKept x (alignDesired d z x) := by
  cases d <;> exact ⟨rfl, rfl, rfl, rfl, rfl, rfl⟩

/-- Stages 1 to 4 leave BTL, the controller table and the FIFOs but for the correction's event, and what the detectors
ask (R20, R31, R55). -/
theorem measured_beforeDetectors (c : Chan) (code : Byte) (x : Word) (s : State) :
    (measured c code x s).btl = s.btl ∧ (measured c code x s).cbi = s.cbi ∧
      (measured c code x s).fifos = (correctionEvent c (tapsRead c s) s).fifos ∧
      DetectorsKept s.chans[c] (measured c code x s).chans[c] := by
  have hevent : (correctionEvent c (tapsRead c s) (inputTaken c s)).fifos =
      (correctionEvent c (tapsRead c s) s).fifos := correctionEvent_fifos_congr _ rfl rfl rfl rfl rfl
  rw [measured, corrections_writeHistory_eq, countCorrections_eq, hevent]
  refine ⟨rfl, rfl, rfl, ?_⟩
  simp only [State.modChan, State.setChan, getElem_set_same]
  exact ⟨rfl, rfl, rfl, rfl, rfl, rfl⟩

/-- So does stage 5 (R33–R37). -/
theorem echoAdapted_beforeDetectors (c : Chan) (code : Byte) (x : Word) (s : State) :
    (echoAdapted c code x s).btl = s.btl ∧ (echoAdapted c code x s).cbi = s.cbi ∧
      (echoAdapted c code x s).fifos = (correctionEvent c (tapsRead c s) s).fifos ∧
      DetectorsKept s.chans[c] (echoAdapted c code x s).chans[c] := by
  obtain ⟨hbtl, hcbi, hfifos, hkept⟩ := measured_beforeDetectors c code x s
  rw [echoAdapted, echoStage_eq, echoGuarded_eq]
  refine ⟨hbtl, hcbi, hfifos, hkept.trans ?_⟩
  simp only [getElem_set_same]
  exact ⟨rfl, rfl, rfl, rfl, rfl, rfl⟩

/-- So does stage 6 (R44–R52). -/
theorem equalizerDone_beforeDetectors (c : Chan) (code : Byte) (x d : Word) (s : State) :
    let u := (equalizerDone c code x d s).1
    u.btl = s.btl ∧ u.cbi = s.cbi ∧ u.fifos = (correctionEvent c (tapsRead c s) s).fifos ∧
      DetectorsKept s.chans[c] u.chans[c] := by
  obtain ⟨hbtl, hcbi, hfifos, hkept⟩ := echoAdapted_beforeDetectors c code x s
  rw [equalizerDone, equalizerStage_eq]
  refine ⟨hbtl, hcbi, hfifos, hkept.trans ?_⟩
  simp only [getElem_set_same]
  exact alignDesired_detectorsKept _ _ _

/-- Stage 7 leaves the detectors' contexts and events after the counting (R66–R70). -/
theorem stageSeven_detectors (c : Chan) (taken : ChanState) (b : Bool) (s : State) :
    let p := s.btl.part1
    let z := counted p b s.chans[c]
    (stageSeven c taken b s).chans[c] = afterQuiet p (afterDegrade taken p z) ∧
      (stageSeven c taken b s).fifos = (postIf (quietRings p z) c .lineQuiet (logValue z.py)
        (postIf (degradeTrips taken p z) c .echoDegraded (erle z) s)).fifos := by
  intro p z
  rw [stageSeven_eq]
  simp only [degraded_eq, quietStep_eq, getElem_set_same]
  exact ⟨rfl, rfl⟩

/-- Two reports in order depend on the owner, the FIFOs, the controller table and BTL alone (R70). -/
theorem reports_fifos_congr {c : Chan} {s t : State} (ho : t.chans[c].owner = s.chans[c].owner)
    (hf : t.fifos = s.fifos) (hb : t.btl = s.btl) (ha : t.cbi = s.cbi) (b b' : Bool) (e e' : EventKind) (d d' : Nat) :
    (postIf b' c e' d' (postIf b c e d t)).fifos = (postIf b' c e' d' (postIf b c e d s)).fifos := by
  have hfirst := postIf_fifos_congr (b := b) (e := e) (d := d) ho hf hb (congrArg Cbi.attached ha)
  rw [postIf_eq b c e d s, postIf_eq b c e d t]
  exact postIf_fifos_congr ho hfirst hb (congrArg Cbi.attached ha)

/-- The detectors' part of a full service: the channel after them, and their events after a correction's (R66–R70). -/
theorem fullService_detectors (c : Chan) (taken : ChanState) (b : Bool) (code : Byte) (x d : Word) (s : State) :
    let p := s.btl.part1
    let u := (equalizerDone c code x d s).1
    ∃ z, DetectorsKept s.chans[c] z ∧ (stageSeven c taken b u).chans[c] = afterQuiet p (afterDegrade taken p z) ∧
      (stageSeven c taken b u).fifos = (postIf (quietRings p z) c .lineQuiet (logValue z.py)
        (postIf (degradeTrips taken p z) c .echoDegraded (erle z) (correctionEvent c (tapsRead c s) s))).fifos := by
  intro p u
  obtain ⟨hbtl, hcbi, hfifos, hkept⟩ : u.btl = s.btl ∧ u.cbi = s.cbi ∧ _ := equalizerDone_beforeDetectors c code x d s
  obtain ⟨hchan, hevents⟩ := stageSeven_detectors c taken b u
  rw [hbtl] at hchan hevents
  refine ⟨counted p b u.chans[c], hkept.trans (counted_detectorsKept _ _ _), hchan, hevents.trans ?_⟩
  have hc := correctionEvent_eq c (tapsRead c s) s
  exact reports_fifos_congr (by rw [hc]; exact hkept.owner) hfifos (by rw [hc]; exact hbtl) (by rw [hc]; exact hcbi)
    _ _ _ _ _ _

end Sys2Proof.Machine

open Sys2Proof Sys2Proof.Machine

/-- Settles O24: stage 7 leaves the channel as `afterDegrade` and `afterQuiet` say, on what the service found. -/
theorem detectorsReportOnceAndRearm : Obligations.DetectorsReportOnceAndRearm := by
  intro i c code x d n m s hf x0 p post
  obtain ⟨z, hkept, hchan, hevents⟩ :=
    fullService_detectors c x0.state (desiredOf d).isSome code x d s
  refine ⟨_, exec_fullService hf, ?_⟩
  simp only [hchan, hevents, x0, ← hkept.par, ← hkept.degraded, ← hkept.degradeStreak, ← hkept.quiet,
    ← hkept.quietStreak]
  exact ⟨rfl, rfl, rfl, rfl, rfl⟩
end

section
/-! The state after reset and the invariants (R194). -/

namespace Sys2Proof.Machine

/-! ### The state after reset, place by place -/

@[simp] theorem reset_chan (c : Chan) : State.reset.chans[c] = initialContext := by simp [State.reset]

@[simp] theorem reset_rec (r : Rec) : State.reset.pfs.recs[r] = emptyProfile := by simp [State.reset, initialPfs]

@[simp] theorem reset_lock (k : Ctl) : State.reset.locks[k] = none := by simp [State.reset]

@[simp] theorem reset_fifo (k : Ctl) : State.reset.fifos[k] = initialFifo := by simp [State.reset]

theorem reset_free : State.reset.sal.freeSegs = List.finRange 256 ∧ State.reset.sal.freePages = List.finRange 256 := by
  simp only [State.reset, initialSal, and_self]

theorem reset_chans_toList : State.reset.chans.toList = List.replicate 32 initialContext := by simp [State.reset]

/-- A reading of a channel that is empty after reset is empty of all channels. -/
theorem reset_flatMap_nil {α : Type} {f : Context → List α} (h : f initialContext = []) :
    State.reset.chans.toList.flatMap f = [] := by
  rw [reset_chans_toList, List.flatMap_eq_nil_iff]
  intro x hx
  rw [List.eq_of_mem_replicate hx, h]

/-- No channel has an owner after reset. -/
theorem reset_owned (k : Ctl) : (State.reset.chans.toList.filter fun x => x.owner == some k) = [] := by
  rw [reset_chans_toList, List.filter_eq_nil_iff]
  intro x hx
  rw [List.eq_of_mem_replicate hx]
  exact Bool.false_ne_true

/-! ### The invariants (R56, R73, R100, R108, R111, R123, R125, R131, R147, R166, R170, R182) -/

theorem reset_memory : MemoryOk State.reset.sal :=
  ⟨⟨List.Pairwise.nil, fun _ h => (nomatch h)⟩, ⟨List.Pairwise.nil, fun _ h => (nomatch h)⟩⟩

theorem reset_profiles : ProfilesOk State.reset := by
  refine ⟨List.nodup_nil, fun r => ?_, fun r r' h => ?_⟩
  · rw [reset_rec]
    exact ⟨(nomatch ·), (nomatch ·)⟩
  · rw [reset_rec] at h
    exact absurd rfl h

theorem reset_calls : CallsOk State.reset where
  waits := List.nodup_nil
  waitState _ h := nomatch h
  jobs := List.nodup_nil
  jobStates _ h := nomatch h
  gate _ c := by rw [reset_chan]; rfl

theorem reset_slots : SlotsOk State.reset := by
  refine ⟨fun c => ?_, fun c c' h => ?_⟩
  · rw [reset_chan]
    rfl
  · rw [reset_chan] at h
    exact nomatch h

/-- Every unit is free (R100), and nothing is held (R108). -/
theorem reset_store : StoreOk State.reset where
  segs := by
    rw [reset_flatMap_nil rfl, List.append_nil, reset_free.1]
  pages := by
    rw [reset_flatMap_nil rfl, List.append_nil, reset_free.2]
  segsRise := by
    rw [reset_free.1]
    exact List.pairwise_lt_finRange 256
  pagesRise := by
    rw [reset_free.2]
    exact List.pairwise_lt_finRange 256
  empty c _ := by rw [reset_chan]; exact ⟨rfl, rfl⟩
  heldSegs k := by
    rw [ownedSegs, reset_owned]
    simp [State.reset, initialSal]
  heldPages k := by
    rw [ownedPages, reset_owned]
    simp [State.reset, initialSal]

theorem reset_lists : ListsBounded State.reset := by
  refine ⟨by decide, by decide, fun k => ?_⟩
  rw [reset_fifo]
  exact Nat.zero_le _

theorem reset_records : RecordsOk State.reset :=
  ⟨fun _ h => (nomatch h), fun _ _ _ _ h => (nomatch h)⟩

theorem reset_tags : TagsDistinct State.reset := List.nodup_nil

theorem reset_triggers : TriggersInRange State.reset := by
  refine ⟨by decide, by decide, by decide, fun k => ?_⟩
  rw [reset_fifo]
  decide

theorem reset_estimators : EstimatorsOk State.reset := by
  intro c
  rw [reset_chan]
  exact ⟨Nat.zero_le _, Nat.zero_le _, Nat.zero_le _, Nat.zero_le _, Nat.zero_le _⟩

/-- No lock stands, and no channel carries LOCK (R147). -/
theorem reset_locks : LocksOk State.reset where
  objects _ _ _ _ h := by rw [reset_lock] at h; exact nomatch h
  holds c := by
    rw [reset_chan]
    refine ⟨(nomatch ·), fun ⟨k, l, hl, _⟩ => ?_⟩
    rw [reset_lock] at hl
    exact nomatch hl
  once _ _ _ _ _ h := by rw [reset_lock] at h; exact nomatch h
  broken _ _ h := by rw [reset_lock] at h; exact nomatch h
  channel _ _ h := by rw [reset_lock] at h; exact nomatch h
  profile _ _ h := by rw [reset_lock] at h; exact nomatch h
  fill _ _ h := by rw [reset_lock] at h; exact nomatch h
  attached k _ := reset_lock k

/-- Nothing is bound on either side (R125); the gate is closed while the boot load runs (R176). -/
theorem reset_bindings : BindingsOk State.reset where
  ofProfile r _ h := by rw [reset_rec] at h; exact nomatch h
  ofChannel c _ h := by rw [reset_chan] at h; exact nomatch h
  free c _ := by rw [reset_chan]; rfl
  saves _ h := nomatch h
  fills _ _ _ h := by rw [reset_lock] at h; exact nomatch h
  booting _ := ⟨rfl, reset_lock⟩

end Sys2Proof.Machine

open Sys2Proof Sys2Proof.Machine

/-- Settles O4: after reset every list is empty, every channel FREE and every unit free. -/
theorem resetMeetsTheInvariants : Obligations.ResetMeetsTheInvariants :=
  ⟨reset_memory, reset_profiles, reset_calls, reset_slots, reset_store, reset_lists, reset_records, reset_tags,
    reset_triggers, reset_estimators, reset_locks, reset_bindings⟩
end

section
/-! Every step keeps the power estimators within 0…2^30 (R56): the operations that change channels, by what they do to
the five estimators of a channel; the channel service; then each command. -/

namespace Sys2Proof.Machine

/-! ### The estimators of a channel -/

/-- The five power estimators of a channel lie within 0…2^30 (R56). -/
def PowersOk (x : Context) : Prop :=
  x.pr ≤ 2 ^ 30 ∧ x.py ≤ 2 ^ 30 ∧ x.pe ≤ 2 ^ 30 ∧ x.pd ≤ 2 ^ 30 ∧ x.peps ≤ 2 ^ 30

/-- Estimators of 0, as at bind and at RESTART (R82, R93). -/
theorem powersOk_zero {x : Context} (hr : x.pr = 0) (hy : x.py = 0) (he : x.pe = 0) (hd : x.pd = 0)
    (hps : x.peps = 0) : PowersOk x := by
  simp [PowersOk, hr, hy, he, hd, hps]

/-! ### Updates of channels -/

/-- The estimators stand in the channels. -/
theorem estimatorsOk_of_chans {s t : State} (h : EstimatorsOk s) (ht : t.chans = s.chans) : EstimatorsOk t := by
  intro c
  rw [ht]
  exact h c

theorem estimatorsOk_of_chans_set {s t : State} {c : Chan} {x : Context} (h : EstimatorsOk s)
    (ht : t.chans = s.chans.set c x) (hx : PowersOk x) : EstimatorsOk t := by
  intro c'
  rw [ht, getElem_set_fin]
  split
  · exact hx
  · exact h c'

theorem setChan_estimators {s : State} {c : Chan} {x : Context} (h : EstimatorsOk s) (hx : PowersOk x) :
    EstimatorsOk (s.setChan c x) := estimatorsOk_of_chans_set h rfl hx

theorem modChan_estimators {s : State} {c : Chan} {f : Context → Context} (h : EstimatorsOk s)
    (hf : ∀ x, PowersOk x → PowersOk (f x)) : EstimatorsOk (s.modChan c f) := setChan_estimators h (hf _ (h c))

theorem foldl_estimators {α : Type} {f : State → α → State} (hf : ∀ s a, EstimatorsOk s → EstimatorsOk (f s a))
    (l : List α) {s : State} (h : EstimatorsOk s) : EstimatorsOk (l.foldl f s) :=
  List.foldlRecOn l f h fun s hs a _ => hf s a hs

/-! ### Completions -/

theorem postLink_estimators (c : Chan) (l : Option Tag) (o : Result) (ws : List Word) {s : State}
    (h : EstimatorsOk s) : EstimatorsOk (postLink c l o ws s) := estimatorsOk_of_chans h (by simp)

theorem postOwner_estimators (c : Chan) (e : EventKind) (d : Nat) {s : State} (h : EstimatorsOk s) :
    EstimatorsOk (postOwner c e d s) := estimatorsOk_of_chans h (by simp)

theorem postTo_estimators (k : Ctl) (e : EventKind) (ch : Option Chan) (d : Nat) {s : State} (h : EstimatorsOk s) :
    EstimatorsOk (postTo k e ch d s) := estimatorsOk_of_chans h (by simp)

theorem postAll_estimators (e : EventKind) (ch : Option Chan) (d : Nat) {s : State} (h : EstimatorsOk s) :
    EstimatorsOk (postAll e ch d s) := estimatorsOk_of_chans h (by simp)

theorem completeTraining_estimators (c : Chan) (o : Result) {s : State} (h : EstimatorsOk s) :
    EstimatorsOk (completeTraining c o s) := by
  unfold completeTraining
  split
  · exact modChan_estimators (postLink_estimators _ _ _ _ h) fun _ hx => hx
  · exact h

theorem completeBind_estimators (c : Chan) (o : Result) {s : State} (h : EstimatorsOk s) :
    EstimatorsOk (completeBind c o s) := modChan_estimators (postLink_estimators _ _ _ _ h) fun _ hx => hx

theorem completeRelease_estimators (c : Chan) (o : Result) (n : Nat) (k : Option Key) {s : State}
    (h : EstimatorsOk s) : EstimatorsOk (completeRelease c o n k s) :=
  modChan_estimators (postLink_estimators _ _ _ _ h) fun _ hx => hx

/-! ### Records, grants and entry to FREE -/

theorem emptyRecord_estimators (r : Rec) {s : State} (h : EstimatorsOk s) : EstimatorsOk (emptyRecord r s) := by
  unfold emptyRecord
  split
  · exact h
  · exact modChan_estimators h fun _ hx => hx

/-- A grant clears the estimators (R82). -/
theorem grant_estimators (c : Chan) (n p : Nat) {s : State} (h : EstimatorsOk s) : EstimatorsOk (grant c n p s) := by
  have hgranted : EstimatorsOk (unitsGranted c n p s) := setChan_estimators h (powersOk_zero rfl rfl rfl rfl rfl)
  rw [grant_eq, enterGranted]
  split
  · exact modChan_estimators hgranted fun _ hx => hx
  · exact completeBind_estimators _ _ (modChan_estimators hgranted fun _ hx => hx)

theorem recheckFrom_estimators (n : Nat) {s : State} (h : EstimatorsOk s) : EstimatorsOk (recheckFrom n s) := by
  induction n generalizing s with
  | zero => exact h
  | succ n ih =>
    unfold recheckFrom
    split
    · exact h
    · split
      · exact ih (grant_estimators _ _ _ h)
      · exact h

theorem recheck_estimators {s : State} (h : EstimatorsOk s) : EstimatorsOk (recheck s) := recheckFrom_estimators _ h

theorem enterFree_estimators (c : Chan) {s : State} (h : EstimatorsOk s) : EstimatorsOk (enterFree c s) :=
  estimatorsOk_of_chans_set (c := c) (x := s.chans[c].freed) h (by simp [enterFree]) (h c)

/-! ### Faults and corrections -/

theorem enterFault_estimators (c : Chan) (a : Nat) {s : State} (h : EstimatorsOk s) :
    EstimatorsOk (enterFault c a s) := by
  have hfault := modChan_estimators (c := c) (f := fun x => { x with state := .fault })
    (completeTraining_estimators c .faulted h) fun _ hx => hx
  unfold enterFault
  refine postOwner_estimators _ _ _ ?_
  split
  · exact completeBind_estimators c .faulted hfault
  · exact hfault

theorem applyCorrections_estimators (c : Chan) (rd : List TapRead) {s : State} (h : EstimatorsOk s) :
    EstimatorsOk (applyCorrections c rd s) := by
  rw [applyCorrections_eq, countCorrections_eq]
  exact estimatorsOk_of_chans_set h rfl (h c)

/-! ### Locks -/

theorem unholdChan_estimators (l : Lock) {s : State} (h : EstimatorsOk s) : EstimatorsOk (unholdChan l s) := by
  unfold unholdChan
  split
  · exact h
  · exact modChan_estimators h fun _ hx => hx

theorem dropFill_estimators (l : Lock) {s : State} (h : EstimatorsOk s) : EstimatorsOk (dropFill l s) := by
  unfold dropFill
  split
  · split
    · split
      · exact h
      · exact emptyRecord_estimators _ h
    · exact h
  · exact h

theorem endLock_estimators (k : Ctl) {s : State} (h : EstimatorsOk s) : EstimatorsOk (endLock k s) := by
  unfold endLock
  split
  · exact h
  · exact unholdChan_estimators _ h

theorem expireLock_estimators (k : Ctl) {s : State} (h : EstimatorsOk s) : EstimatorsOk (expireLock k s) := by
  unfold expireLock
  split
  · exact h
  · exact postTo_estimators k _ _ _ (dropFill_estimators _ (unholdChan_estimators _ h))

theorem markerEffect_estimators (rq : Request) (o : LockObj) (p : Purpose) (held : Option Chan) {s : State}
    (h : EstimatorsOk s) : EstimatorsOk (markerEffect rq o p held s) := by
  unfold markerEffect
  split
  · exact h
  · split
    · exact h
    · exact modChan_estimators h fun _ hx => hx
  · split <;> exact h
  · exact endLock_estimators _ h

/-! ### The channel service (R18, R55–R58) -/

theorem measure_powers {r y e : Int} {x : Context} (h : PowersOk x) (hr : r.natAbs ≤ 32768) (hy : y.natAbs ≤ 32768)
    (he : e.natAbs ≤ 32768) : PowersOk (measure r y e x) := by
  obtain ⟨hpr, hpy, hpe, hpd, hpeps⟩ := h
  exact ⟨leak_le hpr hr, leak_le hpy hy, leak_le hpe he, hpd, hpeps⟩

/-- The residual ring and the parity count beside the measures are no estimators. -/
theorem recordResidual_powers {r y e : Int} {x : Context} (h : PowersOk x) (hr : r.natAbs ≤ 32768)
    (hy : y.natAbs ≤ 32768) (he : e.natAbs ≤ 32768) (failed : Nat) : PowersOk (recordResidual r y e failed x) :=
  measure_powers (x := { x with resid := ringPush 40 e x.resid, parityCount := min 255 (x.parityCount + failed) })
    h hr hy he

theorem faultMeasure_powers {r y : Int} {x : Context} (h : PowersOk x) (hr : r.natAbs ≤ 32768)
    (hy : y.natAbs ≤ 32768) : PowersOk (faultMeasure r y x) := by
  obtain ⟨hpr, hpy, -, hpd, hpeps⟩ := h
  exact ⟨leak_le hpr hr, leak_le hpy hy, leak_le hpy hy, hpd, hpeps⟩

/-- The equalizer's error is a saturation, so only the desired sample needs its bound. -/
theorem alignDesired_powers {d : Option Int} {x : Context} (h : PowersOk x)
    (hd : ∀ v, d = some v → v.natAbs ≤ 32768) (z : Int) : PowersOk (alignDesired d z x) := by
  obtain ⟨hpr, hpy, hpe, hpd, hpeps⟩ := h
  cases d with
  | none => exact ⟨hpr, hpy, hpe, hpd, hpeps⟩
  | some v =>
    have herror : (equalizerError x v).natAbs ≤ 32768 := Nat.le_trans (sat_natAbs_le _) (by decide)
    exact ⟨hpr, hpy, hpe, leak_le hpd (hd v rfl), leak_le hpeps herror⟩

/-- The counting and the end of training keep the estimators (R61–R65). -/
theorem counted_powers (p : PartOne) (b : Bool) {x : Context} (h : PowersOk x) : PowersOk (counted p b x) := by
  have hcount : PowersOk (countTraining p x.par b x) := by
    unfold countTraining
    split <;> exact h
  unfold counted
  dsimp only
  split <;> exact hcount

theorem writeHistory_estimators (c : Chan) (r : Int) {s : State} (h : EstimatorsOk s) :
    EstimatorsOk (writeHistory c r s) := by
  rw [writeHistory_eq]
  exact estimatorsOk_of_chans_set h rfl (h c)

theorem echoStage_estimators (c : Chan) (e : Int) (taps samples : List Int) {s : State} (h : EstimatorsOk s) :
    EstimatorsOk (echoStage c e taps samples s) := by
  rw [echoStage_eq, echoGuarded_eq]
  exact estimatorsOk_of_chans_set h rfl (h c)

theorem equalizerStage_estimators (c : Chan) (e : Int) {d : Option Int} (taps : List Int) {s : State}
    (h : EstimatorsOk s) (hd : ∀ v, d = some v → v.natAbs ≤ 32768) : EstimatorsOk (equalizerStage c e d taps s).1 := by
  rw [equalizerStage_eq]
  exact estimatorsOk_of_chans_set h rfl (alignDesired_powers (h c) hd _)

/-- Stage 7 keeps the estimators: the detectors change their own fields alone (R61–R70). -/
theorem stageSeven_estimators (c : Chan) (taken : ChanState) (b : Bool) {s : State} (h : EstimatorsOk s) :
    EstimatorsOk (stageSeven c taken b s) := by
  have hpowers : PowersOk (afterQuiet s.btl.part1 (afterDegrade taken s.btl.part1
      (counted s.btl.part1 b s.chans[c]))) := counted_powers s.btl.part1 b (h c)
  rw [stageSeven_eq]
  simp only [degraded_eq, quietStep_eq]
  exact estimatorsOk_of_chans_set h rfl hpowers

/-- Stages 3 to 7: the residual is a saturation (R28, R29). -/
theorem conditionedService_estimators (c : Chan) (wt : Nat) {y r : Int} {d : Option Int} (taps : List Int) {s : State}
    (h : EstimatorsOk s) (hy : y.natAbs ≤ 32768) (hr : r.natAbs ≤ 32768) (hd : ∀ v, d = some v → v.natAbs ≤ 32768) :
    EstimatorsOk (conditionedService c wt y r d taps s).1 := by
  have hresidual (e : Int) : (sat e).natAbs ≤ 32768 := Nat.le_trans (sat_natAbs_le e) (by decide)
  unfold conditionedService
  refine stageSeven_estimators _ _ _ (equalizerStage_estimators _ _ _ (echoStage_estimators _ _ _ _ ?_) hd)
  exact modChan_estimators h fun x hx => recordResidual_powers hx hr hy (hresidual _) _

theorem fullService_estimators (c : Chan) {y r : Int} {d : Option Int} {s : State} (h : EstimatorsOk s)
    (hy : y.natAbs ≤ 32768) (hr : r.natAbs ≤ 32768) (hd : ∀ v, d = some v → v.natAbs ≤ 32768) :
    EstimatorsOk (fullService c y r d s).1 := by
  have hread (rd : List TapRead) : EstimatorsOk (applyCorrections c rd (writeHistory c r s)) :=
    applyCorrections_estimators c rd (writeHistory_estimators c r h)
  unfold fullService
  dsimp only
  split
  · dsimp only
    exact enterFault_estimators _ _ (modChan_estimators (hread _) fun x hx => faultMeasure_powers hx hr hy)
  · exact conditionedService_estimators _ _ _ (hread _) hy hr hd

theorem serviceByState_estimators {c : Chan} {y r : Int} {d : Option Int} {s t : State} {v w : Int}
    (hs : serviceByState c y r d s = some (t, v, w)) (h : EstimatorsOk s) (hy : y.natAbs ≤ 32768)
    (hr : r.natAbs ≤ 32768) (hd : ∀ v, d = some v → v.natAbs ≤ 32768) : EstimatorsOk t := by
  cases hc : s.chans[c].state with
  | free | releasing => simp [serviceByState, hc, -Fin.getElem_fin] at hs
  | pending | loading =>
    rw [serviceByState_waiting (by simp [hc, -Fin.getElem_fin])] at hs
    cases hs
    exact h
  | fault =>
    rw [serviceByState_fault hc] at hs
    cases hs
    exact modChan_estimators h fun x hx => faultMeasure_powers hx hr hy
  | bound | echoTrain | eqTrain | tracking =>
    rw [serviceByState_conditioned (by simp [Conditioned, hc, -Fin.getElem_fin])] at hs
    obtain rfl : (fullService c y r d s).1 = t := congrArg Prod.fst (Option.some.inj hs)
    exact fullService_estimators c h hy hr hd

/-- The samples that a service presents lie in the range (R8, R9, R12, R46). -/
theorem raiseService_estimators (c : Chan) {s : State} (h : EstimatorsOk s) : EstimatorsOk (raiseService c s) := by
  have hsample (l : Law) (code : Byte) : (decodeLine l code).natAbs ≤ 32768 :=
    Nat.le_trans (decodeLine_natAbs_le l code) (by decide)
  unfold raiseService
  split
  · dsimp only
    split
    · exact h
    · rename_i hs
      have hserved := serviceByState_estimators hs (estimatorsOk_of_chans h rfl) (hsample _ _) (hsample _ _)
        fun v hv => Nat.le_trans (desiredOf_natAbs_le hv) (by decide)
      exact estimatorsOk_of_chans hserved rfl
  · exact h

/-! ### Highways, transfers and expiries -/

theorem searchPulse_chans (g : Highway) (n : Nat) (s : State) : (searchPulse g n s).chans = s.chans := by
  cases hs : (syncOf g s).starting with
  | false =>
    rw [searchPulse_first hs]
    cases g <;> rfl
  | true =>
    by_cases hn : n = nominal g
    · rw [hn, searchPulse_nominal hs]
      split
      · rw [regainSync_posts, postAll_eq]
        cases g <;> rfl
      · cases g <;> rfl
    · rw [searchPulse_offNominal hs hn]
      cases g <;> rfl

theorem loseSync_chans (g : Highway) (cause : Nat) (s : State) : (loseSync g cause s).chans = s.chans := by
  rw [loseSync_posts, postAll_eq]

theorem setSync_chans (g : Highway) (r : SyncRec) (s : State) : (setSync g r s).chans = s.chans := by
  cases g <;> rfl

theorem framePulse_chans (g : Highway) (n : Nat) (s : State) : (framePulse g n s).chans = s.chans := by
  cases hs : (syncOf g s).inSync with
  | false => rw [framePulse_outOfSync hs, searchPulse_chans, pulseSeen, setSync_chans]
  | true =>
    rcases Nat.lt_trichotomy n (nominal g) with hn | rfl | hn
    · rw [framePulse_early hs hn, loseSync_chans, pulseSeen, setSync_chans]
    · rw [framePulse_nominal hs]
      cases g <;> rfl
    · rw [framePulse_late hs hn, searchPulse_chans, loseSync_chans, pulseSeen, setSync_chans]

theorem lineSend_chans (n : Slot) (s : State) : (lineSend n s).chans = s.chans := by
  unfold lineSend
  dsimp only
  split <;> rfl

theorem lineCode_estimators (n : Slot) (code : Byte) {s : State} (h : EstimatorsOk s) :
    EstimatorsOk (lineCode n code s) := by
  unfold lineCode
  split
  · exact h
  · split
    · exact raiseService_estimators _ (estimatorsOk_of_chans h rfl)
    · exact h

theorem modemPair_estimators (c : Chan) (x d : Word) {s : State} (h : EstimatorsOk s) :
    EstimatorsOk (modemPair c x d s) := by
  unfold modemPair
  split
  · exact raiseService_estimators _ (estimatorsOk_of_chans h rfl)
  · exact h

theorem moveLoad_estimators (j : Job) {s : State} (h : EstimatorsOk s) : EstimatorsOk (moveLoad j s) := by
  unfold moveLoad
  dsimp only
  split
  · refine completeBind_estimators _ _ (modChan_estimators (estimatorsOk_of_chans h ?_) fun _ hx => hx)
    split <;> rfl
  · refine estimatorsOk_of_chans h ?_
    split <;> rfl

theorem stopSave_estimators (j : Job) {s : State} (h : EstimatorsOk s) : EstimatorsOk (stopSave j s) := by
  have hcompleted := completeRelease_estimators j.chan .notSaved SaveReason.fault.code (some j.key)
    (s := setHead none s) (estimatorsOk_of_chans h rfl)
  unfold stopSave
  dsimp only
  refine recheck_estimators (enterFree_estimators _ ?_)
  split
  · exact hcompleted
  · exact emptyRecord_estimators _ hcompleted

theorem endSave_estimators (j : Job) (r : Rec) {s : State} (h : EstimatorsOk s) : EstimatorsOk (endSave j r s) :=
  recheck_estimators (enterFree_estimators _ (completeRelease_estimators _ _ _ _ (estimatorsOk_of_chans h rfl)))

theorem moveSave_estimators (j : Job) {s : State} (h : EstimatorsOk s) : EstimatorsOk (moveSave j s) := by
  unfold moveSave
  split
  · have hread := applyCorrections_estimators j.chan (readSegment s.sal ‹Seg›) h
    dsimp only
    split
    · exact stopSave_estimators _ hread
    · split
      · exact endSave_estimators _ _ (estimatorsOk_of_chans hread rfl)
      · exact estimatorsOk_of_chans hread rfl
  · exact h

theorem lineFrameStart_estimators {s : State} (h : EstimatorsOk s) : EstimatorsOk (lineFrameStart s) := by
  have hdue (b : Hwi) : EstimatorsOk (s.setHwi b) := estimatorsOk_of_chans h rfl
  unfold lineFrameStart
  split
  · dsimp only
    split
    · exact hdue _
    · split
      · split
        · exact moveLoad_estimators _ (hdue _)
        · exact moveSave_estimators _ (hdue _)
      · exact hdue _
  · exact h

theorem waitDeadline_estimators {s : State} (h : EstimatorsOk s) : EstimatorsOk (waitDeadline s) := by
  have hexpire (s : State) (e : WaitEntry) (h : EstimatorsOk s) : EstimatorsOk (expireWait s e) :=
    enterFree_estimators _ (completeBind_estimators _ _ (estimatorsOk_of_chans h (by simp)))
  unfold waitDeadline
  split
  · exact h
  · exact recheck_estimators (foldl_estimators hexpire _ h)

/-! ### Start-up and the lanes -/

/-- A boot load installs defaults and profiles (R193). -/
theorem bootLoadEnd_chans (nack : Option (Fin 4)) (image : List Byte) (s : State) :
    (bootLoadEnd nack image s).chans = s.chans := by
  unfold bootLoadEnd
  split
  · split
    · rfl
    · split
      · rfl
      · dsimp only
        split <;> rfl
  · rfl

/-- After power-on and after PART RESET every context is the initial one (R178, R194). -/
theorem estimatorsOk_of_reset {t : State} (ht : t.chans = State.reset.chans) : EstimatorsOk t :=
  estimatorsOk_of_chans reset_estimators ht

theorem sendHead_estimators (rq : Request) (a : Answer) {s : State} (h : EstimatorsOk s) :
    EstimatorsOk (sendHead rq a s) := by
  unfold sendHead
  dsimp only
  split
  · exact estimatorsOk_of_reset rfl
  · exact estimatorsOk_of_chans h rfl

theorem sendResponse_estimators {s : State} (h : EstimatorsOk s) : EstimatorsOk (sendResponse s) := by
  unfold sendResponse
  split
  · exact h
  · split
    · exact sendHead_estimators _ _ h
    · exact h

theorem sendCompletion_chans (s : State) : (sendCompletion s).chans = s.chans := by
  unfold sendCompletion
  split
  · rfl
  · split
    · split <;> rfl
    · rfl

theorem laneGrant_chans (raised : BitVec 4) (s : State) : (laneGrant raised s).chans = s.chans := by
  unfold laneGrant
  split
  · split <;> rfl
  · rfl

theorem receiveWord_chans (data : Word) (parity : Bool) (s : State) : (receiveWord data parity s).chans = s.chans := by
  unfold receiveWord
  split
  · rfl
  · dsimp only
    split <;> rfl

/-! ### Requests (R166, R167) -/

/-- A request command keeps the estimators where its block does. -/
theorem takeRequest_estimators {mine : Request → Bool} {own : Request → State → State × Answer} {s : State}
    (hown : ∀ rq, EstimatorsOk (own rq s).1) (h : EstimatorsOk s) : EstimatorsOk (takeRequest mine own s) :=
  takeRequest_inv EstimatorsOk (fun _ _ hs => estimatorsOk_of_chans hs (by simp)) mine own s
    (fun rq _ _ => hown rq) h

theorem checked_estimators {l : List (Bool × Answer)} {f : State → State × Answer} {s : State}
    (hf : EstimatorsOk (f s).1) (h : EstimatorsOk s) : EstimatorsOk (checked l f s).1 :=
  checked_inv EstimatorsOk l f s (fun _ => hf) h

/-- A request behind a lock step keeps the estimators where it does after that step, which changes no channel. -/
theorem lockedRequest_estimators {early : List (Bool × Answer)} {rq : Request} {obj : LockObj} {oc : Option Answer}
    {mismatch : Lock → Bool} {lock : State → State × Option Answer} {rest : State → State × Answer} {s : State}
    (hlock : lock s = lockStep rq obj oc mismatch s)
    (hrest : ∀ u : State, EstimatorsOk u → EstimatorsOk (rest u).1) (h : EstimatorsOk s) :
    EstimatorsOk (lockedRequest early lock rest s).1 := by
  have hstep : EstimatorsOk (lock s).1 := by
    rw [hlock]
    exact estimatorsOk_of_chans h (by simp)
  exact lockedRequest_inv EstimatorsOk early lock rest s hstep (fun _ _ => hrest _ hstep) h

/-! ### Administration and defaults (R173–R178, R189) -/

theorem attachCtl_chans (k : Ctl) (s : State) : (attachCtl k s).chans = s.chans := by
  unfold attachCtl
  split <;> rfl

theorem detachLock_estimators (k : Ctl) {s : State} (h : EstimatorsOk s) : EstimatorsOk (detachLock k s) := by
  unfold detachLock
  split
  · exact h
  · exact estimatorsOk_of_chans (dropFill_estimators _ (unholdChan_estimators _ h)) rfl

theorem detachChan_estimators (k : Ctl) (s : State) (c : Chan) (h : EstimatorsOk s) :
    EstimatorsOk (detachChan k s c) := by
  unfold detachChan
  split
  · split
    · exact enterFree_estimators _ (estimatorsOk_of_chans h (by simp))
    · exact postAll_estimators _ _ _ (modChan_estimators h fun _ hx => hx)
  · exact h

theorem emptyFifo_dropHoldings_chans (k : Ctl) (s : State) : (emptyFifo k (dropHoldings k s)).chans = s.chans := rfl

theorem detachCtl_estimators (k : Ctl) {s : State} (h : EstimatorsOk s) : EstimatorsOk (detachCtl k s) := by
  have hlock := detachLock_estimators k
    (s := discardDeferred k (s.setCbi { s.cbi with attached := s.cbi.attached.set k false }))
    (estimatorsOk_of_chans h rfl)
  have hchans := foldl_estimators (detachChan_estimators k) (List.finRange 32) hlock
  exact recheck_estimators (estimatorsOk_of_chans hchans (emptyFifo_dropHoldings_chans _ _))

theorem ownDetach_estimators (rq : Request) {s : State} (h : EstimatorsOk s) : EstimatorsOk (ownDetach rq s).1 := by
  refine checked_estimators ?_ h
  split
  · dsimp only
    exact detachCtl_estimators _ h
  · exact h

theorem installPart_estimators (n : Nat) (ws : List Word) {s : State} (h : EstimatorsOk s) :
    EstimatorsOk (installPart n ws s) := by
  unfold installPart
  split
  · exact foldl_estimators (fun _ k hs => expireLock_estimators k hs) _ (estimatorsOk_of_chans h rfl)
  · exact estimatorsOk_of_chans h rfl

/-! ### Calls (R76–R98) -/

theorem makeDeferred_estimators (rq : Request) {s : State} (h : EstimatorsOk s) :
    EstimatorsOk (makeDeferred rq s) := estimatorsOk_of_chans h (by simp)

theorem setRec_estimators (r : Rec) (p : Profile) {s : State} (h : EstimatorsOk s) : EstimatorsOk (s.setRec r p) :=
  estimatorsOk_of_chans h rfl

theorem startTraining_estimators (st : ChanState) (rq : Request) {s : State} (h : EstimatorsOk s) :
    EstimatorsOk (startTraining st rq s).1 :=
  modChan_estimators (completeTraining_estimators _ _ (makeDeferred_estimators rq h)) fun _ hx => hx

theorem trackChan_estimators (c : Chan) {s : State} (h : EstimatorsOk s) : EstimatorsOk (trackChan c s) :=
  modChan_estimators (completeTraining_estimators _ _ h) fun _ hx => hx

theorem setFreeze_estimators (on : Bool) (rq : Request) {s : State} (h : EstimatorsOk s) :
    EstimatorsOk (setFreeze on rq s).1 := modChan_estimators h fun _ hx => hx

/-- RESTART clears the estimators (R93). -/
theorem restartChan_estimators (c : Chan) {s : State} (h : EstimatorsOk s) : EstimatorsOk (restartChan c s) :=
  modChan_estimators (estimatorsOk_of_chans (completeTraining_estimators c .aborted h) rfl)
    fun _ _ => powersOk_zero rfl rfl rfl rfl rfl

theorem setFar_estimators (c : Chan) (far bulk : Nat) {s : State} (h : EstimatorsOk s) :
    EstimatorsOk (setFar c far bulk s) := by
  have hset (m : Sal) (segs : List Seg) (pages : List Page) (w : Nat) (q : Option Params) :
      EstimatorsOk ((s.setSal m).setChan c { s.chans[c] with segs, pages, w, params := q }) :=
    setChan_estimators (estimatorsOk_of_chans h rfl) (h c)
  unfold setFar
  dsimp only
  split
  · exact hset _ _ _ _ _
  · exact recheck_estimators (hset _ _ _ _ _)

theorem adoptChan_estimators (c : Chan) (k : Ctl) {s : State} (h : EstimatorsOk s) : EstimatorsOk (adoptChan c k s) :=
  recheck_estimators (setChan_estimators (estimatorsOk_of_chans h rfl) (h c))

theorem recordBind_estimators (rq : Request) (link : Option Tag) {s : State} (h : EstimatorsOk s) :
    EstimatorsOk (recordBind rq link s) := by
  unfold recordBind
  dsimp only
  split
  · exact modChan_estimators h fun _ hx => hx
  · split
    · exact setRec_estimators _ _ (modChan_estimators h fun _ hx => hx)
    · exact modChan_estimators h fun _ hx => hx

theorem bindRoom_estimators (rq : Request) {s : State} (h : EstimatorsOk s) : EstimatorsOk (bindRoom rq s).1 := by
  have hdeferred := recordBind_estimators rq (some rq.tag) (makeDeferred_estimators rq h)
  unfold bindRoom bindAtOnce
  dsimp only
  split
  · split
    · exact grant_estimators _ _ _ hdeferred
    · exact grant_estimators _ _ _ (recordBind_estimators rq none h)
  · split
    · exact h
    · split
      · exact h
      · exact estimatorsOk_of_chans (modChan_estimators (c := rq.chan) (f := fun x => { x with state := .pending })
          hdeferred fun _ hx => hx) rfl

theorem endOwnLock_estimators (c : Chan) (k : Ctl) {s : State} (h : EstimatorsOk s) :
    EstimatorsOk (endOwnLock c k s) := by
  unfold endOwnLock
  split
  · exact h
  · dsimp only
    split
    all_goals
      split
      · exact endLock_estimators _ h
      · exact h

theorem beginSave_estimators (c : Chan) (r : Rec) {s : State} (h : EstimatorsOk s) :
    EstimatorsOk (beginSave c r s) := by
  unfold beginSave
  dsimp only
  split
  · exact h
  · exact setChan_estimators (estimatorsOk_of_chans h rfl) (h c)

theorem endForRelease_estimators (c : Chan) {s : State} (h : EstimatorsOk s) : EstimatorsOk (endForRelease c s) := by
  unfold endForRelease
  split
  · exact completeBind_estimators _ _ (estimatorsOk_of_chans h rfl)
  · exact completeBind_estimators _ _ (estimatorsOk_of_chans h rfl)
  · exact completeTraining_estimators _ _ h

theorem releaseSaving_estimators (rq : Request) {s : State} (h : EstimatorsOk s) :
    EstimatorsOk (releaseSaving rq s).1 := by
  have hended : EstimatorsOk (emptySlots rq.chan
      ((completeTraining rq.chan .aborted (makeDeferred rq s)).modChan rq.chan fun x =>
        { x with slot := none, bindLink := some rq.tag })) :=
    estimatorsOk_of_chans (modChan_estimators (c := rq.chan)
      (f := fun x => { x with slot := none, bindLink := some rq.tag })
      (completeTraining_estimators rq.chan .aborted (makeDeferred_estimators rq h)) fun _ hx => hx) (by simp)
  unfold releaseSaving
  dsimp only
  split
  · exact beginSave_estimators _ _ hended
  · exact recheck_estimators (enterFree_estimators _ (completeRelease_estimators _ _ _ _ hended))

theorem releaseChan_estimators (rq : Request) {s : State} (h : EstimatorsOk s) : EstimatorsOk (releaseChan rq s).1 := by
  have hlock := endOwnLock_estimators rq.chan rq.ctl h
  unfold releaseChan releaseNow
  dsimp only
  split
  · exact releaseSaving_estimators _ hlock
  · dsimp only
    exact recheck_estimators (enterFree_estimators _ (endForRelease_estimators _ hlock))

/-! ### Profiles, taps and locked sequences (R129–R150) -/

theorem invalidate_estimators (c : Chan) (k : Key) {s : State} (h : EstimatorsOk s) :
    EstimatorsOk (invalidate c k s) := by
  have hunbound := modChan_estimators (c := c) (f := fun x => { x with bound := none, load := none, relation := .none })
    h fun _ hx => hx
  unfold invalidate
  dsimp only
  split
  · exact enterFree_estimators _ (completeRelease_estimators _ _ _ _ (estimatorsOk_of_chans hunbound rfl))
  · exact hunbound

theorem beginFill_estimators (r : Rec) (k : Key) (d : Descriptor) {s : State} (h : EstimatorsOk s) :
    EstimatorsOk (beginFill r k d s) := by
  unfold beginFill
  split
  · exact estimatorsOk_of_chans h rfl
  · have hplaced (c : Chan) : EstimatorsOk (placeFill r k d (invalidate c k s)) :=
      estimatorsOk_of_chans (invalidate_estimators c k h) rfl
    dsimp only
    split
    · exact recheck_estimators (hplaced _)
    · exact hplaced _

theorem storeProfile_estimators (rq : Request) {s : State} (h : EstimatorsOk s) :
    EstimatorsOk (storeProfile rq s).1 := by
  unfold storeProfile
  dsimp only
  split
  · exact h
  · split
    · exact h
    · exact markerEffect_estimators _ _ _ _ (beginFill_estimators _ _ _ h)

theorem storeTaps_estimators (rq : Request) {s : State} (h : EstimatorsOk s) : EstimatorsOk (storeTaps rq s).1 := by
  unfold storeTaps
  split
  · exact h
  · dsimp only
    split
    · exact h
    · split
      · exact markerEffect_estimators _ _ _ _ (setRec_estimators _ _ h)
      · split
        · exact endLock_estimators _ (estimatorsOk_of_chans h rfl)
        · exact endLock_estimators _ (emptyRecord_estimators _ (setRec_estimators _ _ h))

theorem touch_chans (r : Rec) (s : State) : (touch r s).chans = s.chans := by
  unfold touch
  split <;> rfl

theorem readProfile_estimators (rq : Request) {s : State} (h : EstimatorsOk s) :
    EstimatorsOk (readProfile rq s).1 := by
  unfold readProfile
  split
  · exact h
  · exact markerEffect_estimators _ _ _ _ (estimatorsOk_of_chans h (touch_chans _ s))

theorem readLive_estimators (c : Chan) (i : Fin 9) {s : State} (h : EstimatorsOk s) :
    EstimatorsOk (readLive c i s).1 := by
  unfold readLive
  split
  · exact h
  · exact applyCorrections_estimators _ _ h

theorem readProfileTaps_estimators (rq : Request) {s : State} (h : EstimatorsOk s) :
    EstimatorsOk (readProfileTaps rq s).1 := by
  unfold readProfileTaps
  split
  · exact h
  · refine checked_estimators (markerEffect_estimators _ _ _ _ ?_) h
    split
    · exact h
    · exact readLive_estimators _ _ h

theorem dropProfile_estimators (rq : Request) {s : State} (h : EstimatorsOk s) :
    EstimatorsOk (dropProfile rq s).1 := by
  unfold dropProfile
  split
  · exact h
  · exact checked_estimators (emptyRecord_estimators _ h) h

theorem readTaps_estimators (rq : Request) {s : State} (h : EstimatorsOk s) : EstimatorsOk (readTaps rq s).1 := by
  refine checked_estimators (markerEffect_estimators _ _ _ _ ?_) h
  split
  · exact h
  · have hread := applyCorrections_estimators rq.chan (readSegment s.sal ‹Seg›) h
    unfold readChunk
    dsimp only
    split
    · exact hread
    · split
      · exact enterFault_estimators _ _ hread
      · exact hread

theorem writeTaps_estimators (rq : Request) {s : State} (h : EstimatorsOk s) : EstimatorsOk (writeTaps rq s).1 := by
  refine checked_estimators (markerEffect_estimators _ _ _ _ ?_) h
  split
  · exact h
  · exact estimatorsOk_of_chans h rfl

/-! ### Every command -/

/-- A request that changes no channel by its block. -/
theorem takeRequest_estimators_of_chans {mine : Request → Bool} {own : Request → State → State × Answer} {s : State}
    (hown : ∀ rq, (own rq s).1.chans = s.chans) (h : EstimatorsOk s) : EstimatorsOk (takeRequest mine own s) :=
  takeRequest_estimators (fun rq => estimatorsOk_of_chans h (hown rq)) h

theorem checked_chans {l : List (Bool × Answer)} {f : State → State × Answer} {s : State}
    (hf : (f s).1.chans = s.chans) : (checked l f s).1.chans = s.chans :=
  checked_inv (fun t => t.chans = s.chans) l f s (fun _ => hf) rfl

/-- Every command has a next state, and it keeps the estimators in their range (R56). -/
theorem exec_estimators (i : Instr) {s : State} (h : EstimatorsOk s) :
    ∃ t, exec i s = .next t ∧ EstimatorsOk t := by
  cases i with
  | powerOn => exact ⟨_, rfl, estimatorsOk_of_reset rfl⟩
  | resetAsserted => exact ⟨_, rfl, estimatorsOk_of_chans h rfl⟩
  | timebaseTick => exact ⟨_, rfl, estimatorsOk_of_chans h (by split <;> rfl)⟩
  | bootLoadEnd nack image => exact ⟨_, rfl, estimatorsOk_of_chans h (bootLoadEnd_chans _ _ _)⟩
  | frameSyncPulse g n => exact ⟨_, rfl, estimatorsOk_of_chans h (framePulse_chans _ _ _)⟩
  | missingSync g =>
    refine ⟨_, exec_missingSync g s, ?_⟩
    split
    · exact estimatorsOk_of_chans h (loseSync_chans _ _ _)
    · exact h
  | clockStopped g =>
    refine ⟨_, exec_clockStopped g s, ?_⟩
    split
    · exact estimatorsOk_of_chans h (loseSync_chans _ _ _)
    · exact h
  | syncSearchTimeout g =>
    refine ⟨_, exec_syncSearchTimeout g s, ?_⟩
    split
    · exact estimatorsOk_of_chans h (setSync_chans _ _ _)
    · exact h
  | lineCodeArrives n code => exact ⟨_, rfl, lineCode_estimators _ _ h⟩
  | modemPairArrives c x d => exact ⟨_, rfl, modemPair_estimators _ _ _ h⟩
  | lineOutputSend n => exact ⟨_, rfl, estimatorsOk_of_chans h (lineSend_chans _ _)⟩
  | modemOutputSend c => exact ⟨_, rfl, estimatorsOk_of_chans h rfl⟩
  | lineFrameStart => exact ⟨_, rfl, lineFrameStart_estimators h⟩
  | waitDeadline => exact ⟨_, rfl, waitDeadline_estimators h⟩
  | lockExpiry k => exact ⟨_, rfl, expireLock_estimators k h⟩
  | eventHoldReached k => exact ⟨_, rfl, estimatorsOk_of_chans h (by split <;> rfl)⟩
  | requestLaneGrant raised => exact ⟨_, rfl, estimatorsOk_of_chans h (laneGrant_chans _ _)⟩
  | requestWordStrobe data parity => exact ⟨_, rfl, estimatorsOk_of_chans h (receiveWord_chans _ _ _)⟩
  | recordAbandoned =>
    refine ⟨_, rfl, estimatorsOk_of_chans h ?_⟩
    split
    · rfl
    · split <;> rfl
  | sendResponse => exact ⟨_, rfl, sendResponse_estimators h⟩
  | sendCompletion => exact ⟨_, rfl, estimatorsOk_of_chans h (sendCompletion_chans _)⟩
  | partResetEffect =>
    refine ⟨_, rfl, ?_⟩
    split
    · exact h
    · split
      · exact sendHead_estimators _ _ h
      · exact h
  | parityFailedRequest =>
    refine ⟨_, rfl, estimatorsOk_of_chans h ?_⟩
    split
    · rfl
    · split
      · rfl
      · split <;> rfl
  | unknownRequestKind => exact ⟨_, rfl, takeRequest_estimators_of_chans (fun _ => rfl) h⟩
  | attach => exact ⟨_, rfl, takeRequest_estimators_of_chans (fun _ => checked_chans (attachCtl_chans _ _)) h⟩
  | detach => exact ⟨_, rfl, takeRequest_estimators (fun rq => ownDetach_estimators rq h) h⟩
  | openService => exact ⟨_, rfl, takeRequest_estimators_of_chans (fun _ => checked_chans rfl) h⟩
  | closeService => exact ⟨_, rfl, takeRequest_estimators_of_chans (fun _ => checked_chans rfl) h⟩
  | queryPart => exact ⟨_, rfl, takeRequest_estimators_of_chans (fun _ => checked_chans rfl) h⟩
  | partReset => exact ⟨_, rfl, takeRequest_estimators_of_chans (fun _ => checked_chans rfl) h⟩
  | setDefaults =>
    exact ⟨_, rfl, takeRequest_estimators (fun _ => checked_estimators (installPart_estimators _ _ h) h) h⟩
  | readDefaults => exact ⟨_, rfl, takeRequest_estimators_of_chans (fun _ => checked_chans rfl) h⟩
  | bind => exact ⟨_, rfl, takeRequest_estimators (fun rq => checked_estimators (bindRoom_estimators rq h) h) h⟩
  | release => exact ⟨_, rfl, takeRequest_estimators (fun rq => checked_estimators (releaseChan_estimators rq h) h) h⟩
  | trainEcho =>
    exact ⟨_, rfl, takeRequest_estimators (fun rq => checked_estimators (startTraining_estimators _ rq h) h) h⟩
  | trainEqualizer =>
    exact ⟨_, rfl, takeRequest_estimators (fun rq => checked_estimators (startTraining_estimators _ rq h) h) h⟩
  | track =>
    refine ⟨_, rfl, takeRequest_estimators (fun rq => checked_estimators ?_ h) h⟩
    dsimp only
    split
    · exact h
    · exact trackChan_estimators _ h
  | freeze => exact ⟨_, rfl, takeRequest_estimators (fun rq => checked_estimators (setFreeze_estimators _ rq h) h) h⟩
  | thaw => exact ⟨_, rfl, takeRequest_estimators (fun rq => checked_estimators (setFreeze_estimators _ rq h) h) h⟩
  | restart => exact ⟨_, rfl, takeRequest_estimators (fun _ => checked_estimators (restartChan_estimators _ h) h) h⟩
  | setFarWindow => exact ⟨_, rfl, takeRequest_estimators (fun _ => checked_estimators (setFar_estimators _ _ _ h) h) h⟩
  | adopt =>
    refine ⟨_, rfl, takeRequest_estimators (fun rq => checked_estimators ?_ h) h⟩
    dsimp only
    split
    · exact h
    · exact adoptChan_estimators _ _ h
  | queryChannel => exact ⟨_, rfl, takeRequest_estimators_of_chans (fun _ => checked_chans rfl) h⟩
  | queryStore => exact ⟨_, rfl, takeRequest_estimators_of_chans (fun _ => checked_chans rfl) h⟩
  | storeProfile =>
    exact ⟨_, rfl, takeRequest_estimators
      (fun rq => lockedRequest_estimators rfl (fun _ hu => storeProfile_estimators rq hu) h) h⟩
  | storeProfileTaps =>
    exact ⟨_, rfl, takeRequest_estimators
      (fun rq => lockedRequest_estimators rfl (fun _ hu => storeTaps_estimators rq hu) h) h⟩
  | readProfile =>
    exact ⟨_, rfl, takeRequest_estimators
      (fun rq => lockedRequest_estimators rfl (fun _ hu => readProfile_estimators rq hu) h) h⟩
  | readProfileTaps =>
    exact ⟨_, rfl, takeRequest_estimators
      (fun rq => lockedRequest_estimators rfl (fun _ hu => readProfileTaps_estimators rq hu) h) h⟩
  | dropProfile =>
    exact ⟨_, rfl, takeRequest_estimators (fun rq => checked_estimators (dropProfile_estimators rq h) h) h⟩
  | listProfiles => exact ⟨_, rfl, takeRequest_estimators_of_chans (fun _ => checked_chans rfl) h⟩
  | readTaps =>
    exact ⟨_, rfl, takeRequest_estimators
      (fun rq => lockedRequest_estimators rfl (fun _ hu => readTaps_estimators rq hu) h) h⟩
  | writeTaps =>
    exact ⟨_, rfl, takeRequest_estimators
      (fun rq => lockedRequest_estimators rfl (fun _ hu => writeTaps_estimators rq hu) h) h⟩
  | fetchEvents => exact ⟨_, rfl, takeRequest_estimators_of_chans (fun _ => checked_chans rfl) h⟩
  | setEventTrigger => exact ⟨_, rfl, takeRequest_estimators_of_chans (fun _ => checked_chans rfl) h⟩

/-- A step is the front command's, or none (log entry 2). -/
theorem step_estimators {s t : State} (h : EstimatorsOk s) (ht : step s = .next t) : EstimatorsOk t := by
  unfold step at ht
  split at ht
  · cases ht
    exact h
  · next i rest _ =>
    obtain ⟨u, hu, hok⟩ := exec_estimators i (s := { s with pending := rest }) (estimatorsOk_of_chans h rfl)
    rw [hu] at ht
    cases ht
    exact hok

end Sys2Proof.Machine

open Sys2Proof Sys2Proof.Machine

/-- Settles O28: every step keeps the range, since a full estimator loses at least what a sample adds; silence takes an
estimator down to 127 or leaves it, whose log value lies below the gate. -/
theorem estimatorsStayWithinTheirRange : Obligations.EstimatorsStayWithinTheirRange := by
  refine ⟨leak_eq, sat_eq, fun s t => step_estimators, fun p v => leak_le, fun p v => leak_lt,
    ⟨by decide, fun p q => loss_mono⟩, fun v => gain_le, decodeLine_natAbs_le, sat_natAbs_le,
    fun d v => desiredOf_natAbs_le, rfl, leak_zero, fun p => leak_zero_small, fun p hp => ?_, fun p hp => ?_, by decide⟩
  · obtain ⟨n, hn⟩ := exists_silence_reaches p (by omega)
    exact ⟨n, hn, silence_stays hn⟩
  · have h127 : logValue 127 = 56 := logValue_eq (b := 7) (by decide) (by decide)
    rw [← h127]
    exact logValue_mono hp
end

section
/-! Calls, timeslots and store items: what their laws read of a state, and a channel lifted out of them, changed and set
down again (R73, R74, R100, R102, R108, R111, R131, R176). -/

namespace Sys2Proof.Machine

/-! ### What the laws read -/

/-- What the laws of calls, timeslots and store items read of a channel. -/
structure CallPart where
  state : ChanState
  owner : Option Ctl
  slot  : Option Slot
  segs  : List Seg
  pages : List Page

def Context.callPart (x : Context) : CallPart :=
  { state := x.state, owner := x.owner, slot := x.slot, segs := x.segs, pages := x.pages }

/-- What those laws read of a state. -/
structure CallView where
  parts     : Chan → CallPart
  freeSegs  : List Seg
  freePages : List Page
  heldSeg   : Vector Nat 4
  heldPage  : Vector Nat 4
  waitQ     : List WaitEntry
  jobs      : List Job
  gateOpen  : Bool

def callView (s : State) : CallView :=
  { parts := fun c => s.chans[c].callPart, freeSegs := s.sal.freeSegs, freePages := s.sal.freePages
    heldSeg := s.sal.heldSeg, heldPage := s.sal.heldPage, waitQ := s.sal.waitQ, jobs := s.jobs
    gateOpen := s.btl.gateOpen }

/-- The same channels, units, jobs and gate give the same view. -/
theorem callView_of_blocks {s t : State} (hc : t.chans = s.chans) (hs : t.sal = s.sal) (hj : t.jobs = s.jobs)
    (hb : t.btl = s.btl) : callView t = callView s := by
  simp only [callView, hc, hs, hj, hb]

/-- A change of a channel beside what the laws read. -/
theorem callView_setChan {s : State} {c : Chan} {x : Context} (h : x.callPart = s.chans[c].callPart) :
    callView (s.setChan c x) = callView s := by
  have hparts (d : Chan) : (s.chans.set c x)[d].callPart = s.chans[d].callPart := by
    rw [getElem_set_fin]
    split
    · next e => rw [h, e]
    · rfl
  simp only [callView, State.setChan, hparts]

theorem callView_modChan {s : State} {c : Chan} {f : Context → Context} (h : ∀ x, (f x).callPart = x.callPart) :
    callView (s.modChan c f) = callView s := callView_setChan (h _)

/-! ### The laws -/

/-- Every unit is free or on one list, once, and the free sets ascend (R100, R102). -/
structure UnitsOk (s : State) : Prop where
  segs : (s.sal.freeSegs ++ s.chans.toList.flatMap Context.segs).Perm (List.finRange 256)
  pages : (s.sal.freePages ++ s.chans.toList.flatMap Context.pages).Perm (List.finRange 256)
  segsRise : s.sal.freeSegs.Pairwise (· < ·)
  pagesRise : s.sal.freePages.Pairwise (· < ·)

/-- The holdings of the controllers of `p` count the units of their channels (R108). -/
def HeldOk (p : Ctl → Prop) (s : State) : Prop :=
  ∀ k, p k → s.sal.heldSeg[k] = ownedSegs k s ∧ s.sal.heldPage[k] = ownedPages k s

/-- Calls, timeslots and store items agree; the holdings, for the controllers of `p`. -/
structure Agree (p : Ctl → Prop) (s : State) : Prop where
  calls : CallsOk s
  slots : SlotsOk s
  units : UnitsOk s
  empty : ∀ c : Chan, s.chans[c].state = .free ∨ s.chans[c].state = .pending →
    s.chans[c].segs = [] ∧ s.chans[c].pages = []
  held : HeldOk p s

/-- They agree but for the state and the timeslot of channel c, which stands in no queue. -/
structure AgreeBut (p : Ctl → Prop) (c : Chan) (s : State) : Prop where
  waits : (s.sal.waitQ.map WaitEntry.chan).Nodup
  waitState : ∀ e ∈ s.sal.waitQ, e.chan ≠ c ∧ s.chans[e.chan].state = .pending
  jobs : (s.jobs.map Job.chan).Nodup
  jobStates : ∀ j ∈ s.jobs, j.chan ≠ c ∧ s.chans[j.chan].state = jobState j.kind
  gate : s.btl.gateOpen = false → ∀ d, d ≠ c → s.chans[d].state = .free
  mapped : ∀ d, d ≠ c → s.chans[d].slot.isSome = mappedState s.chans[d].state
  apart : ∀ d d', d ≠ c → d' ≠ c → s.chans[d].slot.isSome = true → s.chans[d].slot = s.chans[d'].slot → d = d'
  units : UnitsOk s
  empty : ∀ d, d ≠ c → s.chans[d].state = .free ∨ s.chans[d].state = .pending →
    s.chans[d].segs = [] ∧ s.chans[d].pages = []
  held : HeldOk p s

theorem agree_iff (s : State) : Agree (fun _ => True) s ↔ CallsOk s ∧ SlotsOk s ∧ StoreOk s :=
  ⟨fun ⟨hcalls, hslots, ⟨hsegs, hpages, hsr, hpr⟩, hempty, hheld⟩ => ⟨hcalls, hslots, ⟨hsegs, hpages, hsr, hpr, hempty,
      fun k => (hheld k trivial).1, fun k => (hheld k trivial).2⟩⟩,
    fun ⟨hcalls, hslots, hsegs, hpages, hsr, hpr, hempty, hheldSeg, hheldPage⟩ =>
      ⟨hcalls, hslots, ⟨hsegs, hpages, hsr, hpr⟩, hempty, fun k _ => ⟨hheldSeg k, hheldPage k⟩⟩⟩

/-! ### The lists of one channel among those of all (R100, R108) -/

/-- The channels as a list, with one of them told apart. -/
theorem chans_split (v : Vector Context 32) (c : Chan) : ∃ pre post, v.toList = pre ++ v[c] :: post ∧
    ∀ x, (v.set c x).toList = pre ++ x :: post := by
  have hc : c.val < v.toList.length := by simp
  refine ⟨v.toList.take c.val, v.toList.drop (c.val + 1), ?_, fun x => ?_⟩
  · have hget : v.toList[c.val] = v[c] := by simp
    rw [← hget, List.getElem_cons_drop, List.take_append_drop]
  · rw [Vector.toList_set, List.set_eq_take_append_cons_drop, if_pos hc]

/-- A reading of lists from a channel, among the same reading of all channels. -/
theorem flatMap_perm_set {α : Type} (f : Context → List α) (v : Vector Context 32) (c : Chan) (x : Context)
    {free free' : List α} (h : (free' ++ f x).Perm (free ++ f v[c])) :
    (free' ++ (v.set c x).toList.flatMap f).Perm (free ++ v.toList.flatMap f) := by
  classical
  obtain ⟨pre, post, hv, hset⟩ := chans_split v c
  rw [hv, hset]
  refine List.perm_iff_count.2 fun a => ?_
  have hcount := h.count_eq a
  simp only [List.count_append, List.flatMap_append, List.flatMap_cons] at hcount ⊢
  omega

/-- What controller k holds by one channel. -/
def share {α : Type} (f : Context → List α) (k : Ctl) (x : Context) : Nat :=
  if x.owner = some k then (f x).length else 0

theorem owned_eq_sum {α : Type} (f : Context → List α) (k : Ctl) (l : List Context) :
    ((l.filter fun x => x.owner == some k).map fun x => (f x).length).sum = (l.map (share f k)).sum := by
  induction l with
  | nil => rfl
  | cons x l ih =>
    rw [List.map_cons, List.sum_cons, ← ih, List.filter_cons, share]
    by_cases h : x.owner = some k
    · simp [h]
    · simp [h]

theorem owned_set {α : Type} (f : Context → List α) (k : Ctl) (v : Vector Context 32) (c : Chan) (x : Context) :
    (((v.set c x).toList.filter fun x => x.owner == some k).map fun x => (f x).length).sum + share f k v[c] =
      ((v.toList.filter fun x => x.owner == some k).map fun x => (f x).length).sum + share f k x := by
  obtain ⟨pre, post, hv, hset⟩ := chans_split v c
  rw [owned_eq_sum, owned_eq_sum, hv, hset]
  simp only [List.map_append, List.map_cons, List.sum_append, List.sum_cons]
  omega

/-- The units on a channel's list are distinct, and none of them is free (R100). -/
theorem units_nodup {f : Context → List (Fin 256)} {free : List (Fin 256)} {v : Vector Context 32} (c : Chan)
    (h : (free ++ v.toList.flatMap f).Perm (List.finRange 256)) : (f v[c] ++ free).Nodup := by
  obtain ⟨pre, post, hv, -⟩ := chans_split v c
  have hn := h.nodup_iff.2 (List.nodup_finRange 256)
  rw [hv] at hn
  rw [List.perm_append_comm.nodup_iff]
  refine hn.sublist ((List.Sublist.refl _).append ?_)
  rw [List.flatMap_append, List.flatMap_cons]
  exact (List.sublist_append_left _ _).trans (List.sublist_append_right _ _)

/-! ### The laws and the view -/

theorem forall_chans_of_view {s t : State} (h : callView t = callView s) (d : Chan) :
    t.chans[d].state = s.chans[d].state ∧ t.chans[d].owner = s.chans[d].owner ∧ t.chans[d].slot = s.chans[d].slot ∧
      t.chans[d].segs = s.chans[d].segs ∧ t.chans[d].pages = s.chans[d].pages := by
  have hd : t.chans[d].callPart = s.chans[d].callPart := congrFun (congrArg CallView.parts h) d
  simpa only [Context.callPart, CallPart.mk.injEq] using hd

theorem chans_map_of_view {s t : State} (h : callView t = callView s) :
    t.chans.toList.map Context.callPart = s.chans.toList.map Context.callPart := by
  refine List.ext_getElem (by simp) fun i hi _ => ?_
  have hd : t.chans[(⟨i, by simpa using hi⟩ : Chan)].callPart = s.chans[(⟨i, by simpa using hi⟩ : Chan)].callPart :=
    congrFun (congrArg CallView.parts h) _
  simpa using hd

theorem unitsOk_of_view {s t : State} (h : callView t = callView s) (hs : UnitsOk s) : UnitsOk t := by
  have hmap := chans_map_of_view h
  have hread {α : Type} (f : CallPart → List α) :
      t.chans.toList.flatMap (fun x => f x.callPart) = s.chans.toList.flatMap fun x => f x.callPart := by
    simpa only [List.flatMap_map] using congrArg (List.flatMap f) hmap
  have hsegs := hread CallPart.segs
  have hpages := hread CallPart.pages
  obtain ⟨a, b, c, d⟩ := hs
  refine ⟨?_, ?_, ?_, ?_⟩
  · rw [show t.sal.freeSegs = s.sal.freeSegs from congrArg CallView.freeSegs h]
    exact hsegs ▸ a
  · rw [show t.sal.freePages = s.sal.freePages from congrArg CallView.freePages h]
    exact hpages ▸ b
  · rw [show t.sal.freeSegs = s.sal.freeSegs from congrArg CallView.freeSegs h]
    exact c
  · rw [show t.sal.freePages = s.sal.freePages from congrArg CallView.freePages h]
    exact d

theorem heldOk_of_view {p : Ctl → Prop} {s t : State} (h : callView t = callView s) (hs : HeldOk p s) :
    HeldOk p t := by
  have hmap := chans_map_of_view h
  have hread (g : CallPart → Nat) : (t.chans.toList.map fun x => g x.callPart).sum =
      (s.chans.toList.map fun x => g x.callPart).sum := by
    simpa only [List.map_map, Function.comp_def] using congrArg (fun l => (l.map g).sum) hmap
  intro k hk
  have hsegs := hread fun y => if y.owner = some k then y.segs.length else 0
  have hpages := hread fun y => if y.owner = some k then y.pages.length else 0
  obtain ⟨a, b⟩ := hs k hk
  rw [ownedSegs, owned_eq_sum] at a ⊢
  rw [ownedPages, owned_eq_sum] at b ⊢
  exact ⟨(congrArg (fun w => w.heldSeg[k]) h).trans (a.trans hsegs.symm),
    (congrArg (fun w => w.heldPage[k]) h).trans (b.trans hpages.symm)⟩

/-- The laws read a state through its view. -/
theorem Agree.congr {p : Ctl → Prop} {s t : State} (hs : Agree p s) (h : callView t = callView s) : Agree p t := by
  have hd := forall_chans_of_view h
  have hw : t.sal.waitQ = s.sal.waitQ := congrArg CallView.waitQ h
  have hj : t.jobs = s.jobs := congrArg CallView.jobs h
  have hg : t.btl.gateOpen = s.btl.gateOpen := congrArg CallView.gateOpen h
  obtain ⟨⟨waits, waitState, jobs, jobStates, gate⟩, ⟨mapped, apart⟩, units, empty, held⟩ := hs
  refine ⟨⟨hw ▸ waits, ?_, hj ▸ jobs, ?_, ?_⟩, ⟨?_, ?_⟩, unitsOk_of_view h units, ?_, heldOk_of_view h held⟩
  · rw [hw]
    exact fun e he => (hd _).1.trans (waitState e he)
  · rw [hj]
    exact fun j h => (hd _).1.trans (jobStates j h)
  · rw [hg]
    exact fun h c => (hd c).1.trans (gate h c)
  · intro c
    rw [(hd c).1, (hd c).2.2.1]
    exact mapped c
  · intro c c'
    rw [(hd c).2.2.1, (hd c').2.2.1]
    exact apart c c'
  · intro c
    rw [(hd c).1, (hd c).2.2.2.1, (hd c).2.2.2.2]
    exact empty c

theorem AgreeBut.congr {p : Ctl → Prop} {c : Chan} {s t : State} (hs : AgreeBut p c s)
    (h : callView t = callView s) : AgreeBut p c t := by
  have hd := forall_chans_of_view h
  have hw : t.sal.waitQ = s.sal.waitQ := congrArg CallView.waitQ h
  have hj : t.jobs = s.jobs := congrArg CallView.jobs h
  have hg : t.btl.gateOpen = s.btl.gateOpen := congrArg CallView.gateOpen h
  obtain ⟨waits, waitState, jobs, jobStates, gate, mapped, apart, units, empty, held⟩ := hs
  refine ⟨hw ▸ waits, ?_, hj ▸ jobs, ?_, ?_, ?_, ?_, unitsOk_of_view h units, ?_, heldOk_of_view h held⟩
  · rw [hw]
    exact fun e he => ⟨(waitState e he).1, (hd _).1.trans (waitState e he).2⟩
  · rw [hj]
    exact fun j h => ⟨(jobStates j h).1, (hd _).1.trans (jobStates j h).2⟩
  · rw [hg]
    exact fun h d hne => (hd d).1.trans (gate h d hne)
  · intro d
    rw [(hd d).1, (hd d).2.2.1]
    exact mapped d
  · intro d d'
    rw [(hd d).2.2.1, (hd d').2.2.1]
    exact apart d d'
  · intro d
    rw [(hd d).1, (hd d).2.2.2.1, (hd d).2.2.2.2]
    exact empty d

/-! ### Lifting a channel out, changing it, and setting it down -/

variable {p : Ctl → Prop} {c : Chan} {s : State}

/-- A channel that stands in no queue can be lifted out. -/
theorem Agree.lift (h : Agree p s) (hw : ∀ e ∈ s.sal.waitQ, e.chan ≠ c) (hj : ∀ j ∈ s.jobs, j.chan ≠ c) :
    AgreeBut p c s where
  waits := h.calls.waits
  waitState e he := ⟨hw e he, h.calls.waitState e he⟩
  jobs := h.calls.jobs
  jobStates j hm := ⟨hj j hm, h.calls.jobStates j hm⟩
  gate hg d _ := h.calls.gate hg d
  mapped d _ := h.slots.1 d
  apart d d' _ _ := h.slots.2 d d'
  units := h.units
  empty d _ := h.empty d
  held := h.held

/-- A channel is set down: its timeslot suits its state and is its own, and it has units only where its state has. -/
theorem AgreeBut.land (h : AgreeBut p c s) (hgate : s.btl.gateOpen = false → s.chans[c].state = .free)
    (hmapped : s.chans[c].slot.isSome = mappedState s.chans[c].state)
    (hown : s.chans[c].slot.isSome = true → ∀ d, d ≠ c → s.chans[d].slot ≠ s.chans[c].slot)
    (hempty : s.chans[c].state = .free ∨ s.chans[c].state = .pending → s.chans[c].segs = [] ∧ s.chans[c].pages = []) :
    Agree p s where
  calls :=
    { waits := h.waits
      waitState := fun e he => (h.waitState e he).2
      jobs := h.jobs
      jobStates := fun j hj => (h.jobStates j hj).2
      gate := fun hg d => by
        by_cases hd : d = c
        · exact hd ▸ hgate hg
        · exact h.gate hg d hd }
  slots := by
    refine ⟨fun d => ?_, fun d d' hsome he => ?_⟩
    · by_cases hd : d = c
      · exact hd ▸ hmapped
      · exact h.mapped d hd
    · by_cases hd : d = c <;> by_cases hd' : d' = c
      · rw [hd, hd']
      · subst hd
        exact absurd he.symm (hown hsome d' hd')
      · subst hd'
        exact absurd he (hown (he ▸ hsome) d hd)
      · exact h.apart d d' hd hd' hsome he
  units := h.units
  empty d hd := by
    by_cases he : d = c
    · subst he
      exact hempty hd
    · exact h.empty d he hd
  held := h.held

/-- The units and the holdings after a change of one channel's lists: what leaves them is free, what is free comes to
them, and the holdings follow (R100, R108). -/
structure Exchanged (p : Ctl → Prop) (c : Chan) (x : Context) (s t : State) : Prop where
  chans : t.chans = s.chans.set c x
  segs : (t.sal.freeSegs ++ x.segs).Perm (s.sal.freeSegs ++ s.chans[c].segs)
  pages : (t.sal.freePages ++ x.pages).Perm (s.sal.freePages ++ s.chans[c].pages)
  segsRise : t.sal.freeSegs.Pairwise (· < ·)
  pagesRise : t.sal.freePages.Pairwise (· < ·)
  held : ∀ k, p k →
    t.sal.heldSeg[k] + share Context.segs k s.chans[c] = s.sal.heldSeg[k] + share Context.segs k x ∧
      t.sal.heldPage[k] + share Context.pages k s.chans[c] = s.sal.heldPage[k] + share Context.pages k x
  waitQ : t.sal.waitQ = s.sal.waitQ
  jobs : t.jobs = s.jobs
  gateOpen : t.btl.gateOpen = s.btl.gateOpen

theorem Exchanged.unitsOk {t : State} {x : Context} (h : Exchanged p c x s t) (hs : UnitsOk s) : UnitsOk t where
  segs := by
    rw [h.chans]
    exact (flatMap_perm_set _ _ _ _ h.segs).trans hs.segs
  pages := by
    rw [h.chans]
    exact (flatMap_perm_set _ _ _ _ h.pages).trans hs.pages
  segsRise := h.segsRise
  pagesRise := h.pagesRise

theorem Exchanged.heldOk {t : State} {x : Context} (h : Exchanged p c x s t) (hs : HeldOk p s) : HeldOk p t := by
  intro k hk
  obtain ⟨hseg, hpage⟩ := h.held k hk
  obtain ⟨hseg0, hpage0⟩ := hs k hk
  have hseg1 := owned_set Context.segs k s.chans c x
  have hpage1 := owned_set Context.pages k s.chans c x
  rw [ownedSegs] at hseg0
  rw [ownedPages] at hpage0
  rw [ownedSegs, ownedPages, h.chans]
  omega

/-- A lifted channel changes, and the units with it. -/
theorem AgreeBut.exchange {t : State} {x : Context} (h : AgreeBut p c s) (he : Exchanged p c x s t) :
    AgreeBut p c t := by
  have hother (d : Chan) (hd : d ≠ c) : t.chans[d] = s.chans[d] := by
    rw [he.chans, getElem_set_other _ _ _ _ (Ne.symm hd)]
  obtain ⟨waits, waitState, jobs, jobStates, gate, mapped, apart, units, empty, held⟩ := h
  refine ⟨he.waitQ ▸ waits, ?_, he.jobs ▸ jobs, ?_, ?_, ?_, ?_, he.unitsOk units, ?_, he.heldOk held⟩
  · rw [he.waitQ]
    exact fun e he => ⟨(waitState e he).1, by rw [hother _ (waitState e he).1]; exact (waitState e he).2⟩
  · rw [he.jobs]
    exact fun j h => ⟨(jobStates j h).1, by rw [hother _ (jobStates j h).1]; exact (jobStates j h).2⟩
  · rw [he.gateOpen]
    exact fun h d hd => by rw [hother d hd]; exact gate h d hd
  · exact fun d hd => by rw [hother d hd]; exact mapped d hd
  · exact fun d d' hd hd' => by rw [hother d hd, hother d' hd']; exact apart d d' hd hd'
  · exact fun d hd => by rw [hother d hd]; exact empty d hd

/-- A channel that keeps its state and its timeslot changes, and the units with it. -/
theorem Agree.exchange {t : State} {x : Context} (h : Agree p s) (he : Exchanged p c x s t)
    (hstate : x.state = s.chans[c].state) (hslot : x.slot = s.chans[c].slot)
    (hempty : x.state = .free ∨ x.state = .pending → x.segs = [] ∧ x.pages = []) : Agree p t := by
  have hkept (d : Chan) : t.chans[d].state = s.chans[d].state ∧ t.chans[d].slot = s.chans[d].slot := by
    rw [he.chans, getElem_set_fin]
    split
    · next hd => exact hd ▸ ⟨hstate, hslot⟩
    · exact ⟨rfl, rfl⟩
  obtain ⟨⟨waits, waitState, jobs, jobStates, gate⟩, ⟨mapped, apart⟩, units, empty, held⟩ := h
  refine ⟨⟨he.waitQ ▸ waits, ?_, he.jobs ▸ jobs, ?_, ?_⟩, ⟨?_, ?_⟩, he.unitsOk units, ?_, he.heldOk held⟩
  · rw [he.waitQ]
    exact fun e h => (hkept _).1.trans (waitState e h)
  · rw [he.jobs]
    exact fun j h => (hkept _).1.trans (jobStates j h)
  · rw [he.gateOpen]
    exact fun h d => (hkept d).1.trans (gate h d)
  · exact fun d => by rw [(hkept d).1, (hkept d).2]; exact mapped d
  · exact fun d d' => by rw [(hkept d).2, (hkept d').2]; exact apart d d'
  · intro d hd
    rw [he.chans, getElem_set_fin] at hd ⊢
    split at hd
    · next hc =>
      rw [if_pos hc]
      exact hempty hd
    · next hc =>
      rw [if_neg hc]
      exact empty d hd

/-- The state and the timeslot of a lifted channel are free to change. -/
theorem AgreeBut.setChan {x : Context} (h : AgreeBut p c s) (ho : x.owner = s.chans[c].owner)
    (hs : x.segs = s.chans[c].segs) (hp : x.pages = s.chans[c].pages) : AgreeBut p c (s.setChan c x) :=
  h.exchange ⟨rfl, by rw [hs]; rfl, by rw [hp]; rfl, h.units.segsRise, h.units.pagesRise,
    fun k _ => by simp only [share, ho, hs, hp, State.setChan_sal, and_self], rfl, rfl, rfl⟩

theorem AgreeBut.modChan {f : Context → Context} (h : AgreeBut p c s) (ho : ∀ x, (f x).owner = x.owner)
    (hs : ∀ x, (f x).segs = x.segs) (hp : ∀ x, (f x).pages = x.pages) : AgreeBut p c (s.modChan c f) :=
  h.setChan (ho _) (hs _) (hp _)

/-- A channel without units may change its owner too. -/
theorem AgreeBut.setChan_empty {x : Context} (h : AgreeBut p c s) (hs : s.chans[c].segs = [])
    (hp : s.chans[c].pages = []) (hxs : x.segs = []) (hxp : x.pages = []) : AgreeBut p c (s.setChan c x) :=
  h.exchange ⟨rfl, by rw [hs, hxs]; rfl, by rw [hp, hxp]; rfl, h.units.segsRise, h.units.pagesRise,
    fun k _ => by simp [share, hs, hp, hxs, hxp, -Fin.getElem_fin], rfl, rfl, rfl⟩

end Sys2Proof.Machine
end

section
/-! The shared operations and the laws of calls, timeslots and store items: completions, queues, entry to FREE, grants,
re-checks, faults and services (R72, R82, R83, R95, R111–R117, R131). -/

namespace Sys2Proof.Machine

/-! ### Operations beside the calls -/

/-- Two states with the same channels, stores, profiles, jobs, locks and timebase. -/
structure SameCore (s t : State) : Prop where
  chans : t.chans = s.chans
  sal : t.sal = s.sal
  pfs : t.pfs = s.pfs
  jobs : t.jobs = s.jobs
  locks : t.locks = s.locks
  btl : t.btl = s.btl

theorem SameCore.refl (s : State) : SameCore s s := ⟨rfl, rfl, rfl, rfl, rfl, rfl⟩

theorem SameCore.trans {s t u : State} (h : SameCore s t) (h' : SameCore t u) : SameCore s u :=
  ⟨h'.chans.trans h.chans, h'.sal.trans h.sal, h'.pfs.trans h.pfs, h'.jobs.trans h.jobs, h'.locks.trans h.locks,
    h'.btl.trans h.btl⟩

theorem answerFirst_core (a : Answer) (s : State) : SameCore s (answerFirst a s) := ⟨rfl, rfl, rfl, rfl, rfl, rfl⟩

theorem SameCore.callView {s t : State} (h : SameCore s t) : callView t = callView s :=
  callView_of_blocks h.chans h.sal h.jobs h.btl

@[simp] theorem callView_setHwi (s : State) (b : Hwi) : callView (s.setHwi b) = callView s := rfl
@[simp] theorem callView_setCbi (s : State) (b : Cbi) : callView (s.setCbi b) = callView s := rfl
@[simp] theorem callView_setFifo (s : State) (k : Ctl) (f : Fifo) : callView (s.setFifo k f) = callView s := rfl
@[simp] theorem callView_setLock (s : State) (k : Ctl) (l : Option Lock) : callView (s.setLock k l) = callView s := rfl
@[simp] theorem callView_setRec (s : State) (r : Rec) (q : Profile) : callView (s.setRec r q) = callView s := rfl
@[simp] theorem callView_setRecency (s : State) (l : List Rec) : callView (s.setRecency l) = callView s := rfl

@[simp] theorem callView_postTo (k : Ctl) (e : EventKind) (ch : Option Chan) (d : Nat) (s : State) :
    callView (postTo k e ch d s) = callView s := callView_of_blocks (by simp) (by simp) (by simp) (by simp)

@[simp] theorem callView_postAll (e : EventKind) (ch : Option Chan) (d : Nat) (s : State) :
    callView (postAll e ch d s) = callView s := callView_of_blocks (by simp) (by simp) (by simp) (by simp)

@[simp] theorem callView_postOwner (c : Chan) (e : EventKind) (d : Nat) (s : State) :
    callView (postOwner c e d s) = callView s := callView_of_blocks (by simp) (by simp) (by simp) (by simp)

@[simp] theorem callView_makeDeferred (rq : Request) (s : State) : callView (makeDeferred rq s) = callView s := rfl

@[simp] theorem callView_postLink (c : Chan) (l : Option Tag) (o : Result) (ws : List Word) (s : State) :
    callView (postLink c l o ws s) = callView s := callView_of_blocks (by simp) (by simp) (by simp) (by simp)

@[simp] theorem callView_completeTraining (c : Chan) (o : Result) (s : State) :
    callView (completeTraining c o s) = callView s := by
  unfold completeTraining
  split
  · exact (callView_modChan (by exact fun _ => rfl)).trans (callView_postLink _ _ _ _ _)
  · rfl

@[simp] theorem callView_completeBind (c : Chan) (o : Result) (s : State) :
    callView (completeBind c o s) = callView s :=
  (callView_modChan (by exact fun _ => rfl)).trans (callView_postLink _ _ _ _ _)

@[simp] theorem callView_completeRelease (c : Chan) (o : Result) (n : Nat) (k : Option Key) (s : State) :
    callView (completeRelease c o n k s) = callView s :=
  (callView_modChan (by exact fun _ => rfl)).trans (callView_postLink _ _ _ _ _)

@[simp] theorem callView_emptyRecord (r : Rec) (s : State) : callView (emptyRecord r s) = callView s := by
  unfold emptyRecord
  split
  · rfl
  · exact callView_modChan fun _ => rfl

@[simp] theorem callView_emptySlots (c : Chan) (s : State) : callView (emptySlots c s) = callView s := rfl

@[simp] theorem callView_clearHeld (c : Chan) (s : State) : callView (clearHeld c s) = callView s :=
  callView_of_blocks (by simp) (by simp) (by simp) (by simp)

@[simp] theorem callView_unbindProfile (c : Chan) (s : State) : callView (unbindProfile c s) = callView s :=
  callView_of_blocks (by simp) (by simp) (by simp) (by simp)

/-- A write of words to the memories changes no account and no free set. -/
theorem callView_setSal_memories {s : State} {m : Sal}
    (h : m = { s.sal with taps := m.taps, hist := m.hist }) : callView (s.setSal m) = callView s := by
  rw [h]
  rfl

@[simp] theorem callView_applyCorrections (c : Chan) (rd : List TapRead) (s : State) :
    callView (applyCorrections c rd s) = callView s := by
  rw [applyCorrections_eq]
  have hsal : callView (s.setSal (writeBack rd s.sal)) = callView s := callView_setSal_memories (by rw [writeBack_eq])
  refine Eq.trans ?_ hsal
  exact callView_setChan (s := s.setSal (writeBack rd s.sal)) (by rw [countCorrections_eq]; rfl)

@[simp] theorem callView_unholdChan (l : Lock) (s : State) : callView (unholdChan l s) = callView s := by
  unfold unholdChan
  split
  · rfl
  · exact callView_modChan fun _ => rfl

@[simp] theorem callView_dropFill (l : Lock) (s : State) : callView (dropFill l s) = callView s := by
  unfold dropFill
  split
  · split
    · split
      · rfl
      · exact callView_emptyRecord _ _
    · rfl
  · rfl

@[simp] theorem callView_endLock (k : Ctl) (s : State) : callView (endLock k s) = callView s := by
  unfold endLock
  split
  · rfl
  · exact callView_unholdChan _ _

@[simp] theorem callView_expireLock (k : Ctl) (s : State) : callView (expireLock k s) = callView s := by
  unfold expireLock
  split
  · rfl
  · rw [breakLock, callView_setLock, callView_postTo, callView_dropFill, callView_unholdChan]

@[simp] theorem callView_markerEffect (rq : Request) (o : LockObj) (q : Purpose) (held : Option Chan) (s : State) :
    callView (markerEffect rq o q held s) = callView s := by
  unfold markerEffect
  split
  · rfl
  · split
    · rfl
    · exact callView_modChan fun _ => rfl
  · split <;> rfl
  · exact callView_endLock _ _

/-! ### The timeslot of a channel in its state (R73) -/

variable {p : Ctl → Prop} {c : Chan} {s t : State}

/-- The channel is mapped to a timeslot, and no other channel is mapped to it. -/
def OwnSlot (c : Chan) (s : State) : Prop :=
  s.chans[c].slot.isSome = true ∧ ∀ d, d ≠ c → s.chans[d].slot ≠ s.chans[c].slot

theorem Agree.ownSlot (h : Agree p s) (hm : mappedState s.chans[c].state = true) : OwnSlot c s := by
  have hsome : s.chans[c].slot.isSome = true := (h.slots.1 c).trans hm
  exact ⟨hsome, fun d hd he => hd (h.slots.2 c d hsome he.symm).symm⟩

theorem OwnSlot.congr (h : OwnSlot c s) (ht : ∀ d : Chan, t.chans[d].slot = s.chans[d].slot) : OwnSlot c t := by
  refine ⟨(ht c).symm ▸ h.1, fun d hd => ?_⟩
  rw [ht, ht]
  exact h.2 d hd

theorem Agree.gate_open (h : Agree p s) (hs : s.chans[c].state ≠ .free) : s.btl.gateOpen = true := by
  by_contra hg
  exact hs (h.calls.gate (Bool.eq_false_of_not_eq_true hg) c)

/-- A lifted channel with its own timeslot is set down in a mapped state; in PENDING, without units. -/
theorem AgreeBut.land_mapped {x : Context} (h : AgreeBut p c s) (hg : s.btl.gateOpen = true) (hs : OwnSlot c s)
    (ho : x.owner = s.chans[c].owner) (hslot : x.slot = s.chans[c].slot) (hsegs : x.segs = s.chans[c].segs)
    (hpages : x.pages = s.chans[c].pages) (hm : mappedState x.state = true)
    (hp : x.state = .pending → x.segs = [] ∧ x.pages = []) : Agree p (s.setChan c x) := by
  have hother (d : Chan) (hd : d ≠ c) : (s.chans.set c x)[d] = s.chans[d] := getElem_set_other _ _ _ _ (Ne.symm hd)
  refine (h.setChan ho hsegs hpages).land ?_ ?_ ?_ ?_
  · intro hf
    exact absurd hg (by simp only [State.setChan_btl] at hf; rw [hf]; decide)
  · rw [State.setChan_chans, getElem_set_same, hslot, hm, hs.1]
  · intro _ d hd
    rw [State.setChan_chans, getElem_set_same, hother d hd, hslot]
    exact hs.2 d hd
  · rw [State.setChan_chans, getElem_set_same]
    rintro (hf | hf)
    · rw [hf] at hm
      cases hm
    · exact hp hf

/-! ### The queues (R111, R131) -/

theorem Agree.ofCore (h : Agree p s) (hc : SameCore s t) : Agree p t := h.congr hc.callView

/-- Jobs may leave their queue. -/
theorem Agree.dropJobs {js : List Job} (h : Agree p s) (hs : js.Sublist s.jobs) : Agree p (s.setJobs js) :=
  { h with
    calls := { h.calls with
      jobs := h.calls.jobs.sublist (hs.map _)
      jobStates := fun j hj => h.calls.jobStates j (hs.subset hj) }
    units := { h.units with } }

/-- A job joins the queue for a channel in its state that has none. -/
theorem Agree.addJob {j : Job} (h : Agree p s) (hs : s.chans[j.chan].state = jobState j.kind)
    (hj : ∀ i ∈ s.jobs, i.chan ≠ j.chan) : Agree p (s.setJobs (s.jobs ++ [j])) :=
  { h with
    calls := { h.calls with
      jobs := by
        rw [State.setJobs_jobs, List.map_append, List.nodup_append]
        refine ⟨h.calls.jobs, by simp, ?_⟩
        intro d hd e he
        obtain ⟨i, hi, rfl⟩ := List.mem_map.1 hd
        rw [List.mem_singleton.1 he]
        exact hj i hi
      jobStates := fun i hi => by
        rcases List.mem_append.1 hi with hi | hi
        · exact h.calls.jobStates i hi
        · rw [List.mem_singleton.1 hi]
          exact hs }
    units := { h.units with } }

/-- The head job moves on. -/
theorem Agree.moveJob {j : Job} {rest : List Job} {n : Nat} (h : Agree p s) (hj : s.jobs = j :: rest) :
    Agree p (s.setJobs ({ j with moved := n } :: rest)) := by
  have hjobs := h.calls.jobs
  have hstates := h.calls.jobStates
  rw [hj] at hjobs hstates
  refine { h with
    calls := { h.calls with jobs := hjobs, jobStates := fun i hi => ?_ }
    units := { h.units with } }
  rcases List.mem_cons.1 hi with rfl | hi
  · exact hstates j (by simp)
  · exact hstates i (by simp [hi])

/-- Wait entries may leave their queue. -/
theorem Agree.dropWaits {ws : List WaitEntry} (h : Agree p s) (hs : ws.Sublist s.sal.waitQ) :
    Agree p (s.setSal { s.sal with waitQ := ws }) :=
  { h with
    calls := { h.calls with
      waits := h.calls.waits.sublist (hs.map _)
      waitState := fun e he => h.calls.waitState e (hs.subset he) }
    units := { h.units with }
    held := h.held }

/-- A wait entry joins the queue for a PENDING channel that has none. -/
theorem Agree.addWait {e : WaitEntry} (h : Agree p s) (hs : s.chans[e.chan].state = .pending)
    (he : ∀ f ∈ s.sal.waitQ, f.chan ≠ e.chan) : Agree p (s.setSal { s.sal with waitQ := s.sal.waitQ ++ [e] }) :=
  { h with
    calls := { h.calls with
      waits := by
        rw [State.setSal_sal, List.map_append, List.nodup_append]
        refine ⟨h.calls.waits, by simp, ?_⟩
        intro d hd d' hd'
        obtain ⟨f, hf, rfl⟩ := List.mem_map.1 hd
        rw [List.mem_singleton.1 hd']
        exact he f hf
      waitState := fun f hf => by
        rcases List.mem_append.1 hf with hf | hf
        · exact h.calls.waitState f hf
        · rw [List.mem_singleton.1 hf]
          exact hs }
    units := { h.units with }
    held := h.held }

theorem Agree.no_job (h : Agree p s) (hl : s.chans[c].state ≠ .loading) (hr : s.chans[c].state ≠ .releasing) :
    ∀ j ∈ s.jobs, j.chan ≠ c := by
  rintro j hj rfl
  have hs := h.calls.jobStates j hj
  cases hk : j.kind <;> rw [hk] at hs
  · exact hl hs
  · exact hr hs

theorem Agree.no_wait (h : Agree p s) (hs : s.chans[c].state ≠ .pending) : ∀ e ∈ s.sal.waitQ, e.chan ≠ c := by
  rintro e he rfl
  exact hs (h.calls.waitState e he)

/-- A channel in a state without a queue can be lifted out. -/
theorem Agree.lift_idle (h : Agree p s) (hp : s.chans[c].state ≠ .pending) (hl : s.chans[c].state ≠ .loading)
    (hr : s.chans[c].state ≠ .releasing) : AgreeBut p c s := h.lift (h.no_wait hp) (h.no_job hl hr)

/-- A PENDING channel can be lifted out when its wait entry has left. -/
theorem Agree.lift_pending (h : Agree p s) (hs : s.chans[c].state = .pending) : AgreeBut p c (removeWait c s) := by
  have hdrop := h.dropWaits (ws := s.sal.waitQ.filter fun e => e.chan != c) List.filter_sublist
  refine hdrop.lift (fun e he => ?_) (hdrop.no_job ?_ ?_)
  · simpa using (List.mem_filter.1 he).2
  all_goals
    rw [State.setSal_chans, hs]
    decide

/-- A LOADING or RELEASING channel can be lifted out when its job has left. -/
theorem Agree.lift_job (h : Agree p s) (hs : s.chans[c].state = .loading ∨ s.chans[c].state = .releasing) :
    AgreeBut p c (cancelJob c s) := by
  have hdrop := h.dropJobs (js := s.jobs.filter fun j => j.chan != c) List.filter_sublist
  refine hdrop.lift (hdrop.no_wait ?_) fun j hj => ?_
  · rw [State.setJobs_chans]
    rcases hs with hs | hs <;> rw [hs] <;> decide
  · simpa using (List.mem_filter.1 hj).2

/-- The head job's channel can be lifted out when the job has left. -/
theorem Agree.lift_head {j : Job} {rest : List Job} (h : Agree p s) (hj : s.jobs = j :: rest) :
    AgreeBut p j.chan (s.setJobs rest) := by
  have hstate := h.calls.jobStates j (by rw [hj]; simp)
  have hnodup := h.calls.jobs
  rw [hj, List.map_cons, List.nodup_cons] at hnodup
  have hdrop := h.dropJobs (js := rest) (by rw [hj]; exact List.sublist_cons_self _ _)
  refine hdrop.lift (hdrop.no_wait ?_) fun i hi he => hnodup.1 (List.mem_map.2 ⟨i, hi, he⟩)
  rw [State.setJobs_chans, hstate]
  cases j.kind <;> decide

/-! ### Entry to FREE (R72, R117) -/

theorem HeldOk.share_le (h : HeldOk p s) {k : Ctl} (hk : p k) (c : Chan) :
    share Context.segs k s.chans[c] ≤ s.sal.heldSeg[k] ∧ share Context.pages k s.chans[c] ≤ s.sal.heldPage[k] := by
  obtain ⟨hs, hp⟩ := h k hk
  have hle {α : Type} (f : Context → List α) : share f k s.chans[c] ≤
      ((s.chans.toList.filter fun x => x.owner == some k).map fun x => (f x).length).sum := by
    obtain ⟨pre, post, hv, -⟩ := chans_split s.chans c
    rw [owned_eq_sum, hv, List.map_append, List.sum_append, List.map_cons, List.sum_cons]
    omega
  rw [hs, hp]
  exact ⟨hle Context.segs, hle Context.pages⟩

/-- The holdings after a debit (R108). -/
theorem debit_held (o : Option Ctl) (n m : Nat) (a : Sal) (k : Ctl) :
    (debit o n m a).heldSeg[k] = (if o = some k then a.heldSeg[k] - n else a.heldSeg[k]) ∧
      (debit o n m a).heldPage[k] = if o = some k then a.heldPage[k] - m else a.heldPage[k] := by
  cases o with
  | none => exact ⟨rfl, rfl⟩
  | some j =>
    simp only [debit, setHeld, getElem_set_fin, Option.some.injEq]
    constructor <;> split <;> simp_all

/-- The holdings after a credit (R108). -/
theorem credit_held (o : Option Ctl) (n m : Nat) (a : Sal) (k : Ctl) :
    (credit o n m a).heldSeg[k] = (if o = some k then a.heldSeg[k] + n else a.heldSeg[k]) ∧
      (credit o n m a).heldPage[k] = if o = some k then a.heldPage[k] + m else a.heldPage[k] := by
  cases o with
  | none => exact ⟨rfl, rfl⟩
  | some j =>
    simp only [credit, setHeld, getElem_set_fin, Option.some.injEq]
    constructor <;> split <;> simp_all

/-- The state of an entry to FREE before the records that name the channel are cleared (R72, R117). -/
def unitsReturned (c : Chan) (s : State) : State :=
  (s.setSal (debit s.chans[c].owner s.chans[c].segs.length s.chans[c].pages.length
    (returnUnits s.chans[c].segs s.chans[c].pages s.sal))).setChan c s.chans[c].freed

theorem enterFree_eq (c : Chan) (s : State) :
    enterFree c s = unbindProfile c (clearHeld c (emptySlots c (unitsReturned c s))) := rfl

@[simp] theorem callView_enterFree (c : Chan) (s : State) :
    callView (enterFree c s) = callView (unitsReturned c s) := by
  rw [enterFree_eq, callView_unbindProfile, callView_clearHeld, callView_emptySlots]

/-- A lifted channel enters FREE: its units return and its owner's holdings fall (R117). -/
theorem AgreeBut.enterFree (h : AgreeBut p c s) : Agree p (enterFree c s) := by
  have hsegs := units_nodup c h.units.segs
  have hpages := units_nodup c h.units.pages
  have hlifted : AgreeBut p c (unitsReturned c s) := by
    refine h.exchange (x := s.chans[c].freed) ⟨rfl, ?_, ?_, ?_, ?_, fun k hk => ?_, (debit_keeps _ _ _ _).2.2.2.2, rfl, rfl⟩
    · simp only [unitsReturned, State.setChan_sal, State.setSal_sal, debit_keeps, returnUnits, Context.freed,
        List.append_nil]
      exact (insertUnits_perm _ _ hsegs).trans List.perm_append_comm
    · simp only [unitsReturned, State.setChan_sal, State.setSal_sal, debit_keeps, returnUnits, Context.freed,
        List.append_nil]
      exact (insertUnits_perm _ _ hpages).trans List.perm_append_comm
    · simp only [unitsReturned, State.setChan_sal, State.setSal_sal, debit_keeps]
      exact insertUnits_rises _ _ h.units.segsRise
    · simp only [unitsReturned, State.setChan_sal, State.setSal_sal, debit_keeps]
      exact insertUnits_rises _ _ h.units.pagesRise
    · have hle := h.held.share_le hk c
      simp only [unitsReturned, State.setChan_sal, State.setSal_sal, debit_held, returnUnits, Context.freed]
      simp only [share, reduceCtorEq, if_false] at hle ⊢
      by_cases ho : s.chans[c].owner = some k
      · simp only [ho, if_true] at hle ⊢
        omega
      · simp only [ho, if_false, and_self]
  refine Agree.congr ?_ (callView_enterFree c s)
  have hx : (unitsReturned c s).chans[c] = s.chans[c].freed := getElem_set_same _ _ _
  refine hlifted.land ?_ ?_ ?_ ?_ <;> rw [hx]
  · exact fun _ => rfl
  · rfl
  · exact fun hf => nomatch hf
  · exact fun _ => ⟨rfl, rfl⟩

end Sys2Proof.Machine
end

section
/-! Grants, re-checks and channel services: what they leave of the calls, the timeslots and the units (R14, R18, R82,
R83, R110, R113). -/

namespace Sys2Proof.Machine

variable {p : Ctl → Prop} {c : Chan} {s t u : State}

/-! ### Grants and re-checks (R82, R83, R110, R113) -/

/-- A lifted channel without units takes its grant; its owner's holdings rise (R82, R108). -/
theorem AgreeBut.granted_but {n m : Nat} (h : AgreeBut p c s)
    (hempty : s.chans[c].segs = [] ∧ s.chans[c].pages = []) (hn : n ≤ s.sal.freeSegs.length)
    (hm : m ≤ s.sal.freePages.length) : AgreeBut p c (unitsGranted c n m s) := by
  have hsal : (unitsGranted c n m s).sal = grantSal c n m s := rfl
  have hfree : (grantSal c n m s).freeSegs = s.sal.freeSegs.drop n ∧
      (grantSal c n m s).freePages = s.sal.freePages.drop m ∧ (grantSal c n m s).waitQ = s.sal.waitQ := by
    simp only [grantSal, unitInit_keeps, credit_keeps, allocate_keeps, and_self]
  obtain ⟨hsegs, hpages, hwait⟩ := hfree
  refine h.exchange (x := grantContext c n m s) ⟨rfl, ?_, ?_, ?_, ?_, fun k _ => ?_, by rw [hsal, hwait], rfl, rfl⟩
  · rw [hsal, hsegs, hempty.1, List.append_nil]
    exact List.perm_append_comm.trans (List.Perm.of_eq (List.take_append_drop n _))
  · rw [hsal, hpages, hempty.2, List.append_nil]
    exact List.perm_append_comm.trans (List.Perm.of_eq (List.take_append_drop m _))
  · rw [hsal, hsegs]
    exact h.units.segsRise.sublist (List.drop_sublist _ _)
  · rw [hsal, hpages]
    exact h.units.pagesRise.sublist (List.drop_sublist _ _)
  · rw [hsal, grantSal, (unitInit_keeps _ _).2.2.2.1, (unitInit_keeps _ _).2.2.2.2.1, (credit_held _ _ _ _ _).1,
      (credit_held _ _ _ _ _).2, (allocate_keeps _ _ _).2.2.1, (allocate_keeps _ _ _).2.2.2.1]
    simp only [share, hempty.1, hempty.2, grantContext, Context.atBind, List.length_take, List.length_nil,
      Nat.min_eq_left hn, Nat.min_eq_left hm, ite_self, Nat.add_zero]
    by_cases ho : s.chans[c].owner = some k
    · simp only [ho, if_true, and_self]
    · simp only [ho, if_false, Nat.add_zero, and_self]

/-- The granted channel enters LOADING with its job, or BOUND (R83, R126). -/
theorem AgreeBut.enterGranted_agree (h : AgreeBut p c s) (hg : s.btl.gateOpen = true) (hslot : OwnSlot c s) :
    Agree p (enterGranted c s) := by
  by_cases hl : ∀ key, s.chans[c].load = some key → findValid key s = none
  · rw [enterGranted_bound hl]
    exact (h.land_mapped (x := s.chans[c].nothingToLoad) hg hslot rfl rfl rfl rfl rfl fun hp => nomatch hp).congr
      (callView_completeBind _ _ _)
  · push Not at hl
    obtain ⟨key, hload, hvalid⟩ := hl
    obtain ⟨r, hr⟩ := Option.ne_none_iff_exists'.1 hvalid
    rw [enterGranted_loading hload hr, queueLoad_eq]
    have hland : Agree p (s.setChan c { s.chans[c] with load := none, state := .loading }) :=
      h.land_mapped hg hslot rfl rfl rfl rfl rfl fun hp => nomatch hp
    refine (hland.addJob (j := {
      kind := .load, chan := c, key, moved := 0, queuedAt := s.hwi.line.frame
      count := min s.pfs.recs[r].desc.near s.chans[c].par.near
        + (if s.pfs.recs[r].desc.eq && s.chans[c].par.eq then 1 else 0)
      eqLast := s.pfs.recs[r].desc.eq && s.chans[c].par.eq }) ?_ fun i hi => (h.jobStates i hi).1).congr rfl
    rw [State.setChan_chans, getElem_set_same]
    rfl

/-- A lifted channel without units and with its own timeslot is granted units that are free (R82, R114). -/
theorem AgreeBut.grant_agree {n m : Nat} (h : AgreeBut p c s) (hempty : s.chans[c].segs = [] ∧ s.chans[c].pages = [])
    (hn : n ≤ s.sal.freeSegs.length) (hm : m ≤ s.sal.freePages.length) (hg : s.btl.gateOpen = true)
    (hslot : OwnSlot c s) : Agree p (grant c n m s) := by
  rw [grant_eq]
  refine (h.granted_but hempty hn hm).enterGranted_agree hg (hslot.congr fun d => ?_)
  change (s.chans.set c (grantContext c n m s))[d].slot = _
  rw [getElem_set_fin]
  split
  · next hd => rw [← hd]; rfl
  · rfl

/-- The reservation check finds the units free (R110). -/
theorem roomFor_free {k : Ctl} {n m : Nat} (h : roomFor k n m s = true) :
    n ≤ s.sal.freeSegs.length ∧ m ≤ s.sal.freePages.length := by
  obtain ⟨hsegs, hpages⟩ := of_decide_eq_true h
  exact ⟨by omega, by omega⟩

/-- The head of the wait queue is granted (R113, R114). -/
theorem Agree.grant_head {e : WaitEntry} {rest : List WaitEntry} (h : Agree p s) (hq : s.sal.waitQ = e :: rest)
    (hroom : roomFor e.ctl e.segs e.pages s = true) :
    Agree p (grant e.chan e.segs e.pages (s.setSal { s.sal with waitQ := rest })) := by
  have hstate := h.calls.waitState e (by rw [hq]; simp)
  have hnodup := h.calls.waits
  rw [hq, List.map_cons, List.nodup_cons] at hnodup
  have hdrop := h.dropWaits (ws := rest) (by rw [hq]; exact List.sublist_cons_self _ _)
  have hlifted : AgreeBut p e.chan (s.setSal { s.sal with waitQ := rest }) := by
    refine hdrop.lift (fun f hf he => hnodup.1 (List.mem_map.2 ⟨f, hf, he⟩)) (hdrop.no_job ?_ ?_)
    all_goals
      rw [State.setSal_chans, hstate]
      decide
  obtain ⟨hsegs, hpages⟩ := roomFor_free hroom
  exact hlifted.grant_agree (h.empty e.chan (.inr hstate)) hsegs hpages
    (h.gate_open (c := e.chan) (by rw [hstate]; decide)) (h.ownSlot (by rw [hstate]; rfl))

theorem Agree.recheckFrom_agree (n : Nat) (h : Agree p s) : Agree p (recheckFrom n s) := by
  induction n generalizing s with
  | zero => exact h
  | succ n ih =>
    unfold recheckFrom
    split
    · exact h
    · next e rest hq =>
      split
      · next hroom => exact ih (h.grant_head hq hroom)
      · exact h

theorem Agree.recheck_agree (h : Agree p s) : Agree p (recheck s) := h.recheckFrom_agree _

/-! ### A served channel (R14, R18, R61–R70, R95) -/

/-- What a service leaves of a channel that the laws of calls and bindings read: all but its state. -/
def Context.lasting (x : Context) : CallPart × Option Key := ({ x.callPart with state := .bound }, x.bound)

/-- The accounts, the free sets and the wait queue of two SALs are the same. -/
def SameAccounts (m m' : Sal) : Prop :=
  m'.freeSegs = m.freeSegs ∧ m'.freePages = m.freePages ∧ m'.heldSeg = m.heldSeg ∧ m'.heldPage = m.heldPage ∧
    m'.waitQ = m.waitQ

theorem SameAccounts.refl (m : Sal) : SameAccounts m m := ⟨rfl, rfl, rfl, rfl, rfl⟩

/-- Channel c stands in BOUND to FAULT, and nothing that the laws of calls and bindings read has changed but its state
among those. -/
structure ServedTo (c : Chan) (s t : State) : Prop where
  chans : ∃ x, t.chans = s.chans.set c x ∧ x.lasting = s.chans[c].lasting ∧ boundToFault x.state = true
  accounts : SameAccounts s.sal t.sal
  pfs : t.pfs = s.pfs
  jobs : t.jobs = s.jobs
  locks : t.locks = s.locks
  btl : t.btl = s.btl

theorem ServedTo.state (h : ServedTo c s t) : boundToFault t.chans[c].state = true := by
  obtain ⟨x, hc, -, hx⟩ := h.chans
  rw [hc, getElem_set_same]
  exact hx

theorem ServedTo.refl (h : boundToFault s.chans[c].state = true) : ServedTo c s s where
  chans := ⟨s.chans[c], by simp, rfl, h⟩
  accounts := SameAccounts.refl _
  pfs := rfl
  jobs := rfl
  locks := rfl
  btl := rfl

theorem ServedTo.trans (h : ServedTo c s t) (h' : ServedTo c t u) : ServedTo c s u where
  chans := by
    obtain ⟨x, hc, hl, -⟩ := h.chans
    obtain ⟨y, hc', hl', hy⟩ := h'.chans
    rw [hc, getElem_set_same] at hl'
    exact ⟨y, by rw [hc', hc, Vector.set_set], hl'.trans hl, hy⟩
  accounts := by
    obtain ⟨a, b, d, e, f⟩ := h.accounts
    obtain ⟨a', b', d', e', f'⟩ := h'.accounts
    exact ⟨a'.trans a, b'.trans b, d'.trans d, e'.trans e, f'.trans f⟩
  pfs := h'.pfs.trans h.pfs
  jobs := h'.jobs.trans h.jobs
  locks := h'.locks.trans h.locks
  btl := h'.btl.trans h.btl

/-- A state that differs beside the laws is served as well. -/
theorem ServedTo.core (h : ServedTo c s t) (hu : SameCore t u) : ServedTo c s u where
  chans := hu.chans ▸ h.chans
  accounts := hu.sal ▸ h.accounts
  pfs := hu.pfs.trans h.pfs
  jobs := hu.jobs.trans h.jobs
  locks := hu.locks.trans h.locks
  btl := hu.btl.trans h.btl

theorem ServedTo.modChan {f : Context → Context} (h : ServedTo c s t) (hf : ∀ x, (f x).lasting = x.lasting)
    (hs : boundToFault (f t.chans[c]).state = true) : ServedTo c s (t.modChan c f) :=
  h.trans ⟨⟨_, rfl, hf _, hs⟩, SameAccounts.refl _, rfl, rfl, rfl, rfl⟩

/-- The laws of calls, timeslots and store items hold after a service. -/
theorem Agree.served (h : Agree p s) (hs : boundToFault s.chans[c].state = true) (ht : ServedTo c s t) :
    Agree p t := by
  have hmapped (st : ChanState) (hst : boundToFault st = true) : mappedState st = true ∧ st ≠ .free ∧
      st ≠ .pending ∧ st ≠ .loading ∧ st ≠ .releasing := by
    cases st <;> simp_all [boundToFault, boundToTracking, mappedState]
  obtain ⟨hm, hfree, hpending, hloading, hreleasing⟩ := hmapped _ hs
  obtain ⟨x, hc, hl, hx⟩ := ht.chans
  obtain ⟨hm', -, hp', -⟩ := hmapped _ hx
  have hpart := congrArg Prod.fst hl
  simp only [Context.lasting, Context.callPart, CallPart.mk.injEq, true_and] at hpart
  obtain ⟨howner, hslot, hsegs, hpages⟩ := hpart
  have hland : Agree p (s.setChan c x) := (h.lift_idle hpending hloading hreleasing).land_mapped
    (h.gate_open hfree) (h.ownSlot hm) howner hslot hsegs hpages hm' fun hp => absurd hp hp'
  refine hland.congr ?_
  obtain ⟨hfs, hfp, hhs, hhp, hw⟩ := ht.accounts
  simp only [callView, hc, hfs, hfp, hhs, hhp, hw, ht.jobs, ht.btl, State.setChan]

/-! ### The stages of a service -/

theorem writeBack_accounts (rd : List TapRead) (m : Sal) : SameAccounts m (writeBack rd m) := by
  rw [writeBack_eq]
  exact SameAccounts.refl _

theorem ServedTo.applyCorrections (rd : List TapRead) (h : ServedTo c s t) :
    ServedTo c s (applyCorrections c rd t) := by
  rw [applyCorrections_eq, countCorrections_eq]
  exact h.trans ⟨⟨_, rfl, rfl, h.state⟩, writeBack_accounts _ _, rfl, rfl, rfl, rfl⟩

theorem ServedTo.writeHistory (r : Int) (h : ServedTo c s t) : ServedTo c s (writeHistory c r t) := by
  rw [writeHistory_eq]
  exact h.trans ⟨⟨_, rfl, rfl, h.state⟩, SameAccounts.refl _, rfl, rfl, rfl, rfl⟩

theorem ServedTo.completeTraining (o : Result) (h : ServedTo c s t) : ServedTo c s (completeTraining c o t) := by
  unfold Machine.completeTraining
  split
  · rw [postLink_eq]
    exact h.trans ⟨⟨_, rfl, rfl, h.state⟩, SameAccounts.refl _, rfl, rfl, rfl, rfl⟩
  · exact h

theorem ServedTo.enterFault (a : Nat) (h : ServedTo c s t) : ServedTo c s (enterFault c a t) := by
  have hl : t.chans[c].state ≠ .loading := by
    intro hl
    have hs := h.state
    rw [hl] at hs
    cases hs
  rw [enterFault_eq hl]
  exact h.trans ⟨⟨_, rfl, rfl, rfl⟩, SameAccounts.refl _, rfl, rfl, rfl, rfl⟩

theorem ServedTo.echoStage (e : Int) (taps samples : List Int) (h : ServedTo c s t) :
    ServedTo c s (echoStage c e taps samples t) := by
  rw [echoStage_eq, echoGuarded_eq]
  exact h.trans ⟨⟨_, rfl, rfl, h.state⟩, SameAccounts.refl _, rfl, rfl, rfl, rfl⟩

theorem equalizerSal_accounts (c : Chan) (d : Option Int) (taps : List Int) (s : State) :
    SameAccounts s.sal (equalizerSal c d taps s) := by
  unfold equalizerSal
  dsimp only
  split
  · split
    · exact (writeSegment_keeps _ _ _).2
    · exact SameAccounts.refl _
  · exact SameAccounts.refl _

theorem ServedTo.equalizerStage (e : Int) (d : Option Int) (taps : List Int) (h : ServedTo c s t) :
    ServedTo c s (equalizerStage c e d taps t).1 := by
  rw [equalizerStage_eq]
  refine h.trans ⟨⟨_, rfl, ?_, ?_⟩, equalizerSal_accounts _ _ _ _, rfl, rfl, rfl, rfl⟩
  · cases d <;> rfl
  · cases d <;> exact h.state

/-- The counting and the end of training leave the channel in service (R61–R65). -/
theorem counted_lasting (q : PartOne) (b : Bool) (x : Context) :
    (counted q b x).lasting = x.lasting ∧
      (boundToFault x.state = true → boundToFault (counted q b x).state = true) := by
  have hcount : (countTraining q x.par b x).lasting = x.lasting ∧ (countTraining q x.par b x).state = x.state := by
    unfold countTraining
    split <;> exact ⟨rfl, rfl⟩
  unfold counted
  dsimp only
  split
  · exact ⟨hcount.1, fun h => hcount.2 ▸ h⟩
  · exact ⟨hcount.1, fun _ => rfl⟩

theorem degraded_lasting (taken : ChanState) (q : PartOne) (x : Context) :
    (degraded taken q x).1.lasting = x.lasting ∧ (degraded taken q x).1.state = x.state := by
  unfold degraded degradeStep
  repeat' split
  all_goals exact ⟨rfl, rfl⟩

theorem quietStep_lasting (q : PartOne) (x : Context) :
    (quietStep q x).1.lasting = x.lasting ∧ (quietStep q x).1.state = x.state := by
  unfold quietStep
  repeat' split
  all_goals exact ⟨rfl, rfl⟩

theorem ServedTo.stageSeven (taken : ChanState) (b : Bool) (h : ServedTo c s t) :
    ServedTo c s (stageSeven c taken b t) := by
  obtain ⟨hcl, hcs⟩ := counted_lasting t.btl.part1 b t.chans[c]
  obtain ⟨hdl, hds⟩ := degraded_lasting taken t.btl.part1 (counted t.btl.part1 b t.chans[c])
  obtain ⟨hql, hqs⟩ := quietStep_lasting t.btl.part1
    (degraded taken t.btl.part1 (counted t.btl.part1 b t.chans[c])).1
  rw [stageSeven_eq]
  exact h.trans ⟨⟨_, rfl, hql.trans (hdl.trans hcl), by rw [hqs, hds]; exact hcs h.state⟩, SameAccounts.refl _, rfl,
    rfl, rfl, rfl⟩

theorem recordResidual_lasting (r y e : Int) (n : Nat) (x : Context) :
    (recordResidual r y e n x).lasting = x.lasting := rfl

theorem ServedTo.faultMeasure (r y : Int) (h : ServedTo c s t) : ServedTo c s (t.modChan c (faultMeasure r y)) :=
  h.modChan (fun _ => rfl) h.state

theorem ServedTo.conditionedService (wt : Nat) (y r : Int) (d : Option Int) (taps : List Int)
    (h : ServedTo c s t) : ServedTo c s (conditionedService c wt y r d taps t).1 :=
  (((h.modChan (recordResidual_lasting _ _ _ _) h.state).echoStage _ _ _).equalizerStage _ _ _).stageSeven _ _

theorem ServedTo.fullService (y r : Int) (d : Option Int) (h : ServedTo c s t) :
    ServedTo c s (fullService c y r d t).1 := by
  have hread (rd : List TapRead) := (h.writeHistory r).applyCorrections rd
  unfold Machine.fullService
  dsimp only
  split
  · dsimp only
    exact ((hread _).faultMeasure r y).enterFault _
  · exact (hread _).conditionedService _ _ _ _ _

/-- A service changes nothing that the laws read, or serves a channel in BOUND to FAULT (R14). -/
theorem serviceByState_served {y r : Int} {d : Option Int} {v w : Int}
    (hs : serviceByState c y r d s = some (t, v, w)) :
    t = s ∨ boundToFault s.chans[c].state = true ∧ ServedTo c s t := by
  cases hc : s.chans[c].state with
  | free | releasing => simp [serviceByState, hc, -Fin.getElem_fin] at hs
  | pending | loading =>
    rw [serviceByState_waiting (by simp [hc, -Fin.getElem_fin])] at hs
    cases hs
    exact .inl rfl
  | fault =>
    have hc' : boundToFault s.chans[c].state = true := by rw [hc]; rfl
    rw [serviceByState_fault hc] at hs
    obtain rfl : s.modChan c (faultMeasure r y) = t := congrArg Prod.fst (Option.some.inj hs)
    exact .inr ⟨rfl, (ServedTo.refl hc').faultMeasure r y⟩
  | bound | echoTrain | eqTrain | tracking =>
    have hc' : boundToFault s.chans[c].state = true := by rw [hc]; rfl
    rw [serviceByState_conditioned (by simp [Conditioned, hc, -Fin.getElem_fin])] at hs
    obtain rfl : (fullService c y r d s).1 = t := congrArg Prod.fst (Option.some.inj hs)
    exact .inr ⟨rfl, (ServedTo.refl hc').fullService y r d⟩

theorem setHwi_core (s : State) (b : Hwi) : SameCore s (s.setHwi b) := ⟨rfl, rfl, rfl, rfl, rfl, rfl⟩

theorem raiseService_served (c : Chan) (s : State) : SameCore s (raiseService c s) ∨
    boundToFault s.chans[c].state = true ∧ ServedTo c s (raiseService c s) := by
  unfold raiseService
  split
  · dsimp only
    split
    · exact .inl (setHwi_core _ _)
    · next hs =>
      rcases serviceByState_served hs with rfl | ⟨hc, ht⟩
      · exact .inl ⟨rfl, rfl, rfl, rfl, rfl, rfl⟩
      · exact .inr ⟨hc, ServedTo.core ⟨ht.chans, ht.accounts, ht.pfs, ht.jobs, ht.locks, ht.btl⟩ (setHwi_core _ _)⟩
  · exact .inl (.refl s)

theorem lineCode_served (n : Slot) (code : Byte) (s : State) : SameCore s (lineCode n code s) ∨
    ∃ c, boundToFault s.chans[c].state = true ∧ ServedTo c s (lineCode n code s) := by
  unfold lineCode
  split
  · exact .inl (.refl s)
  · next c _ =>
    split
    · rcases raiseService_served c (s.setHwi { s.hwi with
        inputs := s.hwi.inputs.set c { s.hwi.inputs[c] with code := some (code, s.hwi.line.frame) } }) with h | ⟨hc, h⟩
      · exact .inl ((setHwi_core s _).trans h)
      · exact .inr ⟨c, hc, h.chans, h.accounts, h.pfs, h.jobs, h.locks, h.btl⟩
    · exact .inl (.refl s)

theorem modemPair_served (c : Chan) (x d : Word) (s : State) : SameCore s (modemPair c x d s) ∨
    boundToFault s.chans[c].state = true ∧ ServedTo c s (modemPair c x d s) := by
  unfold modemPair
  split
  · rcases raiseService_served c (s.setHwi { s.hwi with
      inputs := s.hwi.inputs.set c { s.hwi.inputs[c] with pair := some (x, d, s.hwi.modem.frame) } }) with h | ⟨hc, h⟩
    · exact .inl ((setHwi_core s _).trans h)
    · exact .inr ⟨hc, h.chans, h.accounts, h.pfs, h.jobs, h.locks, h.btl⟩
  · exact .inl (.refl s)

/-! ### Highways and lanes beside the calls -/

theorem setSync_core (g : Highway) (r : SyncRec) (s : State) : SameCore s (setSync g r s) := by
  cases g <;> exact ⟨rfl, rfl, rfl, rfl, rfl, rfl⟩

theorem loseSync_core (g : Highway) (cause : Nat) (s : State) : SameCore s (loseSync g cause s) := by
  rw [loseSync_posts, postAll_eq]
  exact ⟨rfl, rfl, rfl, rfl, rfl, rfl⟩

theorem searchPulse_core (g : Highway) (n : Nat) (s : State) : SameCore s (searchPulse g n s) := by
  cases hs : (syncOf g s).starting with
  | false =>
    rw [searchPulse_first hs]
    exact setSync_core _ _ _
  | true =>
    by_cases hn : n = nominal g
    · rw [hn, searchPulse_nominal hs]
      split
      · rw [regainSync_posts, postAll_eq]
        exact (setSync_core g _ s).trans ⟨rfl, rfl, rfl, rfl, rfl, rfl⟩
      · exact setSync_core _ _ _
    · rw [searchPulse_offNominal hs hn]
      exact setSync_core _ _ _

theorem framePulse_core (g : Highway) (n : Nat) (s : State) : SameCore s (framePulse g n s) := by
  have hseen : SameCore s (pulseSeen g s) := setSync_core _ _ _
  cases hs : (syncOf g s).inSync with
  | false =>
    rw [framePulse_outOfSync hs]
    exact hseen.trans (searchPulse_core _ _ _)
  | true =>
    rcases Nat.lt_trichotomy n (nominal g) with hn | rfl | hn
    · rw [framePulse_early hs hn]
      exact hseen.trans (loseSync_core _ _ _)
    · rw [framePulse_nominal hs]
      cases g <;> exact ⟨rfl, rfl, rfl, rfl, rfl, rfl⟩
    · rw [framePulse_late hs hn]
      exact (hseen.trans (loseSync_core _ _ _)).trans (searchPulse_core _ _ _)

theorem lineSend_core (n : Slot) (s : State) : SameCore s (lineSend n s) := by
  unfold lineSend
  dsimp only
  split <;> exact setHwi_core _ _

theorem setCbi_core (s : State) (b : Cbi) : SameCore s (s.setCbi b) := ⟨rfl, rfl, rfl, rfl, rfl, rfl⟩

theorem laneGrant_core (raised : BitVec 4) (s : State) : SameCore s (laneGrant raised s) := by
  unfold laneGrant
  split
  · split
    · exact .refl s
    · exact setCbi_core _ _
  · exact .refl s

theorem receiveWord_core (data : Word) (parity : Bool) (s : State) : SameCore s (receiveWord data parity s) := by
  unfold receiveWord
  split
  · exact .refl s
  · dsimp only
    split <;> exact setCbi_core _ _

theorem sendCompletion_core (s : State) : SameCore s (sendCompletion s) := by
  unfold sendCompletion
  split
  · exact .refl s
  · split
    · split
      · exact .refl s
      · exact setCbi_core _ _
    · exact .refl s

/-- A response sent changes nothing beside CBI, or resets the part (R178). -/
theorem sendHead_core (rq : Request) (a : Answer) (s : State) :
    SameCore s (sendHead rq a s) ∨ ∃ u, sendHead rq a s = partReset u := by
  unfold sendHead
  dsimp only
  split
  · exact .inr ⟨_, rfl⟩
  · exact .inl (setCbi_core _ _)

theorem sendResponse_core (s : State) : SameCore s (sendResponse s) ∨ ∃ u, sendResponse s = partReset u := by
  unfold sendResponse
  split
  · exact .inl (.refl s)
  · split
    · exact sendHead_core _ _ _
    · exact .inl (.refl s)

end Sys2Proof.Machine
end

section
/-! Every command keeps the laws of calls, timeslots and store items (R73, R74, R100, R102, R108, R111, R131, R176). -/

namespace Sys2Proof.Machine

variable {p : Ctl → Prop} {c : Chan} {s t u : State}

/-- Checks that pass are false, each of them. -/
theorem firstFail_pass {l : List (Bool × Answer)} {b : Bool} {a : Answer} (h : firstFail l = none)
    (hm : (b, a) ∈ l) : b = false := (firstFail_none_iff l).1 h (b, a) hm

/-! ### Transfers and expiries (R115, R132–R134) -/

/-- After power-on and PART RESET everything is as after reset (R178, R194). -/
theorem callView_powerOn (s : State) : callView (powerOn s) = callView State.reset := by
  simp only [callView, powerOn, State.reset]

theorem callView_partReset (s : State) : callView (partReset s) = callView State.reset := by
  simp only [callView, partReset, State.reset]

theorem agree_reset (h : callView t = callView State.reset) : Agree (fun _ => True) t :=
  ((agree_iff _).2 ⟨reset_calls, reset_slots, reset_store⟩).congr h

theorem Agree.moveLoad_agree {j : Job} {rest : List Job} (h : Agree p s) (hj : s.jobs = j :: rest)
    (hk : j.kind = .load) : Agree p (moveLoad j s) := by
  have hstate : s.chans[j.chan].state = .loading := by
    rw [h.calls.jobStates j (by rw [hj]; simp), hk]
    rfl
  have hmoved : ∃ v : State, v.jobs = s.jobs ∧ Agree p v ∧ v.chans = s.chans ∧
      moveLoad j s = if j.lastMove then
        completeBind j.chan .bound ((setHead none v).modChan j.chan fun x => { x with state := .bound })
      else setHead (some { j with moved := j.moved + 1 }) v := by
    unfold moveLoad
    cases j.segment s.chans[j.chan] with
    | none => exact ⟨s, rfl, h, rfl, rfl⟩
    | some g =>
      exact ⟨s.setSal (writeSegment g (chunkOf j.key j.chunk s) s.sal), rfl,
        h.congr (callView_setSal_memories rfl), rfl, rfl⟩
  obtain ⟨v, hv, hagree, hchans, hmove⟩ := hmoved
  rw [hj] at hv
  rw [hmove]
  simp only [setHead, hv, List.tail_cons]
  split
  · have hland : Agree p ((v.setJobs rest).setChan j.chan { v.chans[j.chan] with state := .bound }) :=
      (hagree.lift_head hv).land_mapped
        (hagree.gate_open (c := j.chan) (by rw [hchans, hstate]; decide))
        (hagree.ownSlot (by rw [hchans, hstate]; rfl)) rfl rfl rfl rfl rfl fun hp => nomatch hp
    exact hland.congr (callView_completeBind _ _ _)
  · exact hagree.moveJob hv

theorem Agree.stopSave_agree {j : Job} {rest : List Job} (h : Agree p s) (hj : s.jobs = j :: rest) :
    Agree p (stopSave j s) := by
  have hlifted : AgreeBut p j.chan (completeRelease j.chan .notSaved SaveReason.fault.code (some j.key)
      (setHead none s)) := by
    refine (h.lift_head hj).congr ?_
    rw [callView_completeRelease, setHead, hj]
    rfl
  unfold stopSave
  refine Agree.recheck_agree (AgreeBut.enterFree ?_)
  split
  · exact hlifted
  · exact hlifted.congr (callView_emptyRecord _ _)

theorem Agree.endSave_agree {j : Job} {rest : List Job} (h : Agree p s) (hj : s.jobs = j :: rest) (r : Rec) :
    Agree p (endSave j r s) := by
  refine Agree.recheck_agree (AgreeBut.enterFree ((h.lift_head hj).congr ?_))
  rw [callView_completeRelease, setHead, hj]
  rfl

theorem Agree.moveSave_agree {j : Job} {rest : List Job} (h : Agree p s) (hj : s.jobs = j :: rest) :
    Agree p (moveSave j s) := by
  unfold moveSave
  split
  · next g r _ _ =>
    have hread : Agree p (applyCorrections j.chan (readSegment s.sal g) s) := h.congr (callView_applyCorrections _ _ _)
    have hjobs : (applyCorrections j.chan (readSegment s.sal g) s).jobs = j :: rest := by
      rw [(applyCorrections_keeps _ _ _).2.2.1, hj]
    dsimp only
    split
    · exact hread.stopSave_agree hjobs
    · have hwritten (q : Profile) : Agree p ((applyCorrections j.chan (readSegment s.sal g) s).setRec r q) :=
        hread.congr (callView_setRec _ _ _)
      split
      · exact (hwritten _).endSave_agree hjobs r
      · rw [setHead, State.setRec_jobs, hjobs, List.tail_cons]
        exact (hwritten _).moveJob hjobs
  · exact h

theorem Agree.lineFrameStart_agree (h : Agree p s) : Agree p (lineFrameStart s) := by
  have hdue : Agree p (s.setHwi { s.hwi with frameDue := false }) := h.congr (callView_setHwi _ _)
  unfold lineFrameStart
  split
  · dsimp only
    split
    · exact hdue
    · next j rest hj =>
      split
      · split
        · next hk => exact hdue.moveLoad_agree hj hk
        · exact hdue.moveSave_agree hj
      · exact hdue
  · exact h

/-- A wait entry leaves, and its channel, which has no job, enters FREE (R115). -/
theorem Agree.expireWait_agree {e : WaitEntry} (h : Agree p s) (hj : ∀ j ∈ s.jobs, j.chan ≠ e.chan) :
    Agree p (expireWait s e) := by
  have hdrop := h.dropWaits (ws := s.sal.waitQ.filter fun f => f.chan != e.chan) List.filter_sublist
  refine AgreeBut.enterFree ((hdrop.lift (fun f hf => ?_) hj).congr (callView_completeBind _ _ _))
  simpa using (List.mem_filter.1 hf).2

theorem expireWait_jobs (s : State) (e : WaitEntry) : (expireWait s e).jobs = s.jobs := by
  simp [expireWait]

theorem Agree.waitDeadline_agree (h : Agree p s) : Agree p (waitDeadline s) := by
  unfold waitDeadline
  split
  · exact h
  · refine Agree.recheck_agree ?_
    have hjobs : ∀ e ∈ s.sal.waitQ.filter fun e => timeReached s e.accepted e.limit, ∀ j ∈ s.jobs,
        j.chan ≠ e.chan := fun e he => by
      have hs := h.calls.waitState e (List.mem_filter.1 he).1
      exact h.no_job (by rw [hs]; decide) (by rw [hs]; decide)
    refine (List.foldlRecOn (motive := fun u => Agree p u ∧ u.jobs = s.jobs) _ expireWait ⟨h, rfl⟩ ?_).1
    rintro u ⟨hu, hju⟩ e he
    exact ⟨hu.expireWait_agree (by rw [hju]; exact hjobs e he), by rw [expireWait_jobs, hju]⟩

/-! ### Start-up and gate (R176, R193) -/

/-- A boot load's end changes none of what the laws read (R193). -/
theorem callView_bootLoadEnd (nack : Option (Fin 4)) (image : List Byte) (s : State) :
    callView (bootLoadEnd nack image s) = callView s := by
  unfold bootLoadEnd
  split
  · split
    · rfl
    · split
      · rfl
      · dsimp only
        split <;> rfl
  · rfl

theorem allFree_iff (s : State) : allFree s = true ↔ ∀ c : Chan, s.chans[c].state = .free := by
  simp only [allFree, List.all_eq_true, beq_iff_eq]
  refine ⟨fun h c => h _ (by simp), fun h x hx => ?_⟩
  obtain ⟨i, hi, rfl⟩ := List.getElem_of_mem hx
  simpa using h ⟨i, by simpa using hi⟩

/-- The gate may open, and close when every channel is FREE (R176). -/
theorem Agree.setGate {b : Bool} (h : Agree p s) (hb : b = false → ∀ c : Chan, s.chans[c].state = .free) :
    Agree p (s.setBtl { s.btl with gateOpen := b }) :=
  { h with
    calls := { h.calls with gate := hb }
    units := { h.units with } }

theorem Agree.ownCloseService_agree (rq : Request) (h : Agree p s) : Agree p (ownCloseService rq s).1 := by
  refine checked_inv (Agree p) _ _ s (fun hf => h.setGate fun _ => ?_) h
  have hgate : (s.btl.gateOpen && !allFree s) = false :=
    firstFail_pass hf (a := refused .wrongState) (by simp)
  cases hg : s.btl.gateOpen with
  | false => exact h.calls.gate hg
  | true =>
    rw [hg, Bool.true_and, Bool.not_eq_false'] at hgate
    exact (allFree_iff s).1 hgate

/-! ### DETACH (R97, R119, R174) -/

theorem Agree.weaken {q : Ctl → Prop} (h : Agree p s) (hq : ∀ k, q k → p k) : Agree q s :=
  { h with held := fun k hk => h.held k (hq k hk) }

/-- A channel that loses its owner leaves the accounts of the others as they are (R97). -/
theorem Agree.orphan {k : Ctl} {x : Context} (h : Agree (· ≠ k) s) (ho : s.chans[c].owner = some k)
    (hx : x.callPart = { s.chans[c].callPart with owner := none }) : Agree (· ≠ k) (s.setChan c x) := by
  simp only [Context.callPart, CallPart.mk.injEq] at hx
  obtain ⟨hstate, howner, hslot, hsegs, hpages⟩ := hx
  refine h.exchange (c := c) (x := x) ⟨rfl, by rw [hsegs]; rfl, by rw [hpages]; rfl, h.units.segsRise,
    h.units.pagesRise, fun j hj => ?_, rfl, rfl, rfl⟩ hstate hslot ?_
  · have hne : k ≠ j := fun e => hj e.symm
    simp only [share, howner, ho, Option.some.injEq, hne, reduceCtorEq, if_false]
    exact ⟨rfl, rfl⟩
  · rw [hstate, hsegs, hpages]
    exact h.empty c

theorem Agree.detachChan_agree {k : Ctl} (h : Agree (· ≠ k) s) : Agree (· ≠ k) (detachChan k s c) := by
  unfold detachChan
  split
  · next ho =>
    split
    · next hs => exact (h.lift_pending hs).enterFree
    · exact (h.orphan (c := c) (x := { s.chans[c] with owner := none, trainLink := none, bindLink := none }) ho
        rfl).congr (callView_postAll _ _ _ _)
  · exact h

/-- What DETACH leaves of the channels' owners, one by one (R97). -/
theorem detachChan_owner (k : Ctl) (s : State) (c d : Chan) :
    (detachChan k s c).chans[d].owner =
      if d = c ∧ s.chans[d].owner = some k then none else s.chans[d].owner := by
  have hset (x : Context) (hx : x.owner = none) :
      (s.chans.set c x)[d].owner = if d = c then none else s.chans[d].owner := by
    rw [getElem_set_fin]
    by_cases hd : d = c
    · rw [if_pos hd.symm, if_pos hd, hx]
    · rw [if_neg (Ne.symm hd), if_neg hd]
  unfold detachChan
  by_cases ho : s.chans[c].owner = some k
  · rw [if_pos ho]
    have hcond : (d = c ∧ s.chans[d].owner = some k) ↔ d = c := ⟨And.left, fun e => ⟨e, e ▸ ho⟩⟩
    simp only [hcond]
    split
    · simp only [enterFree, unbindProfile_keeps, clearHeld_keeps, emptySlots_keeps, State.setChan_chans,
        State.setSal_chans, removeWait_keeps]
      exact hset _ rfl
    · simp only [postAll_keeps, State.modChan_chans]
      exact hset _ rfl
  · rw [if_neg ho, if_neg]
    rintro ⟨rfl, h⟩
    exact ho h

/-- After DETACH's walk over the channels none has the detached owner (R97). -/
theorem foldl_detachChan_owner (k : Ctl) (s : State) (d : Chan) :
    ((List.finRange 32).foldl (detachChan k) s).chans[d].owner ≠ some k := by
  have hfold := foldl_place (detachChan k) (fun u (i : Chan) => u.chans[i].owner)
    (fun u i j hj => by simp only [detachChan_owner, hj, false_and, if_false])
    (fun u u' i hi => by simp only [detachChan_owner, hi]) (List.finRange 32) (List.nodup_finRange 32) s d
  rw [if_pos (List.mem_finRange d)] at hfold
  rw [hfold, detachChan_owner]
  split
  · exact nofun
  · next h => exact fun ho => h ⟨rfl, ho⟩

/-- With no channel left to it, a controller holds nothing (R108, R119). -/
theorem Agree.dropHoldings_agree {k : Ctl} (h : Agree (· ≠ k) s) (ho : ∀ c : Chan, s.chans[c].owner ≠ some k) :
    Agree (fun _ => True) (dropHoldings k s) where
  calls := { h.calls with }
  slots := h.slots
  units := { h.units with }
  empty := h.empty
  held j _ := by
    by_cases hj : j = k
    · have hnone : (s.chans.toList.filter fun x => x.owner == some j) = [] := by
        refine List.filter_eq_nil_iff.2 fun x hx => ?_
        obtain ⟨i, hi, rfl⟩ := List.getElem_of_mem hx
        have hi' : i < 32 := by simpa using hi
        have := ho ⟨i, hi'⟩
        rw [hj]
        simpa using this
      have hchans : (dropHoldings k s).chans = s.chans := rfl
      rw [ownedSegs, ownedPages, hchans, hnone, hj]
      simp only [dropHoldings, State.setSal_sal, setHeld, getElem_set_same, List.map_nil, List.sum_nil, and_self]
    · have hkj : k ≠ j := fun e => hj e.symm
      have hheld := h.held j hj
      simp only [dropHoldings, State.setSal_sal, setHeld, getElem_set_other _ _ _ _ hkj]
      exact hheld

theorem callView_detachLock (k : Ctl) (s : State) : callView (detachLock k s) = callView s := by
  unfold detachLock
  split
  · rfl
  · rw [callView_setLock, callView_dropFill, callView_unholdChan]

theorem Agree.detachCtl_agree (k : Ctl) (h : Agree (fun _ => True) s) : Agree (fun _ => True) (detachCtl k s) := by
  have hstart : Agree (· ≠ k)
      (detachLock k (discardDeferred k (s.setCbi { s.cbi with attached := s.cbi.attached.set k false }))) :=
    (h.weaken fun _ _ => trivial).congr (callView_detachLock _ _)
  have hchans := List.foldlRecOn (motive := Agree (· ≠ k)) (List.finRange 32) (detachChan k) hstart
    fun u hu c _ => hu.detachChan_agree
  exact Agree.recheck_agree
    ((hchans.dropHoldings_agree (foldl_detachChan_owner k _)).congr (callView_setFifo _ _ _))

theorem Agree.ownDetach_agree (rq : Request) (h : Agree (fun _ => True) s) :
    Agree (fun _ => True) (ownDetach rq s).1 := by
  refine checked_inv (Agree _) _ _ s (fun _ => ?_) h
  split
  · dsimp only
    exact h.detachCtl_agree _
  · exact h

theorem callView_attachCtl (k : Ctl) (s : State) : callView (attachCtl k s) = callView s := by
  unfold attachCtl
  split <;> rfl

theorem callView_installPart (n : Nat) (ws : List Word) (s : State) : callView (installPart n ws s) = callView s := by
  unfold installPart
  split
  · exact foldl_keeps _ callView (fun u k => callView_expireLock k u) _ _
  · rfl

/-! ### BIND (R73, R79–R83, R112) -/

/-- The context of a channel as a BIND records it (R73, R75, R80). -/
def boundContext (rq : Request) (link : Option Tag) (s : State) : Context :=
  { s.chans[rq.chan] with
    owner := some rq.ctl, slot := some (Fin.ofNat 32 (rq.num 1)), params := some (bindParams rq s)
    relation := bindRelation rq s
    bound := if bindRelation rq s = .boundProfile then rq.bindKey else none
    learn := if bindRelation rq s = .learn then rq.bindKey else none
    load := if bindRelation rq s = .boundProfile ∨ bindRelation rq s = .copy then rq.bindKey else none
    bindLink := link }

/-- The record a BIND leaves, whole: the context, and the profile bound where the relation is BOUND (R80, R125). -/
theorem recordBind_eq (rq : Request) (link : Option Tag) (s : State) : recordBind rq link s =
    match foundProfile rq s with
    | none => s.setChan rq.chan (boundContext rq link s)
    | some r => if bindRelation rq s = .boundProfile then
        (s.setChan rq.chan (boundContext rq link s)).setRec r { s.pfs.recs[r] with boundChan := some rq.chan }
      else s.setChan rq.chan (boundContext rq link s) := rfl

theorem callView_recordBind (rq : Request) (link : Option Tag) (s : State) :
    callView (recordBind rq link s) = callView (s.setChan rq.chan (boundContext rq link s)) := by
  rw [recordBind_eq]
  split
  · rfl
  · split <;> rfl

/-- A BIND's checks find its channel FREE, its timeslot unmapped and the gate open (R76, R79). -/
theorem bindChecks_pass {rq : Request} (h : firstFail (bindChecks rq s) = none) :
    s.chans[rq.chan].state = .free ∧ s.btl.gateOpen = true ∧
      ∀ c : Chan, s.chans[c].slot ≠ some (Fin.ofNat 32 (rq.num 1)) := by
  have hstate : (s.chans[rq.chan].state != .free) = false := firstFail_pass h (a := refused .wrongState) (by simp [bindChecks])
  have hgate : (!s.btl.gateOpen) = false := firstFail_pass h (a := refused .gateClosed) (by simp [bindChecks, openChecks])
  have hslot : (s.chans.toList.any fun x => x.slot == some (Fin.ofNat 32 (rq.num 1))) = false :=
    firstFail_pass h (a := refused .slotInUse) (by simp [bindChecks])
  refine ⟨by simpa using hstate, by simpa using hgate, fun c => ?_⟩
  have := List.any_eq_false.1 hslot s.chans[c] (by simp)
  simpa using this

/-- The recorded channel stands in no queue, without units and with a timeslot of its own. -/
theorem Agree.recordBind_but {rq : Request} (link : Option Tag) (h : Agree p s)
    (hfree : s.chans[rq.chan].state = .free)
    (hslot : ∀ c : Chan, s.chans[c].slot ≠ some (Fin.ofNat 32 (rq.num 1))) :
    AgreeBut p rq.chan (recordBind rq link s) ∧ (recordBind rq link s).chans[rq.chan].segs = [] ∧
      (recordBind rq link s).chans[rq.chan].pages = [] ∧ OwnSlot rq.chan (recordBind rq link s) := by
  obtain ⟨hsegs, hpages⟩ := h.empty rq.chan (.inl hfree)
  have hview := callView_recordBind rq link s
  have hparts := forall_chans_of_view hview
  have hrecorded : (s.setChan rq.chan (boundContext rq link s)).chans[rq.chan] = boundContext rq link s :=
    getElem_set_same _ _ _
  have hown : OwnSlot rq.chan (s.setChan rq.chan (boundContext rq link s)) := by
    refine ⟨by rw [hrecorded]; rfl, fun d hd => ?_⟩
    rw [hrecorded, State.setChan_chans, getElem_set_other _ _ _ _ (Ne.symm hd)]
    exact hslot d
  have hlifted := h.lift_idle (c := rq.chan) (by rw [hfree]; decide) (by rw [hfree]; decide) (by rw [hfree]; decide)
  refine ⟨(hlifted.setChan_empty (x := boundContext rq link s) hsegs hpages hsegs hpages).congr hview, ?_, ?_, hown.congr fun d => (hparts d).2.2.1⟩
  · rw [(hparts rq.chan).2.2.2.1, hrecorded]
    exact hsegs
  · rw [(hparts rq.chan).2.2.2.2, hrecorded]
    exact hpages

theorem recordBind_keeps (rq : Request) (link : Option Tag) (s : State) :
    (recordBind rq link s).sal = s.sal ∧ (recordBind rq link s).btl = s.btl ∧ (recordBind rq link s).cbi = s.cbi ∧
      (recordBind rq link s).jobs = s.jobs := by
  rw [recordBind_eq]
  split
  · exact ⟨rfl, rfl, rfl, rfl⟩
  · split <;> exact ⟨rfl, rfl, rfl, rfl⟩

/-- A BIND that is granted at once (R81). -/
theorem Agree.bindGranted {rq : Request} {n m : Nat} (link : Option Tag) (h : Agree p s)
    (hfree : s.chans[rq.chan].state = .free) (hg : s.btl.gateOpen = true)
    (hslot : ∀ c : Chan, s.chans[c].slot ≠ some (Fin.ofNat 32 (rq.num 1))) (hn : n ≤ s.sal.freeSegs.length)
    (hm : m ≤ s.sal.freePages.length) : Agree p (grant rq.chan n m (recordBind rq link s)) := by
  obtain ⟨hbut, hsegs, hpages, hown⟩ := h.recordBind_but link hfree hslot
  obtain ⟨hsal, hbtl, -⟩ := recordBind_keeps rq link s
  refine hbut.grant_agree ⟨hsegs, hpages⟩ ?_ ?_ ?_ hown
  · rw [hsal]; exact hn
  · rw [hsal]; exact hm
  · rw [hbtl]; exact hg

theorem Agree.enterPending_agree {rq : Request} (h : Agree p s) (hfree : s.chans[rq.chan].state = .free)
    (hg : s.btl.gateOpen = true) (hslot : ∀ c : Chan, s.chans[c].slot ≠ some (Fin.ofNat 32 (rq.num 1))) :
    Agree p (enterPending rq s) := by
  have hdeferred : Agree p (makeDeferred rq s) := h.congr (callView_makeDeferred _ _)
  obtain ⟨hbut, hsegs, hpages, hown⟩ := hdeferred.recordBind_but (some rq.tag) hfree hslot
  obtain ⟨-, hbtl, -⟩ := recordBind_keeps rq (some rq.tag) (makeDeferred rq s)
  have hland : Agree p ((recordBind rq (some rq.tag) (makeDeferred rq s)).modChan rq.chan
      fun x => { x with state := .pending }) :=
    hbut.land_mapped (by rw [hbtl]; exact hg) hown rfl rfl rfl rfl rfl fun _ => ⟨hsegs, hpages⟩
  refine hland.addWait ?_ fun f hf => (hbut.waitState f hf).1
  rw [State.modChan_chans]
  exact congrArg Context.state (getElem_set_same _ _ _)

theorem Agree.bindRoom_agree {rq : Request} (h : Agree p s) (hchecks : firstFail (bindChecks rq s) = none) :
    Agree p (bindRoom rq s).1 := by
  obtain ⟨hfree, hg, hslot⟩ := bindChecks_pass hchecks
  unfold bindRoom bindAtOnce
  dsimp only
  split
  · next hroom =>
    obtain ⟨hn, hm⟩ := roomFor_free (Bool.and_eq_true _ _ ▸ hroom).2
    split
    · exact Agree.bindGranted _ (h.congr (callView_makeDeferred _ _)) hfree hg hslot hn hm
    · exact h.bindGranted _ hfree hg hslot hn hm
  · split
    · exact h
    · split
      · exact h
      · exact h.enterPending_agree hfree hg hslot

/-! ### RELEASE (R86–R89, R127) -/

@[simp] theorem callView_endOwnLock (c : Chan) (k : Ctl) (s : State) : callView (endOwnLock c k s) = callView s := by
  unfold endOwnLock
  split
  · rfl
  · dsimp only
    split
    all_goals
      split
      · exact callView_endLock _ _
      · rfl

/-- What a channel has in progress ends, and it stands in no queue (R87, R88). -/
theorem Agree.endForRelease_but (h : Agree p s) (hs : s.chans[c].state ≠ .releasing) :
    AgreeBut p c (endForRelease c s) := by
  unfold endForRelease
  split
  · next hp => exact (h.lift_pending hp).congr (callView_completeBind _ _ _)
  · next hl => exact (h.lift_job (.inl hl)).congr (callView_completeBind _ _ _)
  · next hp hl => exact (h.lift_idle hp hl hs).congr (callView_completeTraining _ _ _)

theorem Agree.releaseNow_agree (discard : Bool) (h : Agree p s) (hs : s.chans[c].state ≠ .releasing) :
    Agree p (releaseNow c discard s).1 := by
  unfold releaseNow
  dsimp only
  exact (h.endForRelease_but hs).enterFree.recheck_agree

/-- A save begins on a lifted channel that has lost its timeslot: RELEASING, with its job (R127). -/
theorem AgreeBut.beginSave_agree {key : Key} (r : Rec) (h : AgreeBut p c s) (hg : s.btl.gateOpen = true)
    (hslot : s.chans[c].slot = none) (hkey : (s.chans[c].bound <|> s.chans[c].learn) = some key) :
    Agree p (beginSave c r s) := by
  have hland : Agree p (s.setChan c { s.chans[c] with state := .releasing, bound := some key }) := by
    have hx : (s.setChan c { s.chans[c] with state := .releasing, bound := some key }).chans[c] =
        { s.chans[c] with state := .releasing, bound := some key } := getElem_set_same _ _ _
    refine (h.setChan (x := { s.chans[c] with state := .releasing, bound := some key }) rfl rfl rfl).land ?_ ?_ ?_ ?_
    · intro hf
      exact absurd hg (by rw [State.setChan_btl] at hf; rw [hf]; decide)
    · rw [hx, hslot]
      rfl
    · rw [hx, hslot]
      exact fun hf => nomatch hf
    · rw [hx]
      exact fun hf => by rcases hf with hf | hf <;> cases hf
  unfold beginSave
  simp only [hkey]
  refine (hland.addJob (j := {
    kind := .save, chan := c, key, count := s.chans[c].par.near + (if s.chans[c].par.eq then 1 else 0), moved := 0
    eqLast := s.chans[c].par.eq, queuedAt := s.hwi.line.frame }) ?_ fun i hi => (h.jobStates i hi).1).congr rfl
  rw [State.setChan_chans, getElem_set_same]
  rfl

/-- The state of a release that saves before the save is decided (R89). -/
def releaseEnded (rq : Request) (s : State) : State :=
  emptySlots rq.chan ((completeTraining rq.chan .aborted (makeDeferred rq s)).modChan rq.chan fun x =>
    { x with slot := none, bindLink := some rq.tag })

theorem releaseSaving_eq (rq : Request) (s : State) : releaseSaving rq s =
    ((match saveDecision rq.chan rq.ctl (releaseEnded rq s) with
      | .ok r => beginSave rq.chan r (releaseEnded rq s)
      | .error why => recheck (enterFree rq.chan (completeRelease rq.chan .notSaved why.code
          ((releaseEnded rq s).chans[rq.chan].bound <|> (releaseEnded rq s).chans[rq.chan].learn)
          (releaseEnded rq s)))), deferred) := rfl

/-- The context of a channel whose release saves: its timeslot has gone, and its links are the release's (R89). -/
def releasedContext (rq : Request) (x : Context) : Context :=
  { x with
    slot := none, bindLink := some rq.tag, trainLink := if inTraining x.state then none else x.trainLink }

theorem releaseEnded_chan (rq : Request) (s : State) :
    (releaseEnded rq s).chans = s.chans.set rq.chan (releasedContext rq s.chans[rq.chan]) := by
  unfold releaseEnded completeTraining
  rw [(makeDeferred_keeps rq s).2.1]
  split
  · next h =>
    rw [postLink_eq]
    simp only [emptySlots_keeps, State.modChan, State.setChan, makeDeferred_keeps, getElem_set_same, Vector.set_set,
      releasedContext, h, if_true]
  · next h =>
    simp only [emptySlots_keeps, State.modChan, State.setChan, makeDeferred_keeps, releasedContext, h,
      Bool.false_eq_true, if_false]

theorem releaseEnded_keeps (rq : Request) (s : State) :
    (releaseEnded rq s).sal = s.sal ∧ (releaseEnded rq s).btl = s.btl ∧ (releaseEnded rq s).jobs = s.jobs ∧
      (releaseEnded rq s).pfs = s.pfs ∧ (releaseEnded rq s).locks = s.locks := by
  simp [releaseEnded]

theorem saves_running {discard : Bool} {x : Context} (h : saves discard x = true) :
    boundToTracking x.state = true ∧ ∃ key, (x.bound <|> x.learn) = some key := by
  simp only [saves, Bool.and_eq_true, Bool.or_eq_true] at h
  obtain ⟨⟨⟨hs, -⟩, hkey⟩, -⟩ := h
  refine ⟨hs, ?_⟩
  cases hb : x.bound with
  | some key => exact ⟨key, rfl⟩
  | none =>
    rw [hb] at hkey
    obtain ⟨key, hl⟩ := Option.isSome_iff_exists.1 (hkey.resolve_left (by decide))
    exact ⟨key, hl⟩

theorem boundToTracking_idle {st : ChanState} (h : boundToTracking st = true) :
    st ≠ .free ∧ st ≠ .pending ∧ st ≠ .loading ∧ st ≠ .releasing := by
  cases st <;> simp_all [boundToTracking]

theorem Agree.releaseSaving_agree {rq : Request} {discard : Bool} (h : Agree p s)
    (hs : saves discard s.chans[rq.chan] = true) : Agree p (releaseSaving rq s).1 := by
  obtain ⟨hrun, key, hkey⟩ := saves_running hs
  obtain ⟨hfree, hp, hl, hr⟩ := boundToTracking_idle hrun
  have hchans := releaseEnded_chan rq s
  obtain ⟨hsal, hbtl, hjobs, -⟩ := releaseEnded_keeps rq s
  have hbut : AgreeBut p rq.chan (releaseEnded rq s) :=
    ((h.lift_idle hp hl hr).setChan (x := releasedContext rq s.chans[rq.chan]) rfl rfl rfl).congr
      (callView_of_blocks hchans hsal hjobs hbtl)
  rw [releaseSaving_eq]
  dsimp only
  split
  · refine hbut.beginSave_agree (key := key) _ (by rw [hbtl]; exact h.gate_open hfree) ?_ ?_
    · rw [hchans, getElem_set_same]
      rfl
    · rw [hchans, getElem_set_same]
      exact hkey
  · exact (hbut.congr (callView_completeRelease _ _ _ _ _)).enterFree.recheck_agree

/-- A RELEASE's checks find its channel in a state that can be released (R86, Table 5-5). -/
theorem ownerChecks_pass {form range : Bool} {admits : ChanState → Bool} {rq : Request}
    (h : firstFail (ownerChecks form range admits rq s) = none) :
    s.btl.gateOpen = true ∧ s.chans[rq.chan].owner = some rq.ctl ∧ admits s.chans[rq.chan].state = true := by
  have hgate : (!s.btl.gateOpen) = false := firstFail_pass h (a := refused .gateClosed) (by simp [ownerChecks, openChecks])
  have howner : (s.chans[rq.chan].owner != some rq.ctl) = false := firstFail_pass h (a := refused .notOwner) (by simp [ownerChecks])
  have hstate : (!admits s.chans[rq.chan].state) = false := firstFail_pass h (a := refused .wrongState) (by simp [ownerChecks])
  exact ⟨by simpa using hgate, by simpa using howner, by simpa using hstate⟩

theorem Agree.releaseChan_agree {rq : Request} (h : Agree p s) (hs : s.chans[rq.chan].state ≠ .releasing) :
    Agree p (releaseChan rq s).1 := by
  have hended : Agree p (endOwnLock rq.chan rq.ctl s) := h.congr (callView_endOwnLock _ _ _)
  unfold releaseChan
  dsimp only
  split
  · next hsave => exact hended.releaseSaving_agree hsave
  · refine hended.releaseNow_agree _ ?_
    rw [(forall_chans_of_view (callView_endOwnLock rq.chan rq.ctl s) rq.chan).1]
    exact hs

/-! ### Requests that move a call (R90–R94, R98) -/

theorem boundToTracking_toFault {st : ChanState} (h : boundToTracking st = true) : boundToFault st = true := by
  rw [boundToFault, h]
  rfl

theorem startTraining_served {st : ChanState} (rq : Request) (hs : boundToFault s.chans[rq.chan].state = true)
    (hst : boundToFault st = true) : ServedTo rq.chan s (startTraining st rq s).1 :=
  (((ServedTo.refl hs).core (u := makeDeferred rq s) ⟨rfl, rfl, rfl, rfl, rfl, rfl⟩).completeTraining _).modChan
    (fun _ => rfl) hst

theorem trackChan_served (hs : boundToFault s.chans[c].state = true) : ServedTo c s (trackChan c s) :=
  ((ServedTo.refl hs).completeTraining _).modChan (fun _ => rfl) rfl

theorem restartStores_accounts (x : Context) (m : Sal) : SameAccounts m (restartStores x m) := by
  simp only [SameAccounts, restartStores, zeroPages_keeps, unitInit_keeps, zeroSegments_keeps, and_self]

theorem ServedTo.setSal {m : Sal} (h : ServedTo c s t) (hm : SameAccounts t.sal m) : ServedTo c s (t.setSal m) :=
  h.trans ⟨⟨t.chans[c], by simp, rfl, h.state⟩, hm, rfl, rfl, rfl, rfl⟩

theorem restartChan_served (hs : boundToFault s.chans[c].state = true) : ServedTo c s (restartChan c s) :=
  (((ServedTo.refl hs).completeTraining _).setSal (restartStores_accounts _ _)).modChan (fun _ => rfl) rfl

/-- The lists of SET FAR WINDOW: what stays, what comes and what goes (R26). -/
theorem resizeFar_perm (near far newFar : Nat) (new segs : List Seg) :
    (surplusFar near far newFar segs ++ resizeFar near far newFar new segs).Perm (new ++ segs) := by
  have hsegs : (segs.take near ++ (((segs.drop near).take far).take newFar ++ ((segs.drop near).take far).drop newFar)
      ++ segs.drop (near + far)) = segs := by
    rw [List.take_append_drop, List.append_assoc, ← List.drop_drop, List.take_append_drop, List.take_append_drop]
  refine List.perm_iff_count.2 fun a => ?_
  have hcount := congrArg (List.count a) hsegs
  simp only [surplusFar, resizeFar, List.count_append] at hcount ⊢
  omega

/-- Returned units join what is free after an allocation (R102, R117). -/
theorem insertUnits_drop_perm {lost kept free segs : List (Fin 256)} (n : Nat)
    (hperm : (lost ++ kept).Perm (free.take n ++ segs)) (hnodup : (segs ++ free).Nodup) :
    (insertUnits lost (free.drop n) ++ kept).Perm (free ++ segs) := by
  have hall : ((lost ++ free.drop n) ++ kept).Perm (free ++ segs) := by
    refine List.perm_iff_count.2 fun a => ?_
    have hcount := hperm.count_eq a
    have hfree := congrArg (List.count a) (List.take_append_drop n free)
    simp only [List.count_append] at hcount hfree ⊢
    omega
  have hlost : (lost ++ free.drop n).Nodup :=
    (hall.nodup_iff.2 (List.perm_append_comm.nodup_iff.1 hnodup)).sublist (List.sublist_append_left _ _)
  exact ((insertUnits_perm _ _ hlost).append_right kept).trans hall

/-- SET FAR WINDOW before its re-check (R26, R94, R118). -/
def farSet (c : Chan) (far bulk : Nat) (s : State) : State :=
  let x := s.chans[c]
  let q := x.par
  let pages := pagesFor q.near far bulk
  let addSegs := far - q.far
  let addPages := pages - x.pages.length
  let lostSegs := surplusFar q.near q.far far x.segs
  let lostPages := x.pages.drop pages
  let list := x.pages.take pages ++ s.sal.freePages.take addPages
  let m1 := zeroSegments (((x.segs.drop q.near).take q.far).take far) (allocate addSegs addPages s.sal)
  let m2 := returnUnits lostSegs lostPages (zeroPages list m1)
  let m3 := debit x.owner lostSegs.length lostPages.length (credit x.owner addSegs addPages m2)
  (s.setSal m3).setChan c
    { x with
      segs := resizeFar q.near q.far far (s.sal.freeSegs.take addSegs) x.segs, pages := list, w := 0
      params := some { q with far, bulk } }

theorem setFar_eq (c : Chan) (far bulk : Nat) (s : State) : setFar c far bulk s =
    if (surplusFar s.chans[c].par.near s.chans[c].par.far far s.chans[c].segs).isEmpty &&
        (s.chans[c].pages.drop (pagesFor s.chans[c].par.near far bulk)).isEmpty then farSet c far bulk s
    else recheck (farSet c far bulk s) := rfl

theorem Agree.farSet_agree {far bulk : Nat} (h : Agree p s) (hs : boundToTracking s.chans[c].state = true)
    (hn : far - s.chans[c].par.far ≤ s.sal.freeSegs.length)
    (hm : pagesFor s.chans[c].par.near far bulk - s.chans[c].pages.length ≤ s.sal.freePages.length) :
    Agree p (farSet c far bulk s) := by
  have hsegs := units_nodup c h.units.segs
  have hpages := units_nodup c h.units.pages
  have hfar := resizeFar_perm s.chans[c].par.near s.chans[c].par.far far
    (s.sal.freeSegs.take (far - s.chans[c].par.far)) s.chans[c].segs
  have hring (n m : Nat) : (s.chans[c].pages.drop n ++ (s.chans[c].pages.take n ++ s.sal.freePages.take m)).Perm
      (s.sal.freePages.take m ++ s.chans[c].pages) := by
    refine List.perm_iff_count.2 fun a => ?_
    have hcount := congrArg (List.count a) (List.take_append_drop n s.chans[c].pages)
    simp only [List.count_append] at hcount ⊢
    omega
  have hfarLen := hfar.length_eq
  have hringLen := (hring (pagesFor s.chans[c].par.near far bulk)
    (pagesFor s.chans[c].par.near far bulk - s.chans[c].pages.length)).length_eq
  simp only [List.length_append, List.length_take, Nat.min_eq_left hn, Nat.min_eq_left hm] at hfarLen hringLen
  refine h.exchange (c := c) (x := { s.chans[c] with
    segs := resizeFar s.chans[c].par.near s.chans[c].par.far far
      (s.sal.freeSegs.take (far - s.chans[c].par.far)) s.chans[c].segs
    pages := s.chans[c].pages.take (pagesFor s.chans[c].par.near far bulk) ++
      s.sal.freePages.take (pagesFor s.chans[c].par.near far bulk - s.chans[c].pages.length)
    w := 0, params := some { s.chans[c].par with far, bulk } })
    ⟨rfl, ?_, ?_, ?_, ?_, fun k hk => ?_, ?_, rfl, rfl⟩ rfl rfl ?_
  · simp only [farSet, State.setChan_sal, State.setSal_sal, debit_keeps, credit_keeps, returnUnits, zeroPages_keeps,
      zeroSegments_keeps, allocate_keeps]
    exact insertUnits_drop_perm _ hfar hsegs
  · simp only [farSet, State.setChan_sal, State.setSal_sal, debit_keeps, credit_keeps, returnUnits, zeroPages_keeps,
      zeroSegments_keeps, allocate_keeps]
    exact insertUnits_drop_perm _ (hring _ _) hpages
  · simp only [farSet, State.setChan_sal, State.setSal_sal, debit_keeps, credit_keeps, returnUnits, zeroPages_keeps,
      zeroSegments_keeps, allocate_keeps]
    exact insertUnits_rises _ _ (h.units.segsRise.sublist (List.drop_sublist _ _))
  · simp only [farSet, State.setChan_sal, State.setSal_sal, debit_keeps, credit_keeps, returnUnits, zeroPages_keeps,
      zeroSegments_keeps, allocate_keeps]
    exact insertUnits_rises _ _ (h.units.pagesRise.sublist (List.drop_sublist _ _))
  · have hle := h.held.share_le hk c
    simp only [farSet, State.setChan_sal, State.setSal_sal, debit_held, credit_held, returnUnits, zeroPages_keeps,
      zeroSegments_keeps, allocate_keeps]
    simp only [share] at hle ⊢
    by_cases ho : s.chans[c].owner = some k
    · simp only [ho, if_true, List.length_append, List.length_take, Nat.min_eq_left hm] at hle ⊢
      omega
    · simp only [ho, if_false, and_self]
  · simp only [farSet, State.setChan_sal, State.setSal_sal, debit_keeps, credit_keeps, returnUnits, zeroPages_keeps,
      zeroSegments_keeps, allocate_keeps]
  · rintro (hf | hf)
    · exact absurd hf (boundToTracking_idle hs).1
    · exact absurd hf (boundToTracking_idle hs).2.1

theorem Agree.setFar_agree {far bulk : Nat} (h : Agree p s) (hs : boundToTracking s.chans[c].state = true)
    (hn : far - s.chans[c].par.far ≤ s.sal.freeSegs.length)
    (hm : pagesFor s.chans[c].par.near far bulk - s.chans[c].pages.length ≤ s.sal.freePages.length) :
    Agree p (setFar c far bulk s) := by
  rw [setFar_eq]
  split
  · exact h.farSet_agree hs hn hm
  · exact (h.farSet_agree hs hn hm).recheck_agree

/-- What SET FAR WINDOW adds is free (R94, R110). -/
theorem farHasRoom_free {rq : Request} (h : farHasRoom rq s = true) :
    rq.num 1 - s.chans[rq.chan].par.far ≤ s.sal.freeSegs.length ∧
      pagesFor s.chans[rq.chan].par.near (rq.num 1) (rq.num 2) - s.chans[rq.chan].pages.length ≤
        s.sal.freePages.length := by
  rcases (Bool.or_eq_true_iff).1 h with h | h
  · obtain ⟨hn, hm⟩ := of_decide_eq_true h
    rw [hn, hm]
    exact ⟨Nat.zero_le _, Nat.zero_le _⟩
  · exact roomFor_free h

theorem Agree.ownSetFarWindow_agree (rq : Request) (h : Agree p s) : Agree p (ownSetFarWindow rq s).1 := by
  refine checked_inv (Agree p) _ _ s (fun hf => ?_) h
  rw [firstFail_append] at hf
  obtain ⟨howner, hrest⟩ := (Option.orElse_eq_none _ _).1 hf
  have hroom : (!farHasRoom rq s) = false := firstFail_pass hrest (a := refused .noRoom) (by simp)
  obtain ⟨hn, hm⟩ := farHasRoom_free (by simpa using hroom)
  exact h.setFar_agree (ownerChecks_pass howner).2.2 hn hm

theorem Agree.adoptChan_agree (k : Ctl) (h : Agree p s) (ho : s.chans[c].owner = none) :
    Agree p (adoptChan c k s) := by
  refine Agree.recheck_agree (h.exchange (c := c) (x := { s.chans[c] with owner := some k })
    ⟨rfl, ?_, ?_, ?_, ?_, fun j _ => ?_, (credit_keeps _ _ _ _).2.2.2.2, rfl, rfl⟩ rfl rfl (h.empty c))
  · simp only [State.setChan_sal, State.setSal_sal, credit_keeps]
    exact List.Perm.refl _
  · simp only [State.setChan_sal, State.setSal_sal, credit_keeps]
    exact List.Perm.refl _
  · simp only [State.setChan_sal, State.setSal_sal, credit_keeps]
    exact h.units.segsRise
  · simp only [State.setChan_sal, State.setSal_sal, credit_keeps]
    exact h.units.pagesRise
  · simp only [State.setChan_sal, State.setSal_sal, credit_held, share, ho, reduceCtorEq, if_false]
    split <;> simp

/-! ### Profiles, taps and locked sequences (R129–R150) -/

theorem Agree.invalidate_agree (k : Key) (h : Agree p s) : Agree p (invalidate c k s) := by
  have hunbound : Agree p (s.modChan c fun x => { x with bound := none, load := none, relation := .none }) :=
    h.congr (callView_modChan (by exact fun _ => rfl))
  unfold invalidate
  dsimp only
  split
  · next hs =>
    refine ((hunbound.lift_job (c := c) (.inr ?_)).congr (callView_completeRelease _ _ _ _ _)).enterFree
    rw [State.modChan_chans, getElem_set_same]
    exact hs
  · exact hunbound

theorem callView_placeFill (r : Rec) (k : Key) (d : Descriptor) (s : State) :
    callView (placeFill r k d s) = callView s := rfl

theorem Agree.beginFill_agree (r : Rec) (k : Key) (d : Descriptor) (h : Agree p s) : Agree p (beginFill r k d s) := by
  unfold beginFill
  split
  · exact h.congr (callView_placeFill _ _ _ _)
  · next c _ =>
    have hplaced : Agree p (placeFill r k d (invalidate c k s)) :=
      (h.invalidate_agree k).congr (callView_placeFill _ _ _ _)
    dsimp only
    split
    · exact hplaced.recheck_agree
    · exact hplaced

theorem Agree.storeProfile_agree (rq : Request) (h : Agree p s) : Agree p (storeProfile rq s).1 := by
  unfold storeProfile
  dsimp only
  split
  · exact h
  · split
    · exact h
    · exact (h.beginFill_agree _ _ _).congr (callView_markerEffect _ _ _ _ _)

theorem callView_storeTaps (rq : Request) (s : State) : callView (storeTaps rq s).1 = callView s := by
  unfold storeTaps
  split
  · rfl
  · dsimp only
    split
    · rfl
    · split
      · exact callView_markerEffect _ _ _ _ _
      · split
        · exact callView_endLock _ _
        · rw [callView_endLock, callView_emptyRecord, callView_setRec]

theorem callView_touch (r : Rec) (s : State) : callView (touch r s) = callView s := by
  unfold touch
  split <;> rfl

theorem callView_readProfile (rq : Request) (s : State) : callView (readProfile rq s).1 = callView s := by
  unfold readProfile
  split
  · rfl
  · exact (callView_markerEffect _ _ _ _ _).trans (callView_touch _ s)

theorem callView_readProfileTaps (rq : Request) (s : State) : callView (readProfileTaps rq s).1 = callView s := by
  unfold readProfileTaps
  split
  · rfl
  · refine checked_inv (fun t => callView t = callView s) _ _ s (fun _ => ?_) rfl
    rw [callView_markerEffect]
    split
    · rfl
    · unfold readLive
      split
      · rfl
      · exact callView_applyCorrections _ _ _

theorem callView_dropProfile (rq : Request) (s : State) : callView (dropProfile rq s).1 = callView s := by
  unfold dropProfile
  split
  · rfl
  · exact checked_inv (fun t => callView t = callView s) _ _ s (fun _ => callView_emptyRecord _ _) rfl

/-- An uncorrectable word read moves a served or LOADING channel to FAULT (R95, R145). -/
theorem Agree.enterFault_agree (a : Nat) (h : Agree p s) (hs : faultsOnRead s.chans[c].state = true) :
    Agree p (enterFault c a s) := by
  by_cases hl : s.chans[c].state = .loading
  · have hland : Agree p ((cancelJob c s).setChan c { s.chans[c] with state := .fault }) :=
      (h.lift_job (.inl hl)).land_mapped (h.gate_open (c := c) (by rw [hl]; decide))
        (h.ownSlot (by rw [hl]; rfl)) rfl rfl rfl rfl rfl fun hp => nomatch hp
    have htraining : completeTraining c .faulted s = s := by
      rw [completeTraining, hl]
      rfl
    unfold enterFault
    simp only [htraining, hl, beq_self_eq_true, if_true]
    refine hland.congr ?_
    rw [callView_postOwner, callView_completeBind]
    rfl
  · have hserved : boundToFault s.chans[c].state = true := by
      rw [faultsOnRead, Bool.or_eq_true] at hs
      exact boundToTracking_toFault (hs.resolve_right (by simpa using hl))
    exact h.served hserved ((ServedTo.refl hserved).enterFault a)

theorem Agree.readTaps_agree (rq : Request) (h : Agree p s) : Agree p (readTaps rq s).1 := by
  refine checked_inv (Agree p) _ _ s (fun _ => Agree.congr ?_ (callView_markerEffect _ _ _ _ _)) h
  split
  · exact h
  · next g _ =>
    have hread : Agree p (applyCorrections rq.chan (readSegment s.sal g) s) :=
      h.congr (callView_applyCorrections _ _ _)
    have hstate := (forall_chans_of_view (callView_applyCorrections rq.chan (readSegment s.sal g) s) rq.chan).1
    unfold readChunk
    dsimp only
    split
    · exact hread
    · split
      · next hf => exact hread.enterFault_agree _ (by rw [hstate]; exact hf)
      · exact hread

theorem callView_writeTaps (rq : Request) (s : State) : callView (writeTaps rq s).1 = callView s := by
  refine checked_inv (fun t => callView t = callView s) _ _ s (fun _ => ?_) rfl
  rw [callView_markerEffect]
  split
  · rfl
  · exact callView_setSal_memories rfl

/-! ### Every command -/

theorem takeRequest_agree {mine : Request → Bool} {own : Request → State → State × Answer}
    (hown : ∀ rq, Agree p (own rq s).1) (h : Agree p s) : Agree p (takeRequest mine own s) :=
  takeRequest_inv (Agree p) (fun a s hs => hs.ofCore (answerFirst_core a s)) mine own s (fun rq _ _ => hown rq) h

/-- A request whose block changes nothing that the laws read. -/
theorem takeRequest_agree_of_view {mine : Request → Bool} {own : Request → State → State × Answer}
    (hown : ∀ rq, callView (own rq s).1 = callView s) (h : Agree p s) : Agree p (takeRequest mine own s) :=
  takeRequest_agree (fun rq => h.congr (hown rq)) h

theorem checked_callView {l : List (Bool × Answer)} {f : State → State × Answer}
    (hf : callView (f s).1 = callView s) : callView (checked l f s).1 = callView s :=
  checked_inv (fun t => callView t = callView s) l f s (fun _ => hf) rfl

/-- A request that needs ownership and serves its channel. -/
theorem checked_served {form range : Bool} {admits : ChanState → Bool} {rq : Request} {f : State → State × Answer}
    {more : List (Bool × Answer)} (hadmits : ∀ st, admits st = true → boundToFault st = true)
    (hf : boundToFault s.chans[rq.chan].state = true → ServedTo rq.chan s (f s).1) (h : Agree p s) :
    Agree p (checked (ownerChecks form range admits rq s ++ more) f s).1 := by
  refine checked_inv (Agree p) _ f s (fun hc => ?_) h
  rw [firstFail_append] at hc
  have hs := hadmits _ (ownerChecks_pass ((Option.orElse_eq_none _ _).1 hc).1).2.2
  exact h.served hs (hf hs)

/-- A request behind a lock step, which changes nothing that the laws read. -/
theorem lockedRequest_agree {early : List (Bool × Answer)} {rq : Request} {obj : LockObj} {oc : Option Answer}
    {mismatch : Lock → Bool} {lock : State → State × Option Answer} {rest : State → State × Answer}
    (hlock : lock s = lockStep rq obj oc mismatch s) (hrest : ∀ u : State, Agree p u → Agree p (rest u).1)
    (h : Agree p s) : Agree p (lockedRequest early lock rest s).1 := by
  have hstep : Agree p (lock s).1 := by
    rw [hlock]
    exact h.congr (callView_of_blocks (by simp) (by simp) (by simp) (by simp))
  exact lockedRequest_inv (Agree p) early lock rest s hstep (fun _ _ => hrest _ hstep) h

/-- Every command has a next state, and it keeps the laws. -/
theorem exec_agree (i : Instr) (h : Agree (fun _ => True) s) :
    ∃ t, exec i s = .next t ∧ Agree (fun _ => True) t := by
  cases i with
  | powerOn => exact ⟨_, rfl, agree_reset (callView_powerOn s)⟩
  | resetAsserted => exact ⟨_, rfl, h.congr rfl⟩
  | timebaseTick => exact ⟨_, rfl, h.congr (by split <;> rfl)⟩
  | bootLoadEnd nack image => exact ⟨_, rfl, h.congr (callView_bootLoadEnd _ _ _)⟩
  | frameSyncPulse g n => exact ⟨_, rfl, h.ofCore (framePulse_core _ _ _)⟩
  | missingSync g =>
    refine ⟨_, exec_missingSync g s, ?_⟩
    split
    · exact h.ofCore (loseSync_core _ _ _)
    · exact h
  | clockStopped g =>
    refine ⟨_, exec_clockStopped g s, ?_⟩
    split
    · exact h.ofCore (loseSync_core _ _ _)
    · exact h
  | syncSearchTimeout g =>
    refine ⟨_, exec_syncSearchTimeout g s, ?_⟩
    split
    · exact h.ofCore (setSync_core _ _ _)
    · exact h
  | lineCodeArrives n code =>
    refine ⟨_, rfl, ?_⟩
    rcases lineCode_served n code s with hc | ⟨c, hs, ht⟩
    · exact h.ofCore hc
    · exact h.served hs ht
  | modemPairArrives c x d =>
    refine ⟨_, rfl, ?_⟩
    rcases modemPair_served c x d s with hc | ⟨hs, ht⟩
    · exact h.ofCore hc
    · exact h.served hs ht
  | lineOutputSend n => exact ⟨_, rfl, h.ofCore (lineSend_core _ _)⟩
  | modemOutputSend c => exact ⟨_, rfl, h.congr rfl⟩
  | lineFrameStart => exact ⟨_, rfl, h.lineFrameStart_agree⟩
  | waitDeadline => exact ⟨_, rfl, h.waitDeadline_agree⟩
  | lockExpiry k => exact ⟨_, rfl, h.congr (callView_expireLock _ _)⟩
  | eventHoldReached k => exact ⟨_, rfl, h.congr (by split <;> rfl)⟩
  | requestLaneGrant raised => exact ⟨_, rfl, h.ofCore (laneGrant_core _ _)⟩
  | requestWordStrobe data parity => exact ⟨_, rfl, h.ofCore (receiveWord_core _ _ _)⟩
  | recordAbandoned =>
    refine ⟨_, rfl, h.congr ?_⟩
    split
    · rfl
    · split <;> rfl
  | sendResponse =>
    refine ⟨_, rfl, ?_⟩
    rcases sendResponse_core s with hc | ⟨u, hu⟩
    · exact h.ofCore hc
    · rw [hu]
      exact agree_reset (callView_partReset u)
  | sendCompletion => exact ⟨_, rfl, h.ofCore (sendCompletion_core _)⟩
  | partResetEffect =>
    refine ⟨_, rfl, ?_⟩
    split
    · exact h
    · next rq a _ =>
      split
      · rcases sendHead_core rq a s with hc | ⟨u, hu⟩
        · exact h.ofCore hc
        · rw [hu]
          exact agree_reset (callView_partReset u)
      · exact h
  | parityFailedRequest =>
    refine ⟨_, rfl, h.congr ?_⟩
    split
    · rfl
    · split
      · rfl
      · split <;> rfl
  | unknownRequestKind => exact ⟨_, rfl, takeRequest_agree_of_view (fun _ => rfl) h⟩
  | attach => exact ⟨_, rfl, takeRequest_agree_of_view (fun _ => checked_callView (callView_attachCtl _ _)) h⟩
  | detach => exact ⟨_, rfl, takeRequest_agree (fun rq => h.ownDetach_agree rq) h⟩
  | openService =>
    exact ⟨_, rfl, takeRequest_agree (fun rq => checked_inv (Agree _) _ _ s (fun _ => h.setGate nofun) h) h⟩
  | closeService => exact ⟨_, rfl, takeRequest_agree (fun rq => h.ownCloseService_agree rq) h⟩
  | queryPart => exact ⟨_, rfl, takeRequest_agree_of_view (fun _ => checked_callView rfl) h⟩
  | partReset => exact ⟨_, rfl, takeRequest_agree_of_view (fun _ => checked_callView rfl) h⟩
  | setDefaults =>
    exact ⟨_, rfl, takeRequest_agree_of_view (fun _ => checked_callView (callView_installPart _ _ _)) h⟩
  | readDefaults => exact ⟨_, rfl, takeRequest_agree_of_view (fun _ => checked_callView rfl) h⟩
  | bind =>
    exact ⟨_, rfl, takeRequest_agree (fun rq => checked_inv (Agree _) _ _ s (fun hf => h.bindRoom_agree hf) h) h⟩
  | release =>
    refine ⟨_, rfl, takeRequest_agree (fun rq => checked_inv (Agree _) _ _ s (fun hf => ?_) h) h⟩
    refine h.releaseChan_agree fun hs => ?_
    have hadmits := (ownerChecks_pass hf).2.2
    rw [hs] at hadmits
    cases hadmits
  | trainEcho =>
    refine ⟨_, rfl, takeRequest_agree (fun rq => ?_) h⟩
    have := checked_served (form := rq.plain 1) (range := rq.chanOk) (rq := rq) (more := [])
      (fun st => boundToTracking_toFault) (fun hs => startTraining_served (st := .echoTrain) rq hs rfl) h
    rwa [List.append_nil] at this
  | trainEqualizer =>
    refine ⟨_, rfl, takeRequest_agree (fun rq => ?_) h⟩
    refine checked_served (fun st hst => ?_) (fun hs => startTraining_served rq hs rfl) h
    cases st <;> simp_all [boundOrTracking, boundToFault, boundToTracking]
  | track =>
    refine ⟨_, rfl, takeRequest_agree (fun rq => ?_) h⟩
    have := checked_served (form := rq.plain 1) (range := rq.chanOk) (rq := rq) (more := [])
      (f := fun s => (if s.chans[rq.chan].state = .tracking then s else trackChan rq.chan s, done []))
      (fun st => boundToTracking_toFault) (fun hs => by
        dsimp only
        split
        · exact .refl hs
        · exact trackChan_served hs) h
    rwa [List.append_nil] at this
  | freeze =>
    exact ⟨_, rfl, takeRequest_agree_of_view
      (fun rq => checked_callView (callView_modChan (by exact fun _ => rfl))) h⟩
  | thaw =>
    exact ⟨_, rfl, takeRequest_agree_of_view
      (fun rq => checked_callView (callView_modChan (by exact fun _ => rfl))) h⟩
  | restart =>
    refine ⟨_, rfl, takeRequest_agree (fun rq => ?_) h⟩
    have := checked_served (form := rq.plain 1) (range := rq.chanOk) (rq := rq) (more := [])
      (f := fun s => (restartChan rq.chan s, done [])) (fun st hst => hst) (fun hs => restartChan_served hs) h
    rwa [List.append_nil] at this
  | setFarWindow => exact ⟨_, rfl, takeRequest_agree (fun rq => h.ownSetFarWindow_agree rq) h⟩
  | adopt =>
    refine ⟨_, rfl, takeRequest_agree (fun rq => checked_inv (Agree _) _ _ s (fun _ => ?_) h) h⟩
    split
    · exact h
    · next ho => exact h.adoptChan_agree _ (by simpa using ho)
  | queryChannel => exact ⟨_, rfl, takeRequest_agree_of_view (fun _ => checked_callView rfl) h⟩
  | queryStore => exact ⟨_, rfl, takeRequest_agree_of_view (fun _ => checked_callView rfl) h⟩
  | storeProfile =>
    exact ⟨_, rfl, takeRequest_agree
      (fun rq => lockedRequest_agree rfl (fun _ hu => hu.storeProfile_agree rq) h) h⟩
  | storeProfileTaps =>
    exact ⟨_, rfl, takeRequest_agree
      (fun rq => lockedRequest_agree rfl (fun _ hu => hu.congr (callView_storeTaps rq _)) h) h⟩
  | readProfile =>
    exact ⟨_, rfl, takeRequest_agree
      (fun rq => lockedRequest_agree rfl (fun _ hu => hu.congr (callView_readProfile rq _)) h) h⟩
  | readProfileTaps =>
    exact ⟨_, rfl, takeRequest_agree
      (fun rq => lockedRequest_agree rfl (fun _ hu => hu.congr (callView_readProfileTaps rq _)) h) h⟩
  | dropProfile =>
    exact ⟨_, rfl, takeRequest_agree_of_view (fun rq => checked_callView (callView_dropProfile rq s)) h⟩
  | listProfiles => exact ⟨_, rfl, takeRequest_agree_of_view (fun _ => checked_callView rfl) h⟩
  | readTaps =>
    exact ⟨_, rfl, takeRequest_agree
      (fun rq => lockedRequest_agree rfl (fun _ hu => hu.readTaps_agree rq) h) h⟩
  | writeTaps =>
    exact ⟨_, rfl, takeRequest_agree
      (fun rq => lockedRequest_agree rfl (fun _ hu => hu.congr (callView_writeTaps rq _)) h) h⟩
  | fetchEvents => exact ⟨_, rfl, takeRequest_agree_of_view (fun _ => checked_callView rfl) h⟩
  | setEventTrigger => exact ⟨_, rfl, takeRequest_agree_of_view (fun _ => checked_callView rfl) h⟩

end Sys2Proof.Machine

open Sys2Proof Sys2Proof.Machine

/-- Settles O9: whatever changes a channel lifts it out of the laws, changes it with the units, and sets it down. -/
theorem stepsKeepCallsSlotsAndStore : Obligations.StepsKeepCallsSlotsAndStore := by
  intro s t hcalls hslots hstore ht
  have h := (agree_iff s).2 ⟨hcalls, hslots, hstore⟩
  refine (agree_iff t).1 ?_
  unfold step at ht
  split at ht
  · cases ht
    exact h
  · next i rest _ =>
    obtain ⟨u, hu, hagree⟩ := exec_agree i (s := { s with pending := rest }) (h.congr rfl)
    rw [hu] at ht
    cases ht
    exact hagree
end

section
/-! The state after reset (R194), entry to FREE (R72, R117) and the wait deadline (R115). -/

namespace Sys2Proof.Machine

variable {c : Chan} {s t : State}

/-! ### Reset (R194) -/

theorem initialPart0_eq : initialBtl.part0 =
    { law := .mu, usable := 0xFFFFFFFF, shareSeg := #v[0, 0, 0, 0], sharePage := #v[0, 0, 0, 0], lockLimit := 100
      waitLimit := 2000, evLevel := 4, evHold := 20 } := rfl

theorem initialPart1_eq : initialBtl.part1 =
    { aEchoTrain := 8, aEchoTrack := 13, aEqTrain := 7, aEqTrack := 12, erleTarget := 64, qualTarget := 48
      holdCount := 400, timeout := 16000, gate := 96, pfloor := 1024, guard := 0, degradeMargin := 24
      degradeCount := 800, quietLevel := 64, quietLimit := 16000, mainTap := 4, lag := 2, near := 4, far := 0
      bulk := 0, eq := true } := rfl

/-- After reset no controller holds a unit, a lock or an entry, and none is attached (R108, R147, R173, R185). -/
theorem reset_controller (k : Ctl) : State.reset.sal.heldSeg[k] = 0 ∧ State.reset.sal.heldPage[k] = 0 ∧
    State.reset.locks[k] = none ∧ State.reset.cbi.attached[k] = false ∧
    State.reset.fifos[k] = { entries := [], overflow := false, level := 4, hold := 20, line := false } := by
  refine ⟨?_, ?_, reset_lock k, ?_, reset_fifo k⟩
  · simp [State.reset, initialSal]
  · simp [State.reset, initialSal]
  · simp [State.reset, initialCbi]

/-- After reset no channel has input or output (R13, R15). -/
theorem reset_slots_empty (c : Chan) : State.reset.hwi.inputs[c] = { code := none, pair := none } ∧
    State.reset.hwi.outputs[c] = { code := none, pair := none } := by
  constructor <;> simp [State.reset, initialHwi, emptyInput, emptyHold]

/-! ### Entry to FREE (R72, R117) -/

/-- A debit is made to the owner alone (R108). -/
theorem debit_some {k : Ctl} {n m : Nat} {a : Sal} :
    (debit (some k) n m a).heldSeg = a.heldSeg.set k (a.heldSeg[k] - n) ∧
      (debit (some k) n m a).heldPage = a.heldPage.set k (a.heldPage[k] - m) := ⟨rfl, rfl⟩

theorem enterFree_chans (c : Chan) (s : State) : (enterFree c s).chans = s.chans.set c s.chans[c].freed := by
  simp only [enterFree_eq, unbindProfile_keeps, clearHeld_keeps, emptySlots_keeps, unitsReturned, State.setChan_chans,
    State.setSal_chans]

theorem enterFree_sal (c : Chan) (s : State) : (enterFree c s).sal =
    debit s.chans[c].owner s.chans[c].segs.length s.chans[c].pages.length
      (returnUnits s.chans[c].segs s.chans[c].pages s.sal) := by
  simp only [enterFree_eq, unbindProfile_keeps, clearHeld_keeps, emptySlots_keeps, unitsReturned, State.setChan_sal,
    State.setSal_sal]

theorem enterFree_hwi (c : Chan) (s : State) : (enterFree c s).hwi =
    { s.hwi with inputs := s.hwi.inputs.set c emptyInput, outputs := s.hwi.outputs.set c emptyHold } := by
  simp only [enterFree_eq, unbindProfile_keeps, clearHeld_keeps]
  rfl

theorem enterFree_recs (c : Chan) (s : State) (r : Rec) : (enterFree c s).pfs.recs[r] =
    if s.pfs.recs[r].boundChan = some c then { s.pfs.recs[r] with boundChan := none } else s.pfs.recs[r] := by
  rw [enterFree_eq, unbindProfile_recs, (clearHeld_keeps _ _).2.2.2.1]
  rfl

theorem enterFree_recency (c : Chan) (s : State) : (enterFree c s).pfs.recency = s.pfs.recency := by
  rw [enterFree_eq, unbindProfile_recency, (clearHeld_keeps _ _).2.2.2.1]
  rfl

theorem enterFree_locks (c : Chan) (s : State) (k : Ctl) : (enterFree c s).locks[k] =
    s.locks[k].map fun l => if l.held = some c then { l with held := none } else l := by
  rw [enterFree_eq, (unbindProfile_keeps _ _).2.2.2.2.1, clearHeld_locks]
  rfl

theorem enterFree_held (c : Chan) (s : State) :
    (∀ k, s.chans[c].owner = some k →
      (enterFree c s).sal.heldSeg = s.sal.heldSeg.set k (s.sal.heldSeg[k] - s.chans[c].segs.length) ∧
      (enterFree c s).sal.heldPage = s.sal.heldPage.set k (s.sal.heldPage[k] - s.chans[c].pages.length)) ∧
    (s.chans[c].owner = none →
      (enterFree c s).sal.heldSeg = s.sal.heldSeg ∧ (enterFree c s).sal.heldPage = s.sal.heldPage) := by
  rw [enterFree_sal]
  refine ⟨fun k hk => ?_, fun hn => ?_⟩
  · rw [hk]
    exact debit_some
  · rw [hn]
    exact ⟨rfl, rfl⟩

/-! ### The wait deadline (R115) -/

theorem expireWait_eq : expireWait = fun s e => enterFree e.chan (completeBind e.chan .noRoom
    { s with sal := { s.sal with waitQ := s.sal.waitQ.filter fun f => f.chan != e.chan } }) := rfl

theorem waitDeadline_due {e : WaitEntry} {es : List WaitEntry}
    (h : (s.sal.waitQ.filter fun e => timeReached s e.accepted e.limit) = e :: es) :
    waitDeadline s = recheck ((e :: es).foldl expireWait s) := by
  rw [waitDeadline, h]

theorem bindWords_eq (c : Chan) (o : Result) (x : Context) : bindWords c o x =
    [word c.val, word o.code, word x.state.code, word x.relation.code, word x.par.near, word x.par.far, word x.par.bulk,
     if x.par.eq then 1 else 0, word x.par.mainTap, word x.par.lag] := by
  have heq : word (bit x.par.eq 0) = if x.par.eq then 1 else 0 := by cases x.par.eq <;> rfl
  rw [bindWords, heq]

theorem exec_waitDeadline (s : State) : exec .waitDeadline s = .next (waitDeadline s) := rfl

theorem waitDeadline_none (h : ∀ e ∈ s.sal.waitQ, timeReached s e.accepted e.limit = false) : waitDeadline s = s := by
  have hnone : (s.sal.waitQ.filter fun e => timeReached s e.accepted e.limit) = [] :=
    List.filter_eq_nil_iff.2 fun e he => by rw [h e he]; decide
  rw [waitDeadline, hnone]

end Sys2Proof.Machine

open Sys2Proof Sys2Proof.Machine

/-- Settles O3: each part of the state after reset has the value its rule gives it. -/
theorem resetTakesTheStatedValues : Obligations.ResetTakesTheStatedValues := by
  refine ⟨fun c => ⟨?_, reset_slots_empty c⟩, fun h => ?_, reset_free.1, reset_free.2, reset_controller, rfl,
    fun r => ?_, rfl, rfl, rfl, rfl, rfl, rfl, rfl, rfl, rfl, rfl, rfl, rfl, initialPart0_eq, initialPart1_eq⟩
  · rw [reset_chan]
    rfl
  · cases h <;> exact ⟨rfl, rfl, rfl, rfl⟩
  · rw [reset_rec]
    rfl

/-- Settles O33: an entry to FREE writes the freed context and the returned units, and clears what names the channel. -/
theorem enteringFreeReturnsTheUnits : Obligations.EnteringFreeReturnsTheUnits := by
  intro c s
  dsimp only
  obtain ⟨howned, horphan⟩ := enterFree_held c s
  obtain ⟨hjobs, hcbi, hfifos, hbtl, hfree, hpending⟩ := enterFree_keeps c s
  have hsal := enterFree_sal c s
  refine ⟨enterFree_chans c s, ?_, ?_, ?_, fun g => ?_, fun g => ?_, howned, horphan, enterFree_hwi c s,
    enterFree_recs c s, enterFree_recency c s, enterFree_locks c s, ?_⟩
  · simp only [hsal, debit_keeps, returnUnits]
  · simp only [hsal, debit_keeps, returnUnits]
  · simp only [hsal, debit_keeps, returnUnits]
  · simp only [hsal, debit_keeps, returnUnits]
    exact mem_insertUnits _ _ _
  · simp only [hsal, debit_keeps, returnUnits]
    exact mem_insertUnits _ _ _
  · simp only [hjobs, hcbi, hfifos, hbtl, hfree, hpending]

/-- Settles O36: the due entries leave one by one, each as `expireWait` says, and one re-check follows. -/
theorem dueWaitEndsInNoRoom : Obligations.DueWaitEndsInNoRoom := by
  refine ⟨fun c x => bindWords_eq c .noRoom x, fun s h => ?_, fun s e h => ⟨?_, fun k t ho hl => ?_⟩, fun s e es h => ?_⟩
  · rw [exec_waitDeadline, waitDeadline_none h]
  · rw [exec_waitDeadline, waitDeadline_due h, List.foldl_cons, List.foldl_nil, expireWait_eq]
  · rw [completeBind_eq, hl, postLink_some ho rfl]
  · rw [exec_waitDeadline, waitDeadline_due h, expireWait_eq]
end

section
/-! Moves of a LOAD at the start of a line frame (R84, R132, R133). -/

namespace Sys2Proof.Machine

variable {s : State} {j : Job} {rest : List Job} {g : Seg} {r : Rec}

theorem exec_lineFrameStart (s : State) : exec .lineFrameStart s = .next (lineFrameStart s) := rfl

/-- Out of sync, or with no frame due, nothing happens (R132). -/
theorem lineFrameStart_idle (h : s.hwi.line.inSync = false ∨ s.hwi.frameDue = false) : lineFrameStart s = s := by
  have hcond : (s.hwi.line.inSync && s.hwi.frameDue) = false := by
    rcases h with h | h <;> rw [h]
    · rfl
    · exact Bool.and_false _
  rw [lineFrameStart, hcond]
  rfl

/-- With nothing queued before this frame the frame is only taken note of (R132). -/
theorem lineFrameStart_early (hsync : s.hwi.line.inSync = true) (hdue : s.hwi.frameDue = true)
    (h : ∀ j ∈ s.jobs.head?, s.hwi.line.frame ≤ j.queuedAt) :
    lineFrameStart s = s.setHwi { s.hwi with frameDue := false } := by
  rw [lineFrameStart, hsync, hdue]
  cases hj : s.jobs with
  | nil => rfl
  | cons j rest =>
    have hq := h j (by rw [hj]; rfl)
    exact if_neg (Nat.not_lt.2 hq)

/-- A LOAD at the head of the queue moves (R132, R133). -/
theorem lineFrameStart_load (hsync : s.hwi.line.inSync = true) (hdue : s.hwi.frameDue = true)
    (hj : s.jobs = j :: rest) (hk : j.kind = .load) (hq : j.queuedAt < s.hwi.line.frame) :
    lineFrameStart s = moveLoad j (s.setHwi { s.hwi with frameDue := false }) := by
  rw [lineFrameStart, hsync, hdue, hj]
  simp only [Bool.and_self, if_true, if_pos hq, hk]

/-- A LOAD's move writes its chunk, and ends with BOUND or goes on (R84, R133). -/
theorem moveLoad_eq (hj : s.jobs = j :: rest) (hg : j.segment s.chans[j.chan] = some g)
    (hr : findProfile j.key s = some r) : moveLoad j s = if j.lastMove then
      completeBind j.chan .bound { s with
        sal := writeSegment g s.pfs.recs[r].chunks[j.chunk] s.sal, jobs := rest
        chans := s.chans.set j.chan { s.chans[j.chan] with state := .bound } }
      else { s with
        sal := writeSegment g s.pfs.recs[r].chunks[j.chunk] s.sal, jobs := { j with moved := j.moved + 1 } :: rest } := by
  have hchunk : chunkOf j.key j.chunk s = s.pfs.recs[r].chunks[j.chunk] := by rw [chunkOf, hr]
  rw [moveLoad, hg]
  simp only [hchunk, setHead, State.setSal_jobs, hj, List.tail_cons]
  rfl

end Sys2Proof.Machine

open Sys2Proof Sys2Proof.Machine

/-- Settles O34: by what a line frame does with the head job, and what a segment's write leaves of the tap store. -/
theorem loadMovesOneSegmentAFrame : Obligations.LoadMovesOneSegmentAFrame := by
  refine ⟨fun s j rest g r hsync hdue hj hk hq hg hr => ?_, fun s h => ?_, fun s hsync hdue h => ?_,
    fun m g vs hm hv => ⟨fun i hi => tap_writeSegment_in g vs m hm i hi hv.ge,
      fun a ha => tap_writeSegment_out g vs m hm a (by omega)⟩⟩
  · have hmove := lineFrameStart_load hsync hdue hj hk hq
    rw [moveLoad_eq (s := s.setHwi { s.hwi with frameDue := false }) hj hg hr] at hmove
    refine ⟨fun hmore => ?_, fun hlast => ?_⟩
    · rw [exec_lineFrameStart, hmove, if_neg (by rw [Job.lastMove, decide_eq_true_iff]; omega)]
      rfl
    · rw [exec_lineFrameStart, hmove, if_pos (by rwa [Job.lastMove, decide_eq_true_iff])]
      rfl
  · rw [exec_lineFrameStart, lineFrameStart_idle h]
  · rw [exec_lineFrameStart, lineFrameStart_early hsync hdue h]
    rfl
end

section
/-! Requests on a call: the checks of a channel request that needs ownership (R76), and the requests that move a call
(R77, R90–R93). -/

namespace Sys2Proof.Machine

variable {k : Kind} {rq : Request} {s : State} {c : Chan}

/-! ### The states in which requests are taken (Table 5-5) -/

theorem boundToTracking_iff (st : ChanState) :
    boundToTracking st = true ↔ st = .bound ∨ st = .echoTrain ∨ st = .eqTrain ∨ st = .tracking := by
  cases st <;> decide

theorem boundToFault_iff (st : ChanState) : boundToFault st = true ↔
    (st = .bound ∨ st = .echoTrain ∨ st = .eqTrain ∨ st = .tracking) ∨ st = .fault := by
  cases st <;> decide

theorem loadingToFault_iff (st : ChanState) : loadingToFault st = true ↔
    (st = .bound ∨ st = .echoTrain ∨ st = .eqTrain ∨ st = .tracking) ∨ st = .fault ∨ st = .loading := by
  cases st <;> decide

theorem boundOrTracking_iff (st : ChanState) : boundOrTracking st = true ↔ st = .bound ∨ st = .tracking := by
  cases st <;> decide

/-! ### The checks of an owner's request (R76) -/

/-- Of an owner's checks only that of the state is left when the request is its owner's and has its form. -/
theorem ownerChecks_owned {form range : Bool} {admits : ChanState → Bool} (h : Owned k rq s) (hf : form = true)
    (hr : range = true) : firstFail (ownerChecks form range admits rq s) =
      if admits s.chans[rq.chan].state then none else some (refused .wrongState) := by
  have hbusy : (s.chans[rq.chan].state == .free) = false := by simpa using h.busy
  have howner : (s.chans[rq.chan].owner != some rq.ctl) = false := by simpa using h.owner
  simp only [ownerChecks, openChecks, List.cons_append, List.nil_append, firstFail_cons, firstFail_nil, hf, hr, h.gate,
    hbusy, howner, Bool.not_true, Bool.false_eq_true, if_false]
  cases admits s.chans[rq.chan].state <;> rfl

theorem Owned.chanOk (h : Owned k rq s) : rq.chanOk = true :=
  decide_eq_true ⟨Nat.zero_le _, Nat.le_of_lt_succ h.range⟩

variable {n : Nat} {admits : ChanState → Bool} {f : State → State × Answer}
  {own : Request → State → State × Answer}

/-- An admitted request that passes its checks takes its effect. -/
theorem takeRequest_pass {l : List (Bool × Answer)} (h : Admitted k rq s) (hown : own rq s = checked l f s)
    (hl : firstFail l = none) : takeRequest (isKind k) own s = answerFirst (f s).2 (f s).1 := by
  rw [takeRequest_admitted h, hown, checked_pass _ _ _ hl]

/-- An admitted request that fails a check is answered so. -/
theorem takeRequest_fail {l : List (Bool × Answer)} {a : Answer} (h : Admitted k rq s)
    (hown : own rq s = checked l f s) (hl : firstFail l = some a) :
    takeRequest (isKind k) own s = answerFirst a s := by
  rw [takeRequest_admitted h, hown, checked_fail _ _ _ _ hl]

/-- An owner's request in a state that admits it takes its effect. -/
theorem takeRequest_owned (h : Owned k rq s) (hp : rq.plain n = true)
    (hown : own rq s = checked (ownerChecks (rq.plain n) rq.chanOk admits rq s) f s)
    (ha : admits s.chans[rq.chan].state = true) :
    takeRequest (isKind k) own s = answerFirst (f s).2 (f s).1 :=
  takeRequest_pass h.toAdmitted hown (by rw [ownerChecks_owned h hp h.chanOk, if_pos ha])

/-- An owner's request in any other state is refused WRONG_STATE. -/
theorem takeRequest_wrongState (h : Owned k rq s) (hp : rq.plain n = true)
    (hown : own rq s = checked (ownerChecks (rq.plain n) rq.chanOk admits rq s) f s)
    (ha : ¬ admits s.chans[rq.chan].state = true) :
    takeRequest (isKind k) own s = answerFirst (refused .wrongState) s :=
  takeRequest_fail h.toAdmitted hown (by rw [ownerChecks_owned h hp h.chanOk, if_neg ha])

/-- TRAIN EQUALIZER passes in BOUND and TRACKING with the equalizer, and is refused for the state before it is refused for
the equalizer (R90). -/
theorem trainEqualizer_checks (h : Owned k rq s) (hp : rq.plain 1 = true) :
    firstFail (ownerChecks (rq.plain 1) rq.chanOk boundOrTracking rq s
      ++ [(!s.chans[rq.chan].par.eq, refused .noEqualizer)]) =
    if boundOrTracking s.chans[rq.chan].state then
      if s.chans[rq.chan].par.eq then none else some (refused .noEqualizer)
    else some (refused .wrongState) := by
  rw [firstFail_append, ownerChecks_owned h hp h.chanOk]
  cases boundOrTracking s.chans[rq.chan].state
  · rfl
  · cases heq : s.chans[rq.chan].par.eq <;> simp only [if_true, firstFail_cons, firstFail_nil] <;> rfl

/-! ### Trainings (R90) -/

theorem trainingWords_eq (x : Context) : trainingWords x =
    [if x.state = .echoTrain then 0 else 1, word (if x.state = .echoTrain then erle x else quality x),
      word (if x.state = .echoTrain then quality x else erle x), word x.trainFrames, word x.streak,
      word x.guarded] := by
  unfold trainingWords
  by_cases h : x.state = .echoTrain
  · simp only [h, beq_self_eq_true, if_true]
    rfl
  · simp only [beq_eq_false_iff_ne.2 h, h, if_false, Bool.false_eq_true]
    rfl

theorem completeTraining_idle {o : Result} (h : inTraining s.chans[c].state = false) :
    completeTraining c o s = s := by
  rw [completeTraining, h]
  rfl

theorem completeTraining_running {o : Result} (h : inTraining s.chans[c].state = true) : completeTraining c o s =
    (postLink c s.chans[c].trainLink o (trainingWords s.chans[c]) s).setChan c
      { s.chans[c] with trainLink := none } := by
  rw [completeTraining, if_pos h, State.modChan, (postLink_keeps _ _ _ _ _).2.1]

/-- The channel after its training is complete, but for its link. -/
theorem completeTraining_chan (c : Chan) (o : Result) (s : State) :
    { (completeTraining c o s).chans[c] with trainLink := none } = { s.chans[c] with trainLink := none } := by
  cases h : inTraining s.chans[c].state with
  | false => rw [completeTraining_idle h]
  | true => rw [completeTraining_running h, State.setChan_chans, getElem_set_same]

theorem startTraining_eq (st : ChanState) (rq : Request) (s : State) : startTraining st rq s =
    ({ completeTraining rq.chan .superseded (makeDeferred rq s) with
        chans := (completeTraining rq.chan .superseded (makeDeferred rq s)).chans.set rq.chan
          { (completeTraining rq.chan .superseded (makeDeferred rq s)).chans[rq.chan] with
            state := st, trainFrames := 0, streak := 0, guarded := 0, degradeStreak := 0, degraded := false
            trainLink := some rq.tag } }, deferred) := rfl

theorem makeDeferred_eq (rq : Request) (s : State) : makeDeferred rq s = { s with cbi := { s.cbi with deferred :=
    s.cbi.deferred ++ [{ ctl := rq.ctl, tag := rq.tag, ready := false, announced := false, outcome := none }] } } := rfl

/-! ### TRACK, FREEZE, THAW and RESTART (R91–R93) -/

theorem trackChan_eq (c : Chan) (s : State) : trackChan c s = (completeTraining c .aborted s).setChan c
    { (completeTraining c .aborted s).chans[c] with state := .tracking } := rfl

/-- The hold word with FREEZE set or cleared (R92). -/
theorem holdWord_freeze (x : Context) : holdWord { x with freeze := true } = (if x.lock then 3 else 1) ∧
    holdWord { x with freeze := false } = if x.lock then 2 else 0 := by
  cases x.lock <;> exact ⟨rfl, rfl⟩

/-- What RESTART leaves (R93). -/
theorem restartChan_eq (c : Chan) (s : State) : restartChan c s = { completeTraining c .aborted s with
    sal := restartStores s.chans[c] s.sal, chans := (completeTraining c .aborted s).chans.set c s.chans[c].restarted } := by
  have hsal : (completeTraining c .aborted s).sal = s.sal := (completeTraining_keeps _ _ _).2.1
  have hchan := completeTraining_chan c .aborted s
  have hstores (x : Context) (m : Sal) : restartStores x m = restartStores { x with trainLink := none } m := rfl
  have hrestarted (x : Context) : x.restarted = { x with trainLink := none }.restarted := rfl
  unfold restartChan
  simp only [State.modChan, State.setChan, State.setSal]
  rw [hsal, hstores, hrestarted, hchan, ← hstores, ← hrestarted]

/-! ### The stores after a RESTART (R43, R93, R102) -/

variable {x : Context} {m : Sal} {a : Nat}

theorem tap_restartStores (x : Context) (m : Sal) (a : Nat) : cellRead tapBlank (restartStores x m).taps a =
    cellRead tapBlank (unitInit x (zeroSegments x.segs m)).taps a := by
  rw [restartStores, (zeroPages_keeps _ _).1]

/-- A segment of the channel is zeroed, outside the equalizer's. -/
theorem tap_restartStores_zero (hm : MemoryOk m) (ha : inSegments x.segs a)
    (hg : ∀ g, x.eqSeg = some g → a < 32 * g.val ∨ 32 * g.val + 32 ≤ a) :
    cellRead tapBlank (restartStores x m).taps a = eccEncode 0 := by
  rw [tap_restartStores, tap_unitInit_out x _ (zeroSegments_ok _ _ hm) a hg]
  exact (tap_zeroSegments _ _ hm _).1 ha

theorem tap_restartStores_unit (hm : MemoryOk m) {g : Seg} (hg : x.eqSeg = some g) {i : Nat} (hi : i < 32) :
    cellRead tapBlank (restartStores x m).taps (32 * g.val + i) =
      eccEncode (if i = x.par.mainTap then 16384 else 0) := by
  rw [tap_restartStores, tap_unitInit_in x _ (zeroSegments_ok _ _ hm) g hg i hi]

theorem tap_restartStores_other (hm : MemoryOk m) (ha : ¬ inSegments x.segs a) :
    cellRead tapBlank (restartStores x m).taps a = cellRead tapBlank m.taps a := by
  have hg (g : Seg) (hg : x.eqSeg = some g) : a < 32 * g.val ∨ 32 * g.val + 32 ≤ a := by
    by_contra hin
    exact ha ⟨g, eqSeg_mem x g hg, by omega⟩
  rw [tap_restartStores, tap_unitInit_out x _ (zeroSegments_ok _ _ hm) a hg]
  exact (tap_zeroSegments _ _ hm _).2 ha

theorem hist_restartStores (hm : MemoryOk m) :
    (inPages x.pages a → cellRead histBlank (restartStores x m).hist a = parityEncode 0) ∧
      (¬ inPages x.pages a → cellRead histBlank (restartStores x m).hist a = cellRead histBlank m.hist a) := by
  have hring := hist_zeroPages x.pages _ (unitInit_ok x _ (zeroSegments_ok x.segs _ hm)) a
  rwa [(unitInit_keeps _ _).1, (zeroSegments_keeps _ _).1] at hring

/-! ### The commands -/

theorem exec_trainEcho (s : State) : exec .trainEcho s = .next (takeRequest (isKind .trainEcho) ownTrainEcho s) := rfl
theorem exec_trainEqualizer (s : State) :
    exec .trainEqualizer s = .next (takeRequest (isKind .trainEqualizer) ownTrainEqualizer s) := rfl
theorem exec_track (s : State) : exec .track s = .next (takeRequest (isKind .track) ownTrack s) := rfl
theorem exec_freeze (s : State) : exec .freeze s = .next (takeRequest (isKind .freeze) ownFreeze s) := rfl
theorem exec_thaw (s : State) : exec .thaw s = .next (takeRequest (isKind .thaw) ownThaw s) := rfl
theorem exec_restart (s : State) : exec .restart s = .next (takeRequest (isKind .restart) ownRestart s) := rfl

end Sys2Proof.Machine

open Sys2Proof Sys2Proof.Machine

/-- Settles O54: each request passes its owner's checks where its state admits it, and its effect is that of Table 5-5. -/
theorem callStateRequestsMoveTheChannel : Obligations.CallStateRequestsMoveTheChannel := by
  refine ⟨fun x => ⟨inTraining_iff x.state, trainingWords_eq x⟩,
    fun c o s => ⟨completeTraining_idle, fun h => ⟨fun k t ho hl => ?_, fun hn => ?_⟩⟩, fun rq s hp => ?_,
    fun x m hm => ?_⟩
  · rw [completeTraining_running h, postLink_some ho hl]
  · rw [completeTraining_running h, postLink_none hn]
  · refine ⟨fun h => ⟨fun hs => ?_, fun hs => ?_⟩, fun h => ⟨fun hs heq => ?_, fun hs heq => ?_, fun hb ht => ?_⟩,
      fun h => ⟨fun hs => ?_, fun hs hne => ?_, fun hs => ?_⟩, fun h hs => ?_, fun h hs => ?_, fun h hs => ?_,
      fun h hs => ?_, fun h hs => ?_, fun h hs => ?_⟩
    · rw [exec_trainEcho, takeRequest_owned h hp rfl ((boundToTracking_iff _).2 hs), startTraining_eq, makeDeferred_eq]
    · rw [exec_trainEcho, takeRequest_wrongState h hp rfl (mt (boundToTracking_iff _).1 hs)]
    · have hc := trainEqualizer_checks h hp
      rw [if_pos ((boundOrTracking_iff _).2 hs), if_pos heq] at hc
      rw [exec_trainEqualizer, takeRequest_pass h.toAdmitted rfl hc, startTraining_eq, makeDeferred_eq]
    · have hc := trainEqualizer_checks h hp
      rw [if_pos ((boundOrTracking_iff _).2 hs), if_neg (by rw [heq]; decide)] at hc
      rw [exec_trainEqualizer, takeRequest_fail h.toAdmitted rfl hc]
    · have hc := trainEqualizer_checks h hp
      rw [if_neg (mt (boundOrTracking_iff _).1 (by tauto))] at hc
      rw [exec_trainEqualizer, takeRequest_fail h.toAdmitted rfl hc]
    · rw [exec_track, takeRequest_owned h hp rfl ((boundToTracking_iff _).2 (by tauto)), if_pos hs]
    · rw [exec_track, takeRequest_owned h hp rfl ((boundToTracking_iff _).2 hs), if_neg hne, trackChan_eq]
    · rw [exec_track, takeRequest_wrongState h hp rfl (mt (boundToTracking_iff _).1 hs)]
    · rw [exec_freeze, takeRequest_owned h hp rfl ((loadingToFault_iff _).2 (by tauto)), setFreeze,
        (holdWord_freeze _).1, State.modChan]
    · rw [exec_thaw, takeRequest_owned h hp rfl ((loadingToFault_iff _).2 (by tauto)), setFreeze,
        (holdWord_freeze _).2, State.modChan]
    · rw [exec_freeze, takeRequest_wrongState h hp rfl]
      rcases hs with hs | hs <;> rw [hs] <;> decide
    · rw [exec_thaw, takeRequest_wrongState h hp rfl]
      rcases hs with hs | hs <;> rw [hs] <;> decide
    · rw [exec_restart, takeRequest_wrongState h hp rfl]
      rcases hs with hs | hs | hs <;> rw [hs] <;> decide
    · rw [exec_restart, takeRequest_owned h hp rfl ((boundToFault_iff _).2 hs), restartChan_eq, restartStores,
        Context.restarted]
  · exact ⟨fun a ha hg => tap_restartStores_zero hm ha hg, fun g hg i hi => tap_restartStores_unit hm hg hi,
      fun a ha => tap_restartStores_other hm ha, fun a => (hist_restartStores hm).1,
      fun a => (hist_restartStores hm).2⟩
end

section
/-! The queries (R99, R120, R142, R164, R177, R190): their result words, and that they change nothing. -/

namespace Sys2Proof.Machine

variable {k : Kind} {rq : Request} {s : State}

/-! ### Result words -/

theorem partWords_eq (rq : Request) (s : State) : partWords rq s =
    [0x0140, word s.btl.status.code, if s.btl.gateOpen then 1 else 0,
      word ((if s.hwi.line.inSync then 1 else 0) + if s.hwi.modem.inSync then 2 else 0),
      word (s.btl.timebase.toNat / 65536), word s.btl.timebase.toNat,
      word (((List.finRange 4).map fun k => if s.cbi.attached[k] then 2 ^ k.val else 0).sum + 16 * rq.ctl.val),
      word (s.cbi.queue.length + if s.cbi.grant.isSome then 1 else 0)]
      ++ (List.finRange 4).map fun k => word (s.cbi.deferred.filter fun e => e.ctl = k).length := by
  have hgate : word (bit s.btl.gateOpen 0) = if s.btl.gateOpen then 1 else 0 := by cases s.btl.gateOpen <;> rfl
  rw [partWords, hgate]
  rfl

theorem zeroWords_eq (p : PartZero) : zeroWords p =
    [(if p.law = .a then 1 else 0 : Word), (p.usable >>> 16).setWidth 16, p.usable.setWidth 16,
      word p.shareSeg[0], word p.sharePage[0], word p.shareSeg[1], word p.sharePage[1],
      word p.shareSeg[2], word p.sharePage[2], word p.shareSeg[3], word p.sharePage[3],
      word p.lockLimit, word p.waitLimit, word p.evLevel, word p.evHold] := by
  unfold zeroWords
  cases p.law <;> rfl

theorem oneWords_eq (d : PartOne) : oneWords d =
    [word d.aEchoTrain, word d.aEchoTrack, word d.aEqTrain, word d.aEqTrack, word d.erleTarget, word d.qualTarget,
      word d.holdCount, word d.timeout, word d.gate, word (d.pfloor / 65536), word d.pfloor, word d.guard,
      word d.degradeMargin, word d.degradeCount, word d.quietLevel, word d.quietLimit, word d.mainTap, word d.lag,
      word d.near, word d.far, word d.bulk, if d.eq then 1 else 0] := by
  have heq : word (bit d.eq 0) = if d.eq then 1 else 0 := by cases d.eq <;> rfl
  rw [oneWords, heq]
  rfl

theorem storeWords_eq (s : State) : storeWords s = [word s.sal.freeSegs.length, word s.sal.freePages.length,
    word ((s.chans.toList.filter fun x => x.owner = none).map fun x => x.segs.length).sum,
    word ((s.chans.toList.filter fun x => x.owner = none).map fun x => x.pages.length).sum]
      ++ (List.finRange 4).flatMap fun k => [word s.sal.heldSeg[k], word s.sal.heldPage[k],
        word s.btl.part0.shareSeg[k], word s.btl.part0.sharePage[k]] := by
  have horphan : (fun x : Context => x.owner.isNone) = fun x => decide (x.owner = none) :=
    funext fun x => by cases x.owner <;> rfl
  rw [storeWords, orphaned, orphaned, horphan]

/-- A FREE channel reads as after power-on; one without units has neither measures nor lists (R99, log entry 22). -/
theorem queryChannel_eq (part : Nat) (x : Context) : queryChannel part x =
    if part = 0 then
      if x.state = .free then [0, 0xFFFF, 0xFFFF] ++ List.replicate 14 0xFFFF ++ [0, 0, 0xFFFF] ++ List.replicate 7 0
      else channelWords x
    else if x.state = .free ∨ x.state = .pending then List.replicate 25 0
    else if part = 1 then measureWords x else listWords x := by
  have hfree : channelWords initialContext =
      [0, 0xFFFF, 0xFFFF] ++ List.replicate 14 0xFFFF ++ [0, 0, 0xFFFF] ++ List.replicate 7 0 := by decide
  have hlists : listWords initialContext = List.replicate 25 0 := by decide
  unfold queryChannel
  by_cases hf : x.state = .free
  · simp only [hf, if_true, hfree, hlists, true_or, reduceCtorEq, ite_self]
  · by_cases hp : x.state = .pending
    · simp only [hp, if_true, if_false, or_true, ite_self, reduceCtorEq]
    · simp only [hf, hp, if_false, or_self]

/-! ### The commands -/

theorem exec_queryPart (s : State) : exec .queryPart s = .next (takeRequest (isKind .queryPart) ownQueryPart s) := rfl
theorem exec_readDefaults (s : State) :
    exec .readDefaults s = .next (takeRequest (isKind .readDefaults) ownReadDefaults s) := rfl
theorem exec_queryStore (s : State) :
    exec .queryStore s = .next (takeRequest (isKind .queryStore) ownQueryStore s) := rfl
theorem exec_queryChannel (s : State) :
    exec .queryChannel s = .next (takeRequest (isKind .queryChannel) ownQueryChannel s) := rfl
theorem exec_listProfiles (s : State) :
    exec .listProfiles s = .next (takeRequest (isKind .listProfiles) ownListProfiles s) := rfl

/-- A query that has its form passes its check of form and its check of range. -/
theorem formRange_pass {form out : Bool} (hf : form = true) (hr : out = false) :
    firstFail [(!form, refused .badRequest), (out, refused .outOfRange)] = none := by
  rw [hf, hr]
  rfl

theorem formRange_fail {form out : Bool} (hf : form = true) (hr : out = true) :
    firstFail [(!form, refused .badRequest), (out, refused .outOfRange)] = some (refused .outOfRange) := by
  rw [hf, hr]
  rfl

/-- READ DEFAULTS has a form for the parts 0 and 1 (R190). -/
theorem readDefaults_pass (h : Admitted .readDefaults rq s) (hp : rq.plain 1 = true) (hn : rq.num 0 ≤ 1) :
    exec .readDefaults s = .next (answerFirst (done (defaultWords (rq.num 0) s)) s) := by
  have hc : firstFail [(decide (1 < rq.num 0) || !rq.plain 1, refused .badRequest)] = none := by
    rw [decide_eq_false (Nat.not_lt.2 hn), hp]
    rfl
  rw [exec_readDefaults, takeRequest_pass h rfl hc]

theorem readDefaults_fail (h : Admitted .readDefaults rq s) (hn : 1 < rq.num 0) :
    exec .readDefaults s = .next (answerFirst (refused .badRequest) s) := by
  have hc : firstFail [(decide (1 < rq.num 0) || !rq.plain 1, refused .badRequest)] = some (refused .badRequest) := by
    rw [decide_eq_true hn]
    rfl
  rw [exec_readDefaults, takeRequest_fail h rfl hc]

end Sys2Proof.Machine

open Sys2Proof Sys2Proof.Machine

/-- Settles O50: each query passes its checks, is answered with its words, and leaves the state as it is. -/
theorem queriesReportAndChangeNothing : Obligations.QueriesReportAndChangeNothing := by
  refine ⟨⟨rfl, rfl, rfl, rfl, rfl⟩, fun rq s h hp => ?_,
    fun rq s h hp => ⟨fun hn => ?_, fun hn => ?_, readDefaults_fail h⟩,
    fun rq s h hp => ⟨fun hn => ?_, fun hn => ?_, fun hn => ?_⟩, fun rq s h hp => ⟨fun hc hn => ?_, fun hn => ?_⟩,
    fun rq s h hp => ⟨fun hn => ?_, fun hn => ?_⟩⟩
  · have hc : firstFail [(!rq.plain 0, refused .badRequest)] = none := by rw [hp]; rfl
    rw [exec_queryPart, takeRequest_reaches h (fun _ => rfl) (fun _ => .inr rfl), ownQueryPart, checked_pass _ _ _ hc,
      partWords_eq]
  · rw [readDefaults_pass h hp (by omega), defaultWords, if_pos hn, zeroWords_eq]
  · rw [readDefaults_pass h hp (by omega), defaultWords, if_neg (by omega), oneWords_eq]
  · rw [exec_queryStore, takeRequest_pass h rfl (formRange_pass hp (decide_eq_false (by omega))), if_pos hn,
      storeWords_eq]
  · rw [exec_queryStore, takeRequest_pass h rfl (formRange_pass hp (decide_eq_false (by omega))), if_neg (by omega)]
    rfl
  · rw [exec_queryStore, takeRequest_fail h rfl (formRange_fail hp (decide_eq_true hn))]
  · have hc' : (!(rq.chanOk && decide (rq.num 1 ≤ 2))) = false := by
      rw [Request.chanOk, inRange, decide_eq_true ⟨Nat.zero_le _, Nat.le_of_lt_succ hc⟩, decide_eq_true hn]
      rfl
    rw [exec_queryChannel, takeRequest_pass h rfl (formRange_pass hp hc'), queryChannel_eq]
    rfl
  · have hc : (!(rq.chanOk && decide (rq.num 1 ≤ 2))) = true := by
      simp only [Request.chanOk, inRange, Bool.not_eq_true', Bool.and_eq_false_iff, decide_eq_false_iff_not]
      omega
    rw [exec_queryChannel, takeRequest_fail h rfl (formRange_fail hp hc)]
  · rw [exec_listProfiles, takeRequest_pass h rfl (formRange_pass hp (decide_eq_false (by omega)))]
    rfl
  · rw [exec_listProfiles, takeRequest_fail h rfl (formRange_fail hp (decide_eq_true hn))]
end

section
/-! BIND: its record's fields, its parameters, and its grant, refusal or wait (R78–R85, R112, R126, R161). -/

namespace Sys2Proof.Machine

variable {rq : Request} {s t : State}

/-! ### The given set of a BIND (R161) -/

/-- A field of the given set: its word stands at the number of given fields before it. -/
theorem givenFrom_getD (mask : Word) (is : List Nat) (ws : List Word)
    (hws : (is.filter fun i => mask.getLsbD i).length ≤ ws.length) {n : Nat} (hn : n < is.length) :
    (givenFrom mask is ws).getD n none = if mask.getLsbD is[n] then
      some (ws.getD ((is.take n).filter fun i => mask.getLsbD i).length 0).toNat else none := by
  induction is generalizing ws n with
  | nil => exact absurd hn (Nat.not_lt_zero n)
  | cons i is ih =>
    unfold givenFrom
    cases hi : mask.getLsbD i with
    | false =>
      simp only [List.filter_cons, hi, Bool.false_eq_true, if_false] at hws ⊢
      cases n with
      | zero => simp only [List.getElem_cons_zero, hi, Bool.false_eq_true, if_false, List.getD_cons_zero]
      | succ n =>
        have hlater := ih ws hws (Nat.lt_of_succ_lt_succ hn)
        simpa only [List.getD_cons_succ, List.getElem_cons_succ, List.take_succ_cons, List.filter_cons, hi,
          Bool.false_eq_true, if_false] using hlater
    | true =>
      simp only [List.filter_cons, hi, if_true, List.length_cons] at hws ⊢
      cases ws with
      | nil => exact absurd hws (Nat.not_succ_le_zero _)
      | cons w ws =>
        cases n with
        | zero => simp only [List.getElem_cons_zero, hi, if_true, List.getD_cons_zero, List.take_zero, List.filter_nil,
            List.length_nil]
        | succ n =>
          have hlater := ih ws (Nat.le_of_succ_le_succ hws) (Nat.lt_of_succ_lt_succ hn)
          simpa only [List.getD_cons_succ, List.getElem_cons_succ, List.take_succ_cons, List.filter_cons, hi,
            if_true, List.length_cons] using hlater

/-- In a BIND of good form the words suffice for the given set, and its bit 15 is clear (R161). -/
theorem bindForm_words (hf : rq.bindForm = true) (hl : rq.words.length = rq.length) :
    ((List.range 15).filter fun i => (rq.word 5).getLsbD i).length ≤ (rq.words.drop 6).length := by
  simp only [Request.bindForm, Request.plain, Bool.and_eq_true, beq_iff_eq] at hf
  obtain ⟨⟨⟨⟨hlen, -⟩, -⟩, -⟩, -⟩ := hf
  have hones : ((List.range 15).filter fun i => (rq.word 5).getLsbD i).length ≤ ones (rq.word 5) := by
    rw [ones, List.range_succ (n := 15), List.filter_append, List.length_append]
    exact Nat.le_add_right _ _
  rw [List.length_drop, hl, hlen]
  omega

theorem givenAt_eq (hf : rq.bindForm = true) (hl : rq.words.length = rq.length) {i : Nat} (hi : i < 15) :
    rq.givenAt i = if (rq.word 5).getLsbD i then
      some (rq.num (6 + ((List.range i).filter fun j => (rq.word 5).getLsbD j).length)) else none := by
  have hfield := givenFrom_getD (rq.word 5) (List.range 15) (rq.words.drop 6) (bindForm_words hf hl)
    (n := i) (by rwa [List.length_range])
  have hdrop (j : Nat) : (rq.words.drop 6).getD j 0 = rq.word (6 + j) := by
    simp only [Request.word, List.getD_eq_getElem?_getD, List.getElem?_drop]
  rw [List.getElem_range, List.take_range, Nat.min_eq_left hi.le, hdrop] at hfield
  exact hfield

/-! ### The parameters (R80) -/

/-- A value from the given set, else from the profile, else by default. -/
theorem pick_eq (a b : Option Nat) (n : Nat) : a.getD (b.getD n) = match a, b with
    | some v, _ => v
    | none, some v => v
    | none, none => n := by
  cases a <;> cases b <;> rfl

theorem pick_map (a : Option Nat) (d : Option Descriptor) (f : Descriptor → Nat) (n : Nat) :
    a.getD ((d.map f).getD n) = match a, d.bind fun e => some (f e) with
      | some v, _ => v
      | none, some v => v
      | none, none => n := by
  rw [Option.map_eq_bind]
  exact pick_eq _ _ _

theorem pick_none (a : Option Nat) (d : Option Descriptor) (n : Nat) : a.getD ((none : Option Nat).getD n) =
    match a, d.bind fun _ => none with
      | some v, _ => v
      | none, some v => v
      | none, none => n := by
  cases d <;> exact pick_eq a none n

/-! ### Profiles found (R79) -/

theorem findProfile_congr (h : ∀ r : Rec, t.pfs.recs[r].state = s.pfs.recs[r].state ∧
    t.pfs.recs[r].key = s.pfs.recs[r].key) (k : Key) : findProfile k t = findProfile k s := by
  simp only [findProfile, (h _).1, (h _).2]

theorem findValid_congr (h : ∀ r : Rec, t.pfs.recs[r].state = s.pfs.recs[r].state ∧
    t.pfs.recs[r].key = s.pfs.recs[r].key) (k : Key) : findValid k t = findValid k s := by
  simp only [findValid, findProfile_congr h, (h _).1]

theorem findProfile_some {k : Key} {r : Rec} (h : findProfile k s = some r) :
    s.pfs.recs[r].state ≠ .empty ∧ s.pfs.recs[r].key = some k := by
  have := List.find?_some h
  simpa using this

theorem foundProfile_some_iff (rq : Request) (s : State) (r : Rec) : foundProfile rq s = some r ↔
    ∃ key, rq.bindKey = some key ∧ findProfile key s = some r ∧ s.pfs.recs[r].state = .valid := by
  simp only [foundProfile, findValid, Option.bind_eq_some_iff, Option.filter_eq_some_iff, beq_iff_eq]

/-! ### What a BIND records (R73, R75, R80) -/

/-- The channel's context as a BIND without a found profile records it. -/
def plainContext (rq : Request) (s : State) : Context :=
  { s.chans[rq.chan] with
    owner := some rq.ctl, slot := some (Fin.ofNat 32 (rq.num 1)), params := some (bindParams rq s)
    relation := if rq.learns then .learn else .none, bound := none
    learn := if rq.learns then rq.bindKey else none, load := none, bindLink := none }

/-- The same with a profile found: it is bound when it has no channel, and copied when it has one. -/
def loadingContext (rq : Request) (key : Key) (r : Rec) (s : State) : Context :=
  { plainContext rq s with
    bindLink := some rq.tag, learn := none, load := some key
    relation := if s.pfs.recs[r].boundChan.isNone then .boundProfile else .copy
    bound := if s.pfs.recs[r].boundChan.isNone then some key else none }

/-- The profiles after a BIND that found one: its record is bound to the channel when it had none (R125). -/
def boundPfs (c : Chan) (r : Rec) (s : State) : Pfs :=
  if s.pfs.recs[r].boundChan.isNone then
    { s.pfs with recs := s.pfs.recs.set r { s.pfs.recs[r] with boundChan := some c } }
  else s.pfs

theorem recordBind_plain (h : foundProfile rq s = none) (link : Option Tag) :
    recordBind rq link s = s.setChan rq.chan { plainContext rq s with bindLink := link } := by
  have hrel : bindRelation rq s = if rq.learns then .learn else .none := by rw [bindRelation, h]
  rw [recordBind_eq, h]
  unfold boundContext plainContext
  rw [hrel]
  cases rq.learns <;> rfl

theorem recordBind_found {key : Key} {r : Rec} (hk : rq.bindKey = some key) (h : foundProfile rq s = some r) :
    recordBind rq (some rq.tag) s = { s with
      chans := s.chans.set rq.chan (loadingContext rq key r s), pfs := boundPfs rq.chan r s } := by
  have hrel : bindRelation rq s = if s.pfs.recs[r].boundChan.isNone then .boundProfile else .copy := by
    rw [bindRelation, h]
  rw [recordBind_eq, h]
  unfold boundContext loadingContext boundPfs
  rw [hrel, hk]
  cases s.pfs.recs[r].boundChan.isNone <;> rfl

theorem boundPfs_recs (c : Chan) (r : Rec) (s : State) : (boundPfs c r s).recs = s.pfs.recs.set r
    { s.pfs.recs[r] with
      boundChan := if s.pfs.recs[r].boundChan = none then some c else s.pfs.recs[r].boundChan } := by
  unfold boundPfs
  cases h : s.pfs.recs[r].boundChan with
  | none => rfl
  | some d =>
    simp only [Option.isNone_some, Bool.false_eq_true, if_false, reduceCtorEq]
    rw [← h]
    exact (Vector.set_getElem_self r.isLt).symm

theorem boundPfs_recency (c : Chan) (r : Rec) (s : State) : (boundPfs c r s).recency = s.pfs.recency := by
  unfold boundPfs
  split <;> rfl

/-! ### The decision on room (R81, R112) -/

theorem bindChecks_bindable (h : Bindable rq s) : firstFail (bindChecks rq s) = none := by
  have hstate : (s.chans[rq.chan].state != .free) = false := by rw [h.free]; rfl
  have hslot : (s.chans.toList.any fun x => x.slot == some (Fin.ofNat 32 (rq.num 1))) = false := by
    refine List.any_eq_false.2 fun x hx => ?_
    obtain ⟨i, hi, rfl⟩ := List.getElem_of_mem hx
    simpa using h.unused ⟨i, by simpa using hi⟩
  have hwindow : windowOk (bindParams rq s).near (bindParams rq s).far (bindParams rq s).bulk = true :=
    decide_eq_true h.window
  simp only [bindChecks, openChecks, List.cons_append, List.nil_append, firstFail_cons, firstFail_nil, h.form, h.gate,
    h.range, h.usable, hstate, hslot, hwindow, Bool.not_true, Bool.false_eq_true, if_false]

theorem exec_bind (h : Bindable rq s) :
    exec .bind s = .next (answerFirst (bindRoom rq s).2 (bindRoom rq s).1) :=
  congrArg Host.Outcome.next (takeRequest_pass (own := ownBind) h.toAdmitted rfl (bindChecks_bindable h))

/-- The reservation check of a BIND (R110). -/
def bindFits (rq : Request) (s : State) : Bool :=
  roomFor rq.ctl (bindParams rq s).segsNeeded (bindParams rq s).pagesNeeded s

theorem bindRoom_plain (hq : s.sal.waitQ = []) (hr : bindFits rq s = true) (h : foundProfile rq s = none) :
    bindRoom rq s = (grant rq.chan (bindParams rq s).segsNeeded (bindParams rq s).pagesNeeded
        (s.setChan rq.chan (plainContext rq s)),
      done (bindWords rq.chan .bound (grant rq.chan (bindParams rq s).segsNeeded (bindParams rq s).pagesNeeded
        (s.setChan rq.chan (plainContext rq s))).chans[rq.chan])) := by
  have hcond : (s.sal.waitQ.isEmpty && roomFor rq.ctl (bindParams rq s).segsNeeded (bindParams rq s).pagesNeeded s) =
      true := by
    rw [hq]
    exact hr
  have hfound : ¬ (foundProfile rq s).isSome = true := by rw [h]; decide
  have hrecord : recordBind rq none s = s.setChan rq.chan (plainContext rq s) := recordBind_plain h none
  rw [bindRoom, if_pos hcond, bindAtOnce, if_neg hfound, hrecord]

theorem bindRoom_found {key : Key} {r : Rec} (hq : s.sal.waitQ = []) (hr : bindFits rq s = true)
    (hk : rq.bindKey = some key) (h : foundProfile rq s = some r) :
    bindRoom rq s = (grant rq.chan (bindParams rq s).segsNeeded (bindParams rq s).pagesNeeded
      { makeDeferred rq s with
        chans := s.chans.set rq.chan (loadingContext rq key r s), pfs := boundPfs rq.chan r s }, deferred) := by
  have hcond : (s.sal.waitQ.isEmpty && roomFor rq.ctl (bindParams rq s).segsNeeded (bindParams rq s).pagesNeeded s) =
      true := by
    rw [hq]
    exact hr
  have hfound : (foundProfile rq s).isSome = true := by rw [h]; rfl
  have hrecord := recordBind_found (s := makeDeferred rq s) hk h
  rw [bindRoom, if_pos hcond, bindAtOnce, if_pos hfound, hrecord]
  rfl

/-- Without room, or behind a wait queue, a BIND is refused, put off or made to wait (R112). -/
theorem bindRoom_waits (h : s.sal.waitQ ≠ [] ∨ bindFits rq s = false) : bindRoom rq s =
    if rq.mayWait = false then (s, refused .noRoom)
    else if 8 ≤ s.sal.waitQ.length then (s, retry .waitQueueFull) else (enterPending rq s, deferred) := by
  have hcond : ¬ (s.sal.waitQ.isEmpty &&
      roomFor rq.ctl (bindParams rq s).segsNeeded (bindParams rq s).pagesNeeded s) = true := by
    rw [Bool.and_eq_true, List.isEmpty_iff]
    rintro ⟨hq, hr⟩
    rcases h with h | h
    · exact h hq
    · rw [bindFits, hr] at h
      cases h
  rw [bindRoom, if_neg hcond]
  cases rq.mayWait <;> rfl

/-- The wait entry of a BIND (R83, R112). -/
def bindWait (rq : Request) (s : State) : WaitEntry :=
  { chan := rq.chan, ctl := rq.ctl, segs := (bindParams rq s).segsNeeded, pages := (bindParams rq s).pagesNeeded
    accepted := s.btl.timebase, limit := (bindParams rq s).waitLimit }

theorem enterPending_plain (h : foundProfile rq s = none) : enterPending rq s = { makeDeferred rq s with
    chans := s.chans.set rq.chan { plainContext rq s with state := .pending, bindLink := some rq.tag }
    sal := { s.sal with waitQ := s.sal.waitQ ++ [bindWait rq s] } } := by
  have hrecord := recordBind_plain (s := makeDeferred rq s) h (some rq.tag)
  unfold enterPending
  simp only [hrecord, State.modChan, State.setChan, State.setSal, getElem_set_same, Vector.set_set]
  rfl

theorem enterPending_found {key : Key} {r : Rec} (hk : rq.bindKey = some key) (h : foundProfile rq s = some r) :
    enterPending rq s = { makeDeferred rq s with
      chans := s.chans.set rq.chan { loadingContext rq key r s with state := .pending }
      sal := { s.sal with waitQ := s.sal.waitQ ++ [bindWait rq s] }
      pfs := boundPfs rq.chan r s } := by
  have hrecord := recordBind_found (s := makeDeferred rq s) hk h
  unfold enterPending
  simp only [hrecord, State.modChan, State.setChan, State.setSal, getElem_set_same, Vector.set_set]
  rfl

end Sys2Proof.Machine
end

section
/-! BIND settled: the grant that loads a found profile (R84, R126). -/

namespace Sys2Proof.Machine

variable {rq : Request} {s : State} {c : Chan} {key : Key} {r : Rec}

/-- A grant that loads, whole: LOADING, with its job at the end of the queue and its profile in front (R126). -/
theorem grant_loading_eq (hl : s.chans[c].load = some key) (hv : findValid key s = some r) (n p : Nat) :
    grant c n p s = { s with
      sal := grantSal c n p s
      chans := s.chans.set c { grantContext c n p s with load := none, state := .loading }
      jobs := s.jobs ++ [{
        kind := .load, chan := c, key, moved := 0, queuedAt := s.hwi.line.frame
        count := min s.pfs.recs[r].desc.near s.chans[c].par.near
          + (if s.pfs.recs[r].desc.eq && s.chans[c].par.eq then 1 else 0)
        eqLast := s.pfs.recs[r].desc.eq && s.chans[c].par.eq }]
      pfs := {
        recs := s.pfs.recs.set r { s.pfs.recs[r] with useCount := min 65535 (s.pfs.recs[r].useCount + 1) }
        recency := toFront r s.pfs.recency } } := by
  have ht := (grant_loading hl hv n p).trans (queueLoad_eq _ _ _ _)
  rw [unitsGranted_chan] at ht
  simp only [unitsGranted, Vector.set_set] at ht
  exact ht

/-- The state of a BIND that found a profile, before its grant. -/
def loadBound (rq : Request) (key : Key) (r : Rec) (s : State) : State :=
  { makeDeferred rq s with
    chans := s.chans.set rq.chan (loadingContext rq key r s), pfs := boundPfs rq.chan r s }

theorem loadBound_chan (rq : Request) (key : Key) (r : Rec) (s : State) :
    (loadBound rq key r s).chans[rq.chan] = loadingContext rq key r s := getElem_set_same _ _ _

theorem boundPfs_states (c : Chan) (r : Rec) (s : State) (q : Rec) :
    (boundPfs c r s).recs[q].state = s.pfs.recs[q].state ∧ (boundPfs c r s).recs[q].key = s.pfs.recs[q].key := by
  rw [boundPfs_recs, getElem_set_fin]
  split
  · next h => rw [← h]; exact ⟨rfl, rfl⟩
  · exact ⟨rfl, rfl⟩

theorem loadBound_valid (hk : rq.bindKey = some key) (h : foundProfile rq s = some r) :
    findValid key (loadBound rq key r s) = some r := by
  rw [findValid_congr (s := s) (fun q => boundPfs_states rq.chan r s q)]
  rwa [foundProfile, hk] at h

/-- The grant of a BIND that found a profile. -/
theorem grant_loadBound (hk : rq.bindKey = some key) (h : foundProfile rq s = some r) (n p : Nat) :
    grant rq.chan n p (loadBound rq key r s) = { loadBound rq key r s with
      sal := grantSal rq.chan n p (loadBound rq key r s)
      chans := (loadBound rq key r s).chans.set rq.chan
        { grantContext rq.chan n p (loadBound rq key r s) with load := none, state := .loading }
      jobs := s.jobs ++ [{
        kind := .load, chan := rq.chan, key, moved := 0, queuedAt := s.hwi.line.frame
        count := min (loadBound rq key r s).pfs.recs[r].desc.near (loadBound rq key r s).chans[rq.chan].par.near
          + (if (loadBound rq key r s).pfs.recs[r].desc.eq && (loadBound rq key r s).chans[rq.chan].par.eq
            then 1 else 0)
        eqLast := (loadBound rq key r s).pfs.recs[r].desc.eq && (loadBound rq key r s).chans[rq.chan].par.eq }]
      pfs := {
        recs := (loadBound rq key r s).pfs.recs.set r { (loadBound rq key r s).pfs.recs[r] with
          useCount := min 65535 ((loadBound rq key r s).pfs.recs[r].useCount + 1) }
        recency := toFront r (loadBound rq key r s).pfs.recency } } :=
  grant_loading_eq (by rw [loadBound_chan]; rfl) (loadBound_valid hk h) n p

/-- The found record before the grant. -/
theorem loadBound_rec (rq : Request) (key : Key) (r : Rec) (s : State) : (loadBound rq key r s).pfs.recs[r] =
    { s.pfs.recs[r] with
      boundChan := if s.pfs.recs[r].boundChan = none then some rq.chan else s.pfs.recs[r].boundChan } := by
  change (boundPfs rq.chan r s).recs[r] = _
  rw [boundPfs_recs, getElem_set_same]

theorem grant_loadBound_chan (hk : rq.bindKey = some key) (h : foundProfile rq s = some r) (n p : Nat) :
    (grant rq.chan n p (loadBound rq key r s)).chans[rq.chan] =
      { (loadingContext rq key r s).atBind (s.sal.freeSegs.take n) (s.sal.freePages.take p) with
        load := none, state := .loading } := by
  rw [grant_loadBound hk h, getElem_set_same, grantContext, loadBound_chan]
  rfl

theorem grant_loadBound_other (hk : rq.bindKey = some key) (h : foundProfile rq s = some r) (n p : Nat) {d : Chan}
    (hd : d ≠ rq.chan) : (grant rq.chan n p (loadBound rq key r s)).chans[d] = s.chans[d] := by
  rw [grant_loadBound hk h, getElem_set_other _ _ _ _ (Ne.symm hd)]
  exact getElem_set_other _ _ _ _ (Ne.symm hd)

theorem grant_loadBound_jobs (hk : rq.bindKey = some key) (h : foundProfile rq s = some r) (n p : Nat) :
    (grant rq.chan n p (loadBound rq key r s)).jobs = s.jobs ++ [{
      kind := .load, chan := rq.chan, key, moved := 0, queuedAt := s.hwi.line.frame
      count := min s.pfs.recs[r].desc.near (bindParams rq s).near
        + (if s.pfs.recs[r].desc.eq && (bindParams rq s).eq then 1 else 0)
      eqLast := s.pfs.recs[r].desc.eq && (bindParams rq s).eq }] := by
  rw [grant_loadBound hk h, loadBound_rec, loadBound_chan]
  rfl

/-- The found profile comes to the front of the recency list, used once more and bound (R122, R125, R126). -/
theorem grant_loadBound_pfs (hk : rq.bindKey = some key) (h : foundProfile rq s = some r) (n p : Nat) :
    (grant rq.chan n p (loadBound rq key r s)).pfs.recency = r :: s.pfs.recency.filter (· != r) ∧
      (grant rq.chan n p (loadBound rq key r s)).pfs.recs = s.pfs.recs.set r { s.pfs.recs[r] with
        useCount := min 65535 (s.pfs.recs[r].useCount + 1)
        boundChan := if s.pfs.recs[r].boundChan = none then some rq.chan else s.pfs.recs[r].boundChan } := by
  have hrecs : (loadBound rq key r s).pfs.recs = _ := boundPfs_recs rq.chan r s
  have hrecency : (loadBound rq key r s).pfs.recency = s.pfs.recency := boundPfs_recency rq.chan r s
  rw [grant_loadBound hk h, loadBound_rec, hrecs, hrecency, Vector.set_set]
  exact ⟨rfl, rfl⟩

theorem grant_loadBound_rest (hk : rq.bindKey = some key) (h : foundProfile rq s = some r) (n p : Nat) :
    (grant rq.chan n p (loadBound rq key r s)).sal.waitQ = s.sal.waitQ ∧
      { grant rq.chan n p (loadBound rq key r s) with
        chans := s.chans, sal := s.sal, pfs := s.pfs, jobs := s.jobs, cbi := s.cbi } = s := by
  rw [grant_loadBound hk h]
  refine ⟨?_, rfl⟩
  simp only [grantSal, unitInit_keeps, credit_keeps, allocate_keeps]
  rfl

theorem grant_loadBound_cbi (hk : rq.bindKey = some key) (h : foundProfile rq s = some r) (n p : Nat) :
    (grant rq.chan n p (loadBound rq key r s)).cbi = (makeDeferred rq s).cbi := by
  rw [grant_loadBound hk h]
  rfl

/-- The plain grant's channel: BOUND, its units listed, with nothing to load. -/
theorem grant_plain_words (h : ∀ key, (s.chans[c]).load ≠ some key) (n p : Nat) :
    bindWords c .bound (grant c n p s).chans[c] = [word c.val, 1, 3, word s.chans[c].relation.code,
      word s.chans[c].par.near, word s.chans[c].par.far, word s.chans[c].par.bulk, if s.chans[c].par.eq then 1 else 0,
      word s.chans[c].par.mainTap, word s.chans[c].par.lag] := by
  rw [grant_bound (fun key hk => absurd hk (h key)), getElem_set_same]
  exact bindWords_nothingToLoad c (grantContext c n p s)

end Sys2Proof.Machine

open Sys2Proof Sys2Proof.Machine

/-- Settles O52: the parameters and the record's fields, then the four ways of a BIND that passes its checks. -/
theorem bindGrantsLoadsOrWaits : Obligations.BindGrantsLoadsOrWaits := by
  refine ⟨fun rq d p0 p1 => ?_, fun rq s => ⟨rfl, rfl, rfl, fun hf hl i hi => givenAt_eq hf hl hi,
    foundProfile_some_iff rq s, rfl⟩, fun rq s hb => ?_⟩
  · exact ⟨pick_map _ d _ _, pick_map _ d _ _, pick_map _ d _ _, congrArg (fun v => decide (v = 1)) (pick_none _ d _),
      pick_eq _ _ _, pick_eq _ _ _, pick_eq _ _ _, pick_eq _ _ _, pick_none _ d _, pick_none _ d _, pick_none _ d _,
      pick_none _ d _, pick_map _ d _ _, pick_map _ d _ _, pick_none _ d _⟩
  · refine ⟨fun hnone hq hroom => ?_, fun r key hk hr hq hroom => ?_, fun hwait => ⟨fun hm => ?_, fun hm hfull => ?_,
      fun hm hfull hnone => ?_, fun hm hfull r key hk hr => ?_⟩⟩
    · have hfits : bindFits rq s = true := decide_eq_true hroom
      have hload (key : Key) : ((s.setChan rq.chan (plainContext rq s)).chans[rq.chan]).load ≠ some key := by
        rw [State.setChan_chans, getElem_set_same]
        exact nofun
      rw [exec_bind hb, bindRoom_plain hq hfits hnone, grant_plain_words hload, State.setChan_chans, getElem_set_same]
      rfl
    · have hfits : bindFits rq s = true := decide_eq_true hroom
      have hx := grant_loadBound_chan (s := s) hk hr (bindParams rq s).segsNeeded (bindParams rq s).pagesNeeded
      obtain ⟨hrecency, hrecs⟩ :=
        grant_loadBound_pfs (s := s) hk hr (bindParams rq s).segsNeeded (bindParams rq s).pagesNeeded
      obtain ⟨hwaitQ, hrest⟩ :=
        grant_loadBound_rest (s := s) hk hr (bindParams rq s).segsNeeded (bindParams rq s).pagesNeeded
      refine ⟨grant rq.chan (bindParams rq s).segsNeeded (bindParams rq s).pagesNeeded (loadBound rq key r s), ?_, ?_,
        ?_⟩
      · rw [exec_bind hb, bindRoom_found hq hfits hk hr]
        rfl
      · rfl
      · rw [hx, grant_loadBound_cbi hk hr]
        refine ⟨rfl, rfl, rfl, rfl, rfl, rfl, rfl, rfl, rfl, grant_loadBound_jobs hk hr _ _, hrecency, hrecs,
          fun hb => ?_, fun hb => ?_, fun d hd => grant_loadBound_other hk hr _ _ hd, hwaitQ.trans hq, hrest⟩
        · simp only [loadingContext, Context.atBind, hb, Option.isNone_none, if_true, and_self]
        · simp only [loadingContext, Context.atBind, Option.isNone_eq_false_iff.2 (Option.isSome_iff_ne_none.2 hb),
            Bool.false_eq_true, if_false, and_self]
    · rw [exec_bind hb, bindRoom_waits (hwait.imp_right decide_eq_false), if_pos hm]
    · rw [exec_bind hb, bindRoom_waits (hwait.imp_right decide_eq_false), if_neg (by rw [hm]; decide), if_pos hfull]
    · rw [exec_bind hb, bindRoom_waits (hwait.imp_right decide_eq_false), if_neg (by rw [hm]; decide), if_neg (by omega),
        enterPending_plain hnone]
      rfl
    · rw [exec_bind hb, bindRoom_waits (hwait.imp_right decide_eq_false), if_neg (by rw [hm]; decide), if_neg (by omega),
        enterPending_found hk hr]
      rfl
end

section
/-! RELEASE: the own lock's end, the release that frees, and the release that saves (R85–R89, R127, R128, R154). -/

namespace Sys2Proof.Machine

variable {rq : Request} {s t : State} {c : Chan} {k : Ctl} {l : Lock} {key : Key} {r : Rec}

/-! ### The end of the own lock (R154) -/

theorem unholdChan_chan (l : Lock) (s : State) (d : Chan) : (unholdChan l s).chans[d] =
    if l.held = some d then { s.chans[d] with lock := false } else s.chans[d] := by
  unfold unholdChan
  cases hl : l.held with
  | none => rfl
  | some c =>
    rw [State.modChan_chans, getElem_set_fin]
    by_cases hd : c = d
    · subst hd
      rw [if_pos rfl, if_pos rfl]
    · rw [if_neg hd, if_neg (by simpa using hd)]

theorem unholdChan_rest (l : Lock) (s : State) : { unholdChan l s with chans := s.chans } = s := by
  unfold unholdChan
  cases l.held <;> rfl

/-- The lock is on the call: on its channel or its bound profile, or holding the channel (R154). -/
def OnCall (c : Chan) (l : Lock) (s : State) : Prop :=
  l.obj = .chan c ∨ (∃ key, s.chans[c].bound = some key ∧ l.obj = .profile key) ∨ l.held = some c

theorem endOwnLock_none (h : s.locks[k] = none) : endOwnLock c k s = s := by
  rw [endOwnLock, h]

theorem endOwnLock_some (h : s.locks[k] = some l) :
    (¬ OnCall c l s → endOwnLock c k s = s) ∧
      (OnCall c l s → endOwnLock c k s = (unholdChan l s).setLock k none) := by
  have hend : endLock k s = (unholdChan l s).setLock k none := by rw [endLock, h]
  have hcond : ((l.obj == .chan c || (match s.chans[c].bound with
      | none => false
      | some key => l.obj == .profile key)) || l.held == some c) = true ↔ OnCall c l s := by
    cases hb : s.chans[c].bound <;> simp [OnCall, hb, or_assoc, -Fin.getElem_fin]
  rw [endOwnLock, h]
  exact ⟨fun hn => if_neg (mt hcond.1 hn), fun hy => (if_pos (hcond.2 hy)).trans hend⟩

/-- A release's own lock changes nothing of the channels but LOCK. -/
theorem endOwnLock_chan (c : Chan) (k : Ctl) (s : State) (d : Chan) :
    ∃ b, (endOwnLock c k s).chans[d] = { s.chans[d] with lock := b } := by
  cases h : s.locks[k] with
  | none => exact ⟨_, by rw [endOwnLock_none h]⟩
  | some l =>
    obtain ⟨hother, hmine⟩ := endOwnLock_some (c := c) h
    by_cases hl : OnCall c l s
    · rw [hmine hl, State.setLock_chans, unholdChan_chan]
      split
      · exact ⟨false, rfl⟩
      · exact ⟨_, rfl⟩
    · exact ⟨_, by rw [hother hl]⟩

@[simp] theorem endOwnLock_keeps (c : Chan) (k : Ctl) (s : State) :
    (endOwnLock c k s).hwi = s.hwi ∧ (endOwnLock c k s).sal = s.sal ∧ (endOwnLock c k s).pfs = s.pfs ∧
      (endOwnLock c k s).jobs = s.jobs ∧ (endOwnLock c k s).cbi = s.cbi ∧ (endOwnLock c k s).fifos = s.fifos ∧
      (endOwnLock c k s).btl = s.btl ∧ (endOwnLock c k s).free = s.free ∧
      (endOwnLock c k s).pending = s.pending := by
  cases h : s.locks[k] with
  | none => simp only [endOwnLock_none h, and_self]
  | some l =>
    obtain ⟨hother, hmine⟩ := endOwnLock_some (c := c) h
    by_cases hl : OnCall c l s
    · simp [hmine hl]
    · simp only [hother hl, and_self]

/-! ### The decision of a save (Table 7-3) -/

theorem lockedByAny_false_iff (o : LockObj) (s : State) : lockedByAny o s = false ↔
    ∀ (j : Ctl) (l : Lock), s.locks[j] = some l → l.active = true → l.obj ≠ o := by
  simp only [lockedByAny, List.any_eq_false, List.mem_finRange, true_implies]
  refine forall_congr' fun j => ?_
  cases s.locks[j] with
  | none => simp
  | some l => simp [Lock.locks]

theorem recordFor_congr (hp : t.pfs = s.pfs) (hl : t.locks = s.locks) (hj : t.jobs = s.jobs) :
    recordFor t = recordFor s := by
  have hev : evictable t = evictable s := by
    funext r
    simp only [evictable, lockedByAny, loadSource, hp, hl, hj]
  rw [recordFor, recordFor, hev, hp]

theorem saveDecision_congr (hp : t.pfs = s.pfs) (hl : t.locks = s.locks) (hj : t.jobs = s.jobs)
    (hb : t.chans[c].bound = s.chans[c].bound) (hn : t.chans[c].learn = s.chans[c].learn) :
    saveDecision c k t = saveDecision c k s := by
  have hfind (key : Key) : findProfile key t = findProfile key s := by rw [findProfile, findProfile, hp]
  have hother (o : LockObj) : lockedByOther k o t = lockedByOther k o s := by rw [lockedByOther, lockedByOther, hl]
  have hany (o : LockObj) : lockedByAny o t = lockedByAny o s := by rw [lockedByAny, lockedByAny, hl]
  rw [saveDecision, saveDecision, hb, hn, recordFor_congr hp hl hj]
  simp only [hfind, hother, hany, hp]

theorem saveDecision_bound (hb : s.chans[c].bound = some key) : saveDecision c k s =
    match findProfile key s with
    | none => .error .storeFull
    | some r => if lockedByOther k (.profile key) s then .error .busy else .ok r := by
  rw [saveDecision, hb] <;> rfl

theorem saveDecision_learn (hb : s.chans[c].bound = none) (hl : s.chans[c].learn = some key) :
    saveDecision c k s =
      match findProfile key s with
      | none =>
        match recordFor s with
        | none => .error .storeFull
        | some r => .ok r
      | some r =>
        if s.pfs.recs[r].state != .valid || s.pfs.recs[r].boundChan.isSome || lockedByAny (.profile key) s then
          .error .busy
        else .ok r := by
  rw [saveDecision, hb, hl] <;> rfl

/-- The profile of a learn key takes a save: VALID, unbound and under no lock (Table 7-3). -/
def SaveReady (key : Key) (r : Rec) (s : State) : Prop :=
  s.pfs.recs[r].state = .valid ∧ s.pfs.recs[r].boundChan = none ∧
    ∀ (j : Ctl) (l : Lock), s.locks[j] = some l → l.active = true → l.obj ≠ .profile key

theorem saveReady_iff (key : Key) (r : Rec) (s : State) : SaveReady key r s ↔
    (s.pfs.recs[r].state != .valid || s.pfs.recs[r].boundChan.isSome || lockedByAny (.profile key) s) = false := by
  rw [SaveReady, ← lockedByAny_false_iff, Bool.or_eq_false_iff, Bool.or_eq_false_iff, bne_eq_false_iff_eq,
    Option.isSome_eq_false_iff, Option.isNone_iff_eq_none, and_assoc]

variable {x : Context}

/-- The save of a call proceeds on record r (Table 7-3). -/
def SaveProceeds (k : Ctl) (key : Key) (x : Context) (r : Rec) (s : State) : Prop :=
  if x.bound = none then findProfile key s = some r ∧ SaveReady key r s ∨ findProfile key s = none ∧ recordFor s = some r
  else findProfile key s = some r ∧ NoOtherLock k (.profile key) s

theorem saveDecision_proceeds (hx : s.chans[c].bound = x.bound) (hl : s.chans[c].learn = x.learn)
    (hkey : (x.bound <|> x.learn) = some key) (h : SaveProceeds k key x r s) : saveDecision c k s = .ok r := by
  unfold SaveProceeds at h
  cases hb : x.bound with
  | none =>
    rw [hb] at hx hkey
    rw [saveDecision_learn hx (hl.trans hkey)]
    rw [if_pos hb] at h
    rcases h with ⟨hf, hready⟩ | ⟨hf, hrec⟩
    · rw [hf]
      exact if_neg (by rw [(saveReady_iff _ _ _).1 hready]; decide)
    · rw [hf, hrec]
  | some key' =>
    rw [hb] at hx hkey
    obtain rfl : key' = key := Option.some.inj hkey
    rw [if_neg (by rw [hb]; exact nofun), noOtherLock_iff] at h
    rw [saveDecision_bound hx, h.1]
    exact if_neg (by rw [h.2]; decide)

theorem saveDecision_busy (hx : s.chans[c].bound = x.bound) (hl : s.chans[c].learn = x.learn)
    (hkey : (x.bound <|> x.learn) = some key) (hf : findProfile key s = some r)
    (h : if x.bound = none then ¬ SaveReady key r s else ¬ NoOtherLock k (.profile key) s) :
    saveDecision c k s = .error .busy := by
  cases hb : x.bound with
  | none =>
    rw [hb] at hx hkey
    rw [if_pos hb, saveReady_iff, Bool.not_eq_false] at h
    rw [saveDecision_learn hx (hl.trans hkey), hf]
    exact if_pos h
  | some key' =>
    rw [hb] at hx hkey
    obtain rfl : key' = key := Option.some.inj hkey
    rw [if_neg (by rw [hb]; exact nofun), noOtherLock_iff, Bool.not_eq_false] at h
    rw [saveDecision_bound hx, hf]
    exact if_pos h

theorem saveDecision_storeFull (hx : s.chans[c].bound = none) (hl : s.chans[c].learn = some key)
    (hf : findProfile key s = none) (hr : recordFor s = none) : saveDecision c k s = .error .storeFull := by
  rw [saveDecision_learn hx hl, hf, hr]

/-! ### The record of a save (R127, R128) -/

theorem savedRecord_eq (c : Chan) (key : Key) (x : Context) (p : Profile) (kept : Bool)
    (hk : kept = decide (p.state = .valid ∧ p.key = some key)) : savedRecord c key x p =
    { (if kept then p else emptyProfile) with
      key := some key, state := .filling, origin := .learned, boundChan := some c
      useCount := if kept then p.useCount else 0
      desc :=
        { pinned := kept && p.desc.pinned, near := x.par.near, farHint := x.par.far, bulkHint := x.par.bulk
          aEchoTrain := if kept then p.desc.aEchoTrain else none
          aEchoTrack := if kept then p.desc.aEchoTrack else none
          aEqTrain := if kept then p.desc.aEqTrain else none
          aEqTrack := if kept then p.desc.aEqTrack else none
          mainTap := x.par.mainTap, lag := x.par.lag, eq := x.par.eq, best := x.convErle.getD 0 } } := by
  unfold savedRecord
  by_cases h : p.state = .valid ∧ p.key = some key
  · rw [decide_eq_true h] at hk
    subst hk
    simp only [if_pos h]
    rfl
  · rw [decide_eq_false h] at hk
    subst hk
    simp only [if_neg h]
    rfl

theorem beginSave_eq (hkey : (s.chans[c].bound <|> s.chans[c].learn) = some key) (r : Rec) : beginSave c r s =
    { s with
      pfs := { recs := s.pfs.recs.set r (savedRecord c key s.chans[c] s.pfs.recs[r])
               recency := s.pfs.recency.filter (· != r) }
      jobs := s.jobs ++ [{
        kind := .save, chan := c, key, count := s.chans[c].par.near + (if s.chans[c].par.eq then 1 else 0), moved := 0
        eqLast := s.chans[c].par.eq, queuedAt := s.hwi.line.frame }]
      chans := s.chans.set c { s.chans[c] with state := .releasing, bound := some key } } := by
  rw [beginSave, hkey]
  rfl

end Sys2Proof.Machine
end

section
/-! RELEASE settled: its own lock, its checks, the release that frees and the release that saves (R85–R89, R127, R128). -/

namespace Sys2Proof.Machine

variable {rq : Request} {s v : State} {c : Chan} {key : Key} {r : Rec}

/-- The context at which a RELEASE decides is that of the channel but for its LOCK (R154). -/
theorem endOwnLock_state (c d : Chan) (k : Ctl) (s : State) :
    (endOwnLock c k s).chans[d].state = s.chans[d].state := by
  obtain ⟨b, hb⟩ := endOwnLock_chan c k s d
  rw [hb]

theorem releasable_iff (st : ChanState) : releasable st = true ↔ st ≠ .free ∧ st ≠ .releasing := by
  cases st <;> decide

theorem release_form (hp : rq.plain 2 = true) (hn : rq.num 1 < 2) :
    (rq.plain 2 && decide (rq.num 1 < 2)) = true := by
  rw [hp, decide_eq_true hn]
  rfl

theorem exec_release_refused (h : Owned .release rq s) (hp : rq.plain 2 = true) (hn : rq.num 1 < 2)
    (hs : s.chans[rq.chan].state = .releasing) :
    exec .release s = .next (answerFirst (refused .wrongState) s) := by
  refine congrArg Host.Outcome.next (takeRequest_fail (own := ownRelease) h.toAdmitted rfl ?_)
  rw [ownerChecks_owned h (release_form hp hn) h.chanOk, if_neg (by rw [releasable_iff]; tauto)]

theorem exec_release (h : Owned .release rq s) (hp : rq.plain 2 = true) (hn : rq.num 1 < 2)
    (hs : s.chans[rq.chan].state ≠ .releasing) :
    exec .release s = .next (answerFirst (releaseChan rq s).2 (releaseChan rq s).1) := by
  refine congrArg Host.Outcome.next (takeRequest_pass (own := ownRelease) h.toAdmitted rfl ?_)
  rw [ownerChecks_owned h (release_form hp hn) h.chanOk, if_pos ((releasable_iff _).2 ⟨h.busy, hs⟩)]

theorem saves_iff (discard : Bool) (x : Context) : saves discard x = true ↔
    (x.state = .bound ∨ x.state = .echoTrain ∨ x.state = .eqTrain ∨ x.state = .tracking) ∧ x.converged = true ∧
      (x.bound.isSome = true ∨ x.learn.isSome = true) ∧ discard = false := by
  rw [saves, Bool.and_eq_true, Bool.and_eq_true, Bool.and_eq_true, boundToTracking_iff, Bool.or_eq_true,
    Bool.not_eq_true', and_assoc, and_assoc]

/-- A release that does not save, on the state without the own lock. -/
theorem releaseChan_now (hv : endOwnLock rq.chan rq.ctl s = v)
    (hs : ¬ saves ((rq.word 1).getLsbD 0) v.chans[rq.chan] = true) :
    releaseChan rq s = releaseNow rq.chan ((rq.word 1).getLsbD 0) v := by
  subst hv
  exact if_neg hs

theorem releaseChan_saving (hv : endOwnLock rq.chan rq.ctl s = v)
    (hs : saves ((rq.word 1).getLsbD 0) v.chans[rq.chan] = true) : releaseChan rq s = releaseSaving rq v := by
  subst hv
  exact if_pos hs

/-- What a release leaves before the entry to FREE, by the channel's state (R87, R88). -/
theorem endForRelease_pending (h : s.chans[c].state = .pending) :
    endForRelease c s = completeBind c .aborted (removeWait c s) := by
  rw [endForRelease, h]

theorem endForRelease_loading (h : s.chans[c].state = .loading) :
    endForRelease c s = completeBind c .aborted (cancelJob c s) := by
  rw [endForRelease, h]

theorem endForRelease_served (h : boundToFault s.chans[c].state = true) :
    endForRelease c s = completeTraining c .aborted s := by
  rw [endForRelease]
  cases hs : s.chans[c].state <;> rw [hs] at h <;> first | rfl | cases h

theorem removeWait_eq (c : Chan) (s : State) : removeWait c s =
    { s with sal := { s.sal with waitQ := s.sal.waitQ.filter fun e => e.chan != c } } := rfl

theorem cancelJob_eq (c : Chan) (s : State) : cancelJob c s = { s with jobs := s.jobs.filter fun j => j.chan != c } :=
  rfl

theorem busy_code : SaveReason.busy.code = 3 := rfl

theorem storeFull_code : SaveReason.storeFull.code = 4 := rfl

/-- The cause of a release (R86). -/
theorem releaseCause_moving {x : Context} (b : Bool) (h : x.state = .pending ∨ x.state = .loading) :
    releaseCause b x = 0 := if_pos h

theorem releaseCause_served {x : Context} (b : Bool) (h : boundToFault x.state = true) : releaseCause b x =
    if b then 1 else if x.state = .fault then 2 else if x.converged then 4 else 3 := by
  have hmoving : ¬ (x.state = .pending ∨ x.state = .loading) := by
    rintro (hx | hx) <;> rw [hx] at h <;> cases h
  rw [releaseCause, if_neg hmoving]
  cases x.converged <;> rfl

/-! ### The release that saves (R89, R127) -/

/-- The decision of the save reads what the release's lock end left. -/
theorem saveDecision_ended (rq : Request) (k : Ctl) (v : State) :
    saveDecision rq.chan k (releaseEnded rq v) = saveDecision rq.chan k v := by
  obtain ⟨-, -, hjobs, hpfs, hlocks⟩ := releaseEnded_keeps rq v
  have hx : (releaseEnded rq v).chans[rq.chan] = releasedContext rq v.chans[rq.chan] := by
    rw [releaseEnded_chan, getElem_set_same]
  exact saveDecision_congr hpfs hlocks hjobs (by rw [hx]; rfl) (by rw [hx]; rfl)

theorem releaseEnded_key (rq : Request) (v : State) :
    ((releaseEnded rq v).chans[rq.chan].bound <|> (releaseEnded rq v).chans[rq.chan].learn) =
      (v.chans[rq.chan].bound <|> v.chans[rq.chan].learn) := by
  rw [releaseEnded_chan, getElem_set_same]
  rfl

theorem releaseSaving_ok (h : saveDecision rq.chan rq.ctl v = .ok r) :
    releaseSaving rq v = (beginSave rq.chan r (releaseEnded rq v), deferred) := by
  rw [releaseSaving_eq, saveDecision_ended, h]

theorem releaseSaving_error {why : SaveReason} (h : saveDecision rq.chan rq.ctl v = .error why)
    (hkey : (v.chans[rq.chan].bound <|> v.chans[rq.chan].learn) = some key) : releaseSaving rq v =
      (recheck (enterFree rq.chan (completeRelease rq.chan .notSaved why.code (some key) (releaseEnded rq v))),
        deferred) := by
  rw [releaseSaving_eq, saveDecision_ended, h]
  simp only [releaseEnded_key, hkey]

theorem releaseEnded_frame (rq : Request) (v : State) : (releaseEnded rq v).hwi.line.frame = v.hwi.line.frame := by
  rw [releaseEnded]
  simp only [emptySlots, State.setHwi_hwi, State.modChan_hwi, completeTraining_keeps, makeDeferred_keeps]

/-- The parameters and the learned values of a released channel are those it had. -/
theorem releaseEnded_context (rq : Request) (v : State) :
    (releaseEnded rq v).chans[rq.chan].par = v.chans[rq.chan].par ∧
      (releaseEnded rq v).chans[rq.chan].convErle = v.chans[rq.chan].convErle := by
  rw [releaseEnded_chan, getElem_set_same]
  exact ⟨rfl, rfl⟩

/-- A save begun on the released channel: its record, its job and its state (R127, R128). -/
theorem beginSave_ended (hkey : (v.chans[rq.chan].bound <|> v.chans[rq.chan].learn) = some key) (r : Rec) :
    let w := releaseEnded rq v
    let t := beginSave rq.chan r w
    let x := v.chans[rq.chan]
    t.chans[rq.chan] = { w.chans[rq.chan] with state := .releasing, bound := some key } ∧
      t.jobs = v.jobs ++ [{
        kind := .save, chan := rq.chan, key, count := x.par.near + (if x.par.eq then 1 else 0), moved := 0
        eqLast := x.par.eq, queuedAt := v.hwi.line.frame }] ∧
      t.pfs.recs[r] = savedRecord rq.chan key w.chans[rq.chan] v.pfs.recs[r] ∧
      (∀ r', r' ≠ r → t.pfs.recs[r'] = v.pfs.recs[r']) ∧ t.pfs.recency = v.pfs.recency.filter (· != r) ∧
      { t with chans := w.chans, jobs := w.jobs, pfs := w.pfs } = w := by
  obtain ⟨-, -, hjobs, hpfs, -⟩ := releaseEnded_keeps rq v
  obtain ⟨hpar, -⟩ := releaseEnded_context rq v
  dsimp only
  rw [beginSave_eq ((releaseEnded_key rq v).trans hkey)]
  refine ⟨getElem_set_same _ _ _, ?_, ?_, fun r' hr => ?_, ?_, rfl⟩
  · simp only [hjobs, hpar, releaseEnded_frame]
  · rw [getElem_set_same, hpfs]
  · rw [getElem_set_other _ _ _ _ (Ne.symm hr), hpfs]
  · rw [hpfs]

end Sys2Proof.Machine

open Sys2Proof Sys2Proof.Machine

/-- Settles O53: the own lock's end; then each way of a release, by the channel's state and the save's decision. -/
theorem releaseFreesOrSaves : Obligations.ReleaseFreesOrSaves := by
  refine ⟨fun c k s h => endOwnLock_none h, fun c k l s h => ?_, fun rq s h hp hn => ?_⟩
  · obtain ⟨hother, hmine⟩ := endOwnLock_some (c := c) h
    refine ⟨hother, fun hl => ?_⟩
    have hrest := unholdChan_rest l s
    rw [hmine hl]
    refine ⟨by rw [State.setLock_locks, (unholdChan_keeps _ _).2.2.2.2.1], fun d => unholdChan_chan l s d, ?_⟩
    exact Eq.trans (congrArg (fun u : State => { u with locks := s.locks }) hrest) rfl
  · obtain ⟨hhwi, -, hpfs, hjobs, -⟩ := endOwnLock_keeps rq.chan rq.ctl s
    have hstate := endOwnLock_state rq.chan rq.chan rq.ctl s
    dsimp only
    generalize hv : endOwnLock rq.chan rq.ctl s = v at hhwi hpfs hjobs hstate ⊢
    refine ⟨exec_release_refused h hp hn, fun hx => ?_, fun hx => ?_, fun hx hnot => ?_, fun hsave key hkey => ?_⟩
    · have hbusy : s.chans[rq.chan].state ≠ .releasing := by rw [← hstate, hx]; decide
      have hnow : ¬ saves ((rq.word 1).getLsbD 0) v.chans[rq.chan] = true := by
        rw [saves_iff, hx]
        exact fun hs => by simpa using hs.1
      rw [exec_release h hp hn hbusy, releaseChan_now hv hnow, releaseNow, endForRelease_pending hx,
        releaseCause_moving _ (.inl hx), removeWait_eq]
    · have hbusy : s.chans[rq.chan].state ≠ .releasing := by rw [← hstate, hx]; decide
      have hnow : ¬ saves ((rq.word 1).getLsbD 0) v.chans[rq.chan] = true := by
        rw [saves_iff, hx]
        exact fun hs => by simpa using hs.1
      rw [exec_release h hp hn hbusy, releaseChan_now hv hnow, releaseNow, endForRelease_loading hx,
        releaseCause_moving _ (.inr hx), cancelJob_eq]
    · have hserved := (boundToFault_iff _).2 hx
      have hbusy : s.chans[rq.chan].state ≠ .releasing := by
        intro hr
        rw [hstate, hr] at hserved
        cases hserved
      have hnow : ¬ saves ((rq.word 1).getLsbD 0) v.chans[rq.chan] = true := mt (saves_iff _ _).1 hnot
      rw [exec_release h hp hn hbusy, releaseChan_now hv hnow, releaseNow, endForRelease_served hserved,
        releaseCause_served _ hserved]
    · have hsaving := (saves_iff _ _).2 hsave
      have hbusy : s.chans[rq.chan].state ≠ .releasing := by
        rw [← hstate]
        exact (boundToTracking_idle ((boundToTracking_iff _).2 hsave.1)).2.2.2
      have hexec := exec_release h hp hn hbusy
      rw [releaseChan_saving hv hsaving] at hexec
      refine ⟨fun r hr => ?_, fun hbusy => ?_, fun hfull => ?_⟩
      · have hdecision : saveDecision rq.chan rq.ctl v = .ok r := saveDecision_proceeds rfl rfl hkey hr
        obtain ⟨hchan, htjobs, hrec, hother, hrecency, hrest⟩ := beginSave_ended hkey r
        rw [releaseSaving_ok hdecision] at hexec
        refine ⟨beginSave rq.chan r (releaseEnded rq v), hexec, hchan, ?_, ?_, fun r' hr' => ?_, ?_, hrest⟩
        · rw [htjobs, hjobs, hhwi]
        · obtain ⟨hpar, herle⟩ := releaseEnded_context rq v
          rw [hrec, savedRecord_eq _ _ _ _ _ rfl, hpar, herle, hpfs]
        · rw [hother r' hr', hpfs]
        · rw [hrecency, hpfs]
      · obtain ⟨r, hf, hno⟩ := hbusy
        rw [hexec, releaseSaving_error (saveDecision_busy rfl rfl hkey hf hno) hkey, busy_code, releaseEnded]
      · obtain ⟨hbound, hf, hnone⟩ := hfull
        have hlearn : v.chans[rq.chan].learn = some key := by
          rw [hbound] at hkey
          exact hkey
        rw [hexec, releaseSaving_error (saveDecision_storeFull hbound hlearn hf hnone) hkey, storeFull_code, releaseEnded]
end

section
/-! ATTACH, and the parts of DETACH: the own lock's end, and the channels freed and orphaned (R97, R155, R173, R174). -/

namespace Sys2Proof.Machine

variable {k : Ctl} {rq : Request} {s t v : State} {c : Chan} {r : Rec}

/-! ### Records that become EMPTY (R122, R138) -/

theorem emptyRecord_chan (r : Rec) (s : State) (c : Chan) : (emptyRecord r s).chans[c] = { s.chans[c] with
    bound := if s.pfs.recs[r].boundChan = some c then none else s.chans[c].bound } := by
  unfold emptyRecord
  cases h : s.pfs.recs[r].boundChan with
  | none => simp only [reduceCtorEq, if_false]; rfl
  | some d =>
    simp only [State.modChan_chans, State.setRecency_chans, State.setRec_chans, getElem_set_fin, Option.some.injEq]
    by_cases hd : d = c
    · subst hd
      simp only [if_true]
    · simp only [hd, if_false]

theorem emptyRecord_recs (r : Rec) (s : State) (q : Rec) :
    (emptyRecord r s).pfs.recs[q] = if r = q then emptyProfile else s.pfs.recs[q] := by
  unfold emptyRecord
  cases s.pfs.recs[r].boundChan <;> exact getElem_set_fin _ _ _ _

theorem emptyRecord_recency (r : Rec) (s : State) :
    (emptyRecord r s).pfs.recency = s.pfs.recency.filter (· != r) := by
  unfold emptyRecord
  cases s.pfs.recs[r].boundChan <;> rfl

/-- A lock that breaks or goes drops the record that its fill had begun (R138). -/
def DropsFill (l : Lock) (r : Rec) (s : State) : Prop :=
  ∃ key, l.purpose = .fill ∧ l.active = true ∧ l.obj = .profile key ∧ findProfile key s = some r

theorem dropFill_some {l : Lock} (h : DropsFill l r s) : dropFill l s = emptyRecord r s := by
  obtain ⟨key, hp, ha, ho, hf⟩ := h
  simp only [dropFill, hp, ho, ha, hf, if_true]

theorem dropFill_none {l : Lock} (h : ∀ r, ¬ DropsFill l r s) : dropFill l s = s := by
  unfold dropFill
  split
  · next key hp ho =>
    split
    · next ha =>
      cases hf : findProfile key s with
      | none => rfl
      | some r => exact absurd ⟨key, hp, ha, ho, hf⟩ (h r)
    · rfl
  · rfl

theorem DropsFill.unique {l : Lock} {q : Rec} (h : DropsFill l r s) (hq : DropsFill l q s) : r = q := by
  obtain ⟨key, -, -, ho, hf⟩ := h
  obtain ⟨key', -, -, ho', hf'⟩ := hq
  rw [ho, LockObj.profile.injEq] at ho'
  subst ho'
  exact Option.some.inj (hf.symm.trans hf')

/-! ### The lock of a detached controller (R155) -/

/-- The record dropped with the controller's lock. -/
def Dropped (k : Ctl) (r : Rec) (s : State) : Prop := ∃ l, s.locks[k] = some l ∧ DropsFill l r s

/-- The channel is held by the controller's lock. -/
def ownHold (k : Ctl) (c : Chan) (s : State) : Bool := (s.locks[k].bind Lock.held) == some c

/-- What the end of a detached controller's lock leaves (R155). -/
structure LockDetached (k : Ctl) (s t : State) : Prop where
  chan : ∀ c : Chan, t.chans[c] =
    { s.chans[c] with lock := s.chans[c].lock && !ownHold k c s, bound := t.chans[c].bound }
  unbound : ∀ c : Chan, (∃ r, Dropped k r s ∧ s.pfs.recs[r].boundChan = some c) → t.chans[c].bound = none
  bound : ∀ c : Chan, (∀ r, Dropped k r s → s.pfs.recs[r].boundChan ≠ some c) → t.chans[c].bound = s.chans[c].bound
  dropped : ∀ r : Rec, Dropped k r s → t.pfs.recs[r] = emptyProfile
  kept : ∀ r : Rec, ¬ Dropped k r s → t.pfs.recs[r] = s.pfs.recs[r]
  recent : ∀ r : Rec, r ∈ t.pfs.recency ↔ r ∈ s.pfs.recency ∧ ¬ Dropped k r s
  recency : (∀ r, ¬ Dropped k r s) → t.pfs.recency = s.pfs.recency
  lock : t.locks[k] = none
  locks : ∀ j : Ctl, j ≠ k → t.locks[j] = s.locks[j]
  rest : t.hwi = s.hwi ∧ t.sal = s.sal ∧ t.jobs = s.jobs ∧ t.cbi = s.cbi ∧ t.fifos = s.fifos ∧ t.btl = s.btl ∧
    t.free = s.free ∧ t.pending = s.pending

theorem ownHold_some {l : Lock} (h : s.locks[k] = some l) (c : Chan) : ownHold k c s = (l.held == some c) := by
  rw [ownHold, h]
  rfl

/-- The channel after its lock ended. -/
theorem unholdChan_ownHold {l : Lock} (h : s.locks[k] = some l) (c : Chan) :
    (unholdChan l s).chans[c] = { s.chans[c] with lock := s.chans[c].lock && !ownHold k c s } := by
  rw [unholdChan_chan, ownHold_some h]
  by_cases hc : l.held = some c
  · rw [if_pos hc, hc, beq_self_eq_true, Bool.not_true, Bool.and_false]
  · rw [if_neg hc, beq_eq_false_iff_ne.2 hc, Bool.not_false, Bool.and_true]

theorem detachLock_spec (k : Ctl) (s : State) : LockDetached k s (detachLock k s) := by
  cases hl : s.locks[k] with
  | none =>
    have hno (r : Rec) : ¬ Dropped k r s := by
      rintro ⟨l, h, -⟩
      rw [hl] at h
      cases h
    have hheld (c : Chan) : ownHold k c s = false := by rw [ownHold, hl]; rfl
    have heq : detachLock k s = s := by rw [detachLock, hl]
    rw [heq]
    refine ⟨fun c => ?_, fun c ⟨r, h, _⟩ => absurd h (hno r), fun _ _ => rfl, fun r h => absurd h (hno r), fun _ _ => rfl,
      fun r => by simp only [hno, not_false_eq_true, and_true], fun _ => rfl, hl, fun _ _ => rfl, rfl, rfl, rfl, rfl,
      rfl, rfl, rfl, rfl⟩
    rw [hheld, Bool.not_false, Bool.and_true]
  | some l =>
    have hdropped (r : Rec) : Dropped k r s ↔ DropsFill l r s :=
      ⟨fun ⟨l', h, hd⟩ => by rw [hl] at h; cases h; exact hd, fun h => ⟨l, hl, h⟩⟩
    have heq : detachLock k s = (dropFill l (unholdChan l s)).setLock k none := by rw [detachLock, hl]
    have hpfs : (unholdChan l s).pfs = s.pfs := (unholdChan_keeps l s).2.2.1
    have hdrops (r : Rec) : DropsFill l r (unholdChan l s) ↔ Dropped k r s := by
      rw [hdropped, DropsFill, DropsFill]
      simp only [findProfile, hpfs]
    have hchan (c : Chan) := unholdChan_ownHold hl c
    rw [heq]
    by_cases hd : ∃ r, Dropped k r s
    · obtain ⟨r, hr⟩ := hd
      have honly (q : Rec) : Dropped k q s ↔ r = q :=
        ⟨fun hq => ((hdropped r).1 hr).unique ((hdropped q).1 hq), fun e => e ▸ hr⟩
      rw [dropFill_some ((hdrops r).2 hr)]
      refine ⟨fun c => ?_, fun c => ?_, fun c h => ?_, fun q hq => ?_, fun q hq => ?_, fun q => ?_, fun h => absurd hr (h r),
        getElem_set_same _ _ _, fun j hj => ?_, ?_⟩
      · rw [State.setLock_chans, emptyRecord_chan, hchan]
      · rintro ⟨q, hq, hb⟩
        obtain rfl := (honly q).1 hq
        rw [State.setLock_chans, emptyRecord_chan, hpfs, if_pos hb]
      · rw [State.setLock_chans, emptyRecord_chan, hpfs, if_neg (h r hr), hchan]
      · rw [State.setLock_pfs, emptyRecord_recs, if_pos ((honly q).1 hq)]
      · rw [State.setLock_pfs, emptyRecord_recs, if_neg (mt (honly q).2 hq), hpfs]
      · rw [State.setLock_pfs, emptyRecord_recency, hpfs, List.mem_filter, honly, bne_iff_ne, ne_comm]
      · rw [State.setLock_locks, getElem_set_other _ _ _ _ (Ne.symm hj)]
        simp only [emptyRecord_keeps, unholdChan_keeps]
      · simp
    · have hno (r : Rec) : ¬ Dropped k r s := fun h => hd ⟨r, h⟩
      rw [dropFill_none fun r => mt (hdrops r).1 (hno r)]
      refine ⟨fun c => ?_, fun c ⟨r, h, _⟩ => absurd h (hno r), fun c _ => ?_, fun r h => absurd h (hno r), fun r _ => ?_,
        fun r => ?_, fun _ => ?_, getElem_set_same _ _ _, fun j hj => ?_, ?_⟩
      · rw [State.setLock_chans, hchan]
      · rw [State.setLock_chans, hchan]
      · rw [State.setLock_pfs, hpfs]
      · simp only [State.setLock_pfs, hpfs, hno, not_false_eq_true, and_true]
      · rw [State.setLock_pfs, hpfs]
      · rw [State.setLock_locks, getElem_set_other _ _ _ _ (Ne.symm hj)]
        simp only [unholdChan_keeps]
      · simp

end Sys2Proof.Machine
end

section
/-! DETACH: its walk over the channels, and the whole (R97, R108, R119, R174, R175). -/

namespace Sys2Proof.Machine

variable {k : Ctl} {rq : Request} {s t v : State} {c : Chan} {r : Rec} {W O : List Chan}

/-! ### Posts to one controller -/

/-- What a post leaves in a FIFO depends on that FIFO, its controller and the timebase alone. -/
theorem postTo_fifo_congr {j : Ctl} (hf : t.fifos[j] = s.fifos[j]) (ha : t.cbi.attached[j] = s.cbi.attached[j])
    (hb : t.btl = s.btl) (e : EventKind) (ch : Option Chan) (d : Nat) :
    (postTo j e ch d t).fifos[j] = (postTo j e ch d s).fifos[j] := by
  cases h : s.cbi.attached[j] with
  | false => rw [postTo_detached h, postTo_detached (ha.trans h), hf]
  | true =>
    have ht := postTo_attached (ha.trans h) e ch d
    have hs := postTo_attached h e ch d
    dsimp only at ht hs
    rw [hf, hb] at ht
    exact ht.trans hs.symm

/-- A post to all reaches one FIFO as the post to its controller alone. -/
theorem postAll_fifo (e : EventKind) (ch : Option Chan) (d : Nat) (s : State) (j : Ctl) :
    (postAll e ch d s).fifos[j] = (postTo j e ch d s).fifos[j] := by
  have hfold := foldl_place (fun s k => postTo k e ch d s) (fun s (k : Ctl) => (s.fifos[k], s.cbi.attached[k], s.btl))
    (fun s i k hk => by simp only [postTo_fifos_other (Ne.symm hk), postTo_keeps])
    (fun s s' i hi => by
      obtain ⟨hf, ha, hb⟩ : s.fifos[i] = s'.fifos[i] ∧ s.cbi.attached[i] = s'.cbi.attached[i] ∧ s.btl = s'.btl := by
        simpa only [Prod.mk.injEq] using hi
      simp only [postTo_keeps, postTo_fifo_congr hf ha hb, ha, hb])
    (List.finRange 4) (List.nodup_finRange 4) s j
  rw [if_pos (List.mem_finRange j)] at hfold
  exact congrArg Prod.fst hfold

/-- The posts of DETACH to one controller: one for each channel orphaned (R97). -/
def orphanPosts (j k : Ctl) (O : List Chan) (s : State) : State :=
  O.foldl (fun v c => postTo j .channelOrphaned (some c) k.val v) s

theorem orphanPosts_snoc (j k : Ctl) (O : List Chan) (c : Chan) (s : State) :
    orphanPosts j k (O ++ [c]) s = postTo j .channelOrphaned (some c) k.val (orphanPosts j k O s) := by
  rw [orphanPosts, List.foldl_append]
  rfl

theorem orphanPosts_keeps (j k : Ctl) (O : List Chan) (s : State) :
    (orphanPosts j k O s).cbi = s.cbi ∧ (orphanPosts j k O s).btl = s.btl :=
  ⟨foldl_keeps _ State.cbi (fun s a => by simp) O s, foldl_keeps _ State.btl (fun s a => by simp) O s⟩

theorem orphanPosts_congr {j : Ctl} (hf : t.fifos[j] = s.fifos[j]) (ha : t.cbi.attached[j] = s.cbi.attached[j])
    (hb : t.btl = s.btl) (k : Ctl) (O : List Chan) :
    (orphanPosts j k O t).fifos[j] = (orphanPosts j k O s).fifos[j] := by
  induction O generalizing s t with
  | nil => exact hf
  | cons c O ih =>
    exact ih (postTo_fifo_congr hf ha hb _ _ _) (by simpa only [postTo_keeps] using ha)
      (by simpa only [postTo_keeps] using hb)

theorem orphanPosts_detached {j : Ctl} (ha : s.cbi.attached[j] = false) (k : Ctl) (O : List Chan) :
    orphanPosts j k O s = s := by
  induction O with
  | nil => rfl
  | cons c O ih => rw [orphanPosts, List.foldl_cons, postTo_detached ha]; exact ih

/-! ### The walk over the channels (R97) -/

/-- The channel of a controller that has gone, when it was not waiting (R97). -/
def Context.orphaned (x : Context) : Context := { x with owner := none, trainLink := none, bindLink := none }

/-- What the walk of DETACH has left when it has freed the channels W and orphaned the channels O. -/
structure Walked (k : Ctl) (W O : List Chan) (s v : State) : Prop where
  chan : ∀ c : Chan, v.chans[c] =
    if c ∈ W then s.chans[c].freed else if c ∈ O then s.chans[c].orphaned else s.chans[c]
  waitQ : v.sal.waitQ = s.sal.waitQ.filter fun e => e.chan ∉ W
  stores : v.sal.taps = s.sal.taps ∧ v.sal.hist = s.sal.hist
  held : v.sal.heldSeg.set k 0 = s.sal.heldSeg.set k 0 ∧ v.sal.heldPage.set k 0 = s.sal.heldPage.set k 0
  freeSegs : ∀ g : Seg, g ∈ v.sal.freeSegs ↔ g ∈ s.sal.freeSegs ∨ ∃ c ∈ W, g ∈ s.chans[c].segs
  freePages : ∀ p : Page, p ∈ v.sal.freePages ↔ p ∈ s.sal.freePages ∨ ∃ c ∈ W, p ∈ s.chans[c].pages
  recs : ∀ r : Rec, v.pfs.recs[r] = if ∃ c ∈ W, s.pfs.recs[r].boundChan = some c then
    { s.pfs.recs[r] with boundChan := none } else s.pfs.recs[r]
  recency : v.pfs.recency = s.pfs.recency
  locks : ∀ j : Ctl, v.locks[j] = s.locks[j].map fun l =>
    if ∃ c ∈ W, l.held = some c then { l with held := none } else l
  inputs : ∀ c : Chan, v.hwi.inputs[c] = if c ∈ W then emptyInput else s.hwi.inputs[c]
  outputs : ∀ c : Chan, v.hwi.outputs[c] = if c ∈ W then emptyHold else s.hwi.outputs[c]
  hwi : { v.hwi with inputs := s.hwi.inputs, outputs := s.hwi.outputs } = s.hwi
  fifos : ∀ j : Ctl, v.fifos[j] = (orphanPosts j k O s).fifos[j]
  rest : v.jobs = s.jobs ∧ v.cbi = s.cbi ∧ v.btl = s.btl ∧ v.free = s.free ∧ v.pending = s.pending

theorem Walked.start (k : Ctl) (s : State) : Walked k [] [] s s where
  chan c := by simp
  waitQ := by simp
  stores := ⟨rfl, rfl⟩
  held := ⟨rfl, rfl⟩
  freeSegs g := by simp
  freePages p := by simp
  recs r := by simp
  recency := rfl
  locks j := by simp
  inputs c := by simp
  outputs c := by simp
  hwi := rfl
  fifos j := rfl
  rest := ⟨rfl, rfl, rfl, rfl, rfl⟩

/-- A debit to a controller changes its own holdings alone. -/
theorem debit_set (k : Ctl) (n m : Nat) (a : Sal) :
    (debit (some k) n m a).heldSeg.set k 0 = a.heldSeg.set k 0 ∧
      (debit (some k) n m a).heldPage.set k 0 = a.heldPage.set k 0 := by
  simp only [debit, setHeld, Vector.set_set, and_self]

/-- A PENDING channel of the controller is freed. -/
theorem Walked.free (h : Walked k W O s v) (hW : c ∉ W) (hO : c ∉ O) (ho : s.chans[c].owner = some k) :
    Walked k (W ++ [c]) O s (enterFree c (removeWait c v)) := by
  have hx : (removeWait c v).chans[c] = s.chans[c] := by
    rw [(removeWait_keeps c v).2.1, h.chan, if_neg hW, if_neg hO]
  have hsal := enterFree_sal c (removeWait c v)
  rw [hx, ho] at hsal
  have hone (P : Chan → Prop) : (∃ d ∈ W ++ [c], P d) ↔ (∃ d ∈ W, P d) ∨ P c := by
    simp only [List.mem_append, List.mem_singleton, or_and_right, exists_or, exists_eq_left]
  have hmem (d : Chan) : d ∈ W ++ [c] ↔ d = c ∨ d ∈ W := by rw [List.mem_append, List.mem_singleton, or_comm]
  obtain ⟨hjobs, hcbi, hfifos, hbtl, hfree, hpending⟩ := enterFree_keeps c (removeWait c v)
  constructor
  case chan =>
    intro d
    rw [enterFree_chans, getElem_set_fin]
    by_cases hd : c = d
    · subst hd
      rw [if_pos rfl, hx, if_pos ((hmem _).2 (.inl rfl))]
    · rw [if_neg hd, (removeWait_keeps c v).2.1, h.chan]
      simp only [hmem, Ne.symm hd, false_or]
  case waitQ =>
    rw [hsal, (debit_keeps _ _ _ _).2.2.2.2]
    simp only [returnUnits, removeWait, State.setSal_sal, h.waitQ, List.filter_filter, hmem, not_or]
    refine List.filter_congr fun e _ => ?_
    simp only [bne, Bool.decide_and, decide_not, beq_eq_decide]
  case stores =>
    rw [hsal, (debit_keeps _ _ _ _).1, (debit_keeps _ _ _ _).2.1]
    exact h.stores
  case held =>
    rw [hsal, (debit_set _ _ _ _).1, (debit_set _ _ _ _).2]
    exact h.held
  case freeSegs =>
    intro g
    rw [hsal, (debit_keeps _ _ _ _).2.2.1, hone, ← or_assoc, ← h.freeSegs]
    exact mem_insertUnits _ _ _
  case freePages =>
    intro g
    rw [hsal, (debit_keeps _ _ _ _).2.2.2.1, hone, ← or_assoc, ← h.freePages]
    exact mem_insertUnits _ _ _
  case recs =>
    intro r
    rw [enterFree_recs, (removeWait_keeps c v).2.2.1, h.recs]
    by_cases hw : ∃ d ∈ W, s.pfs.recs[r].boundChan = some d
    · rw [if_pos hw, if_pos ((hone _).2 (.inl hw))]
      exact if_neg nofun
    · rw [if_neg hw]
      simp only [hone, hw, false_or]
  case recency => rw [enterFree_recency, (removeWait_keeps c v).2.2.1, h.recency]
  case locks =>
    intro j
    rw [enterFree_locks, (removeWait_keeps c v).2.2.2.2.1, h.locks, Option.map_map]
    refine Option.map_congr fun l _ => ?_
    by_cases hw : ∃ d ∈ W, l.held = some d
    · rw [Function.comp_apply, if_pos hw, if_pos ((hone _).2 (.inl hw))]
      exact if_neg nofun
    · rw [Function.comp_apply, if_neg hw]
      simp only [hone, hw, false_or]
  case inputs =>
    intro d
    rw [enterFree_hwi, (removeWait_keeps c v).1, getElem_set_fin, h.inputs]
    by_cases hd : c = d
    · rw [if_pos hd, if_pos ((hmem d).2 (.inl hd.symm))]
    · simp only [hmem, hd, Ne.symm hd, if_false, false_or]
  case outputs =>
    intro d
    rw [enterFree_hwi, (removeWait_keeps c v).1, getElem_set_fin, h.outputs]
    by_cases hd : c = d
    · rw [if_pos hd, if_pos ((hmem d).2 (.inl hd.symm))]
    · simp only [hmem, hd, Ne.symm hd, if_false, false_or]
  case hwi =>
    rw [enterFree_hwi, (removeWait_keeps c v).1]
    exact h.hwi
  case fifos =>
    intro j
    rw [hfifos, (removeWait_keeps c v).2.2.2.2.2.2.1, h.fifos]
  case rest =>
    rw [hjobs, hcbi, hbtl, hfree, hpending]
    simpa only [removeWait_keeps] using h.rest

/-- Any other channel of the controller is orphaned, with an event to each attached controller. -/
theorem Walked.orphan (h : Walked k W O s v) (hW : c ∉ W) (hO : c ∉ O) :
    Walked k W (O ++ [c]) s (postAll .channelOrphaned (some c) k.val (v.modChan c
      fun x => { x with owner := none, trainLink := none, bindLink := none })) := by
  have hx : v.chans[c] = s.chans[c] := by rw [h.chan, if_neg hW, if_neg hO]
  have hmem (d : Chan) : d ∈ O ++ [c] ↔ d = c ∨ d ∈ O := by rw [List.mem_append, List.mem_singleton, or_comm]
  constructor
  case chan =>
    intro d
    rw [(postAll_keeps _ _ _ _).2.1, State.modChan_chans, getElem_set_fin, hx]
    by_cases hd : c = d
    · subst hd
      rw [if_pos rfl, if_neg hW, if_pos ((hmem _).2 (.inl rfl))]
      rfl
    · rw [if_neg hd, h.chan]
      simp only [hmem, Ne.symm hd, false_or]
  case fifos =>
    intro j
    obtain ⟨-, hcbi, hbtl, -⟩ := h.rest
    obtain ⟨hpcbi, hpbtl⟩ := orphanPosts_keeps j k O s
    rw [postAll_fifo, orphanPosts_snoc]
    refine postTo_fifo_congr (by rw [State.modChan_fifos, h.fifos]) ?_ ?_ _ _ _
    · rw [hpcbi, State.modChan_cbi, hcbi]
    · rw [hpbtl, State.modChan_btl, hbtl]
  all_goals simp only [postAll_keeps, State.modChan_sal, State.modChan_pfs, State.modChan_locks, State.modChan_hwi,
    State.modChan_jobs, State.modChan_cbi, State.modChan_btl, State.modChan_free, State.modChan_pending]
  case waitQ => exact h.waitQ
  case stores => exact h.stores
  case held => exact h.held
  case freeSegs => exact h.freeSegs
  case freePages => exact h.freePages
  case recs => exact h.recs
  case recency => exact h.recency
  case locks => exact h.locks
  case inputs => exact h.inputs
  case outputs => exact h.outputs
  case hwi => exact h.hwi
  case rest => exact h.rest

/-- The channel waits for the controller, or is another one of it. -/
def waitsFor (k : Ctl) (s : State) (c : Chan) : Bool :=
  decide (s.chans[c].owner = some k ∧ s.chans[c].state = .pending)

def worksFor (k : Ctl) (s : State) (c : Chan) : Bool :=
  decide (s.chans[c].owner = some k ∧ s.chans[c].state ≠ .pending)

theorem walked_foldl (k : Ctl) (s : State) (l : List Chan) (hl : l.Nodup) :
    Walked k (l.filter (waitsFor k s)) (l.filter (worksFor k s)) s (l.foldl (detachChan k) s) := by
  induction l using List.reverseRecOn with
  | nil => exact Walked.start k s
  | append_singleton l c ih =>
    rw [List.nodup_append] at hl
    obtain ⟨hl, -, hc⟩ := hl
    have hcl : c ∉ l := fun hm => hc c hm c (by simp) rfl
    have hW : c ∉ l.filter (waitsFor k s) := fun hm => hcl (List.mem_filter.1 hm).1
    have hO : c ∉ l.filter (worksFor k s) := fun hm => hcl (List.mem_filter.1 hm).1
    have h := ih hl
    have hx : (l.foldl (detachChan k) s).chans[c] = s.chans[c] := by rw [h.chan, if_neg hW, if_neg hO]
    rw [List.foldl_append, List.filter_append, List.filter_append, List.foldl_cons, List.foldl_nil, detachChan, hx]
    by_cases ho : s.chans[c].owner = some k
    · by_cases hs : s.chans[c].state = .pending
      · have hw : waitsFor k s c = true := decide_eq_true ⟨ho, hs⟩
        have hn : worksFor k s c = false := decide_eq_false fun ⟨_, hne⟩ => hne hs
        rw [if_pos ho, if_pos hs]
        simpa only [List.filter_cons, hw, hn, if_true, Bool.false_eq_true, if_false, List.filter_nil, List.append_nil]
          using h.free hW hO ho
      · have hw : waitsFor k s c = false := decide_eq_false fun ⟨_, he⟩ => hs he
        have hn : worksFor k s c = true := decide_eq_true ⟨ho, hs⟩
        rw [if_pos ho, if_neg hs]
        simpa only [List.filter_cons, hw, hn, if_true, Bool.false_eq_true, if_false, List.filter_nil, List.append_nil]
          using h.orphan hW hO
    · have hw : waitsFor k s c = false := decide_eq_false fun ⟨h, _⟩ => ho h
      have hn : worksFor k s c = false := decide_eq_false fun ⟨h, _⟩ => ho h
      rw [if_neg ho]
      simpa only [List.filter_cons, hw, hn, Bool.false_eq_true, if_false, List.filter_nil, List.append_nil] using h

end Sys2Proof.Machine
end

section
/-! ATTACH and DETACH settled (R97, R155, R173–R175). -/

namespace Sys2Proof.Machine

variable {k : Ctl} {rq : Request} {s : State} {c : Chan} {r : Rec}

/-! ### ATTACH (R173) -/

theorem exec_attach (h : Reaches .attach rq s) (hb : s.btl.status ≠ .loading) (hp : rq.plain 0 = true) :
    exec .attach s = .next (answerFirst
      (done [word rq.ctl.val, word (attachedMask (attachCtl rq.ctl s))]) (attachCtl rq.ctl s)) := by
  have hc : firstFail [(!rq.plain 0, refused .badRequest)] = none := by rw [hp]; rfl
  have htaken := takeRequest_reaches h (fun hl => absurd hl hb) (fun _ => .inl rfl) ownAttach
  rw [ownAttach, checked_pass _ _ _ hc] at htaken
  exact congrArg Host.Outcome.next htaken

theorem attachCtl_attached (h : s.cbi.attached[k] = true) : attachCtl k s = s := by
  rw [attachCtl, if_pos h]

theorem attachCtl_detached (h : s.cbi.attached[k] = false) : attachCtl k s = { s with
    cbi := { s.cbi with attached := s.cbi.attached.set k true }
    fifos := s.fifos.set k
      { entries := [], overflow := false, level := s.btl.part0.evLevel, hold := s.btl.part0.evHold, line := false }
    locks := s.locks.set k none } := by
  rw [attachCtl, if_neg (by rw [h]; decide)]
  rfl

/-! ### The parts of DETACH put together (R174) -/

/-- The state with the controller gone from the table and its deferred entries discarded (R174). -/
def unattached (k : Ctl) (s : State) : State :=
  discardDeferred k (s.setCbi { s.cbi with attached := s.cbi.attached.set k false })

/-- The state of DETACH before its re-check. -/
def detachedOf (k : Ctl) (s : State) : State :=
  emptyFifo k (dropHoldings k ((List.finRange 32).foldl (detachChan k) (detachLock k (unattached k s))))

theorem detachCtl_eq (k : Ctl) (s : State) : detachCtl k s = recheck (detachedOf k s) := rfl

/-- The channels that a DETACH frees, and those that it orphans. -/
def waitingOf (k : Ctl) (s : State) : List Chan := (List.finRange 32).filter (waitsFor k s)

def orphansOf (k : Ctl) (s : State) : List Chan := (List.finRange 32).filter (worksFor k s)

theorem mem_waitingOf : c ∈ waitingOf k s ↔ s.chans[c].owner = some k ∧ s.chans[c].state = .pending := by
  simp only [waitingOf, List.mem_filter, List.mem_finRange, true_and, waitsFor, decide_eq_true_iff]

theorem mem_orphansOf : c ∈ orphansOf k s ↔ s.chans[c].owner = some k ∧ s.chans[c].state ≠ .pending := by
  simp only [orphansOf, List.mem_filter, List.mem_finRange, true_and, worksFor, decide_eq_true_iff]

/-- The lock's end leaves the owners and the states, so the channels to free and to orphan are those of the start. -/
theorem LockDetached.lists {t u : State} (h : LockDetached k t u) :
    waitingOf k u = waitingOf k t ∧ orphansOf k u = orphansOf k t := by
  have hx (c : Chan) : u.chans[c].owner = t.chans[c].owner ∧ u.chans[c].state = t.chans[c].state := by
    rw [h.chan]
    exact ⟨rfl, rfl⟩
  have hw : waitsFor k u = waitsFor k t := funext fun c => by rw [waitsFor, waitsFor, (hx c).1, (hx c).2]
  have ho : worksFor k u = worksFor k t := funext fun c => by rw [worksFor, worksFor, (hx c).1, (hx c).2]
  rw [waitingOf, waitingOf, orphansOf, orphansOf, hw, ho]
  exact ⟨rfl, rfl⟩

/-- The lock's end of a DETACH, and its walk. -/
theorem detached_parts (k : Ctl) (s : State) : ∃ t v, LockDetached k (unattached k s) t ∧
    Walked k (waitingOf k s) (orphansOf k s) t v ∧ detachedOf k s = emptyFifo k (dropHoldings k v) := by
  have hlock := detachLock_spec k (unattached k s)
  obtain ⟨hW, hO⟩ := hlock.lists
  have hwalk := walked_foldl k (detachLock k (unattached k s)) _ (List.nodup_finRange 32)
  rw [← waitingOf, ← orphansOf, hW, hO] at hwalk
  exact ⟨_, _, hlock, hwalk, rfl⟩

theorem unattached_cbi (k : Ctl) (s : State) : (unattached k s).cbi = { s.cbi with
    attached := s.cbi.attached.set k false
    deferred := s.cbi.deferred.filter fun e => e.ctl ≠ k
    ready := s.cbi.ready.filter fun p => p.1 ≠ k
    queue := s.cbi.queue.map fun r => if r.ctl = k then { r with announces := false } else r } := by
  have hne {α : Type} (f : α → Ctl) : (fun a => f a != k) = fun a => decide (f a ≠ k) :=
    funext fun a => by rw [bne, beq_eq_decide, decide_not]
  simp only [unattached, discardDeferred, State.setCbi_cbi, hne Deferred.ctl, hne (Prod.fst (α := Ctl))]

/-! ### What DETACH leaves, part by part (R97, R174) -/

section Parts

variable {t v : State} (hlock : LockDetached k (unattached k s) t)
  (hwalk : Walked k (waitingOf k s) (orphansOf k s) t v)

include hlock in
/-- The channel after the lock's end, but for its LOCK and its bound profile. -/
theorem LockDetached.chan_eq (c : Chan) :
    t.chans[c] = { s.chans[c] with lock := s.chans[c].lock && !ownHold k c s, bound := t.chans[c].bound } :=
  hlock.chan c

include hlock hwalk

theorem detached_waiting (h : c ∈ waitingOf k s) : v.chans[c] = s.chans[c].freed := by
  rw [hwalk.chan, if_pos h, hlock.chan_eq]
  rfl

theorem detached_orphan (h : c ∈ orphansOf k s) : v.chans[c] = { s.chans[c] with
    owner := none, trainLink := none, bindLink := none, lock := s.chans[c].lock && !ownHold k c s
    bound := v.chans[c].bound } := by
  have hW : c ∉ waitingOf k s := fun hw => (mem_orphansOf.1 h).2 (mem_waitingOf.1 hw).2
  have hx : v.chans[c] = t.chans[c].orphaned := by rw [hwalk.chan, if_neg hW, if_pos h]
  rw [hx, hlock.chan_eq]
  rfl

theorem detached_other (h : s.chans[c].owner ≠ some k) : v.chans[c] = { s.chans[c] with
    lock := s.chans[c].lock && !ownHold k c s, bound := v.chans[c].bound } := by
  have hW : c ∉ waitingOf k s := fun hw => h (mem_waitingOf.1 hw).1
  have hO : c ∉ orphansOf k s := fun ho => h (mem_orphansOf.1 ho).1
  have hx : v.chans[c] = t.chans[c] := by rw [hwalk.chan, if_neg hW, if_neg hO]
  rw [hx]
  exact hlock.chan_eq c

theorem detached_bound (h : c ∉ waitingOf k s) :
    ((∃ r, Dropped k r s ∧ s.pfs.recs[r].boundChan = some c) → v.chans[c].bound = none) ∧
      ((∀ r, Dropped k r s → s.pfs.recs[r].boundChan ≠ some c) → v.chans[c].bound = s.chans[c].bound) := by
  have hx : v.chans[c].bound = t.chans[c].bound := by
    rw [hwalk.chan, if_neg h]
    split
    · rfl
    · rfl
  rw [hx]
  exact ⟨hlock.unbound c, hlock.bound c⟩

theorem detached_recs (r : Rec) : (Dropped k r s → v.pfs.recs[r] = emptyProfile) ∧
    (¬ Dropped k r s → v.pfs.recs[r] = if ∃ c ∈ waitingOf k s, s.pfs.recs[r].boundChan = some c then
      { s.pfs.recs[r] with boundChan := none } else s.pfs.recs[r]) := by
  refine ⟨fun h => ?_, fun h => ?_⟩
  · rw [hwalk.recs, hlock.dropped r h]
    exact if_neg fun ⟨_, _, hb⟩ => nomatch hb
  · rw [hwalk.recs, hlock.kept r h]
    rfl

theorem detached_recency : (∀ r, r ∈ v.pfs.recency ↔ r ∈ s.pfs.recency ∧ ¬ Dropped k r s) ∧
    ((∀ r, ¬ Dropped k r s) → v.pfs.recency = s.pfs.recency) := by
  rw [hwalk.recency]
  exact ⟨hlock.recent, hlock.recency⟩

theorem detached_locks : v.locks[k] = none ∧ ∀ j : Ctl, j ≠ k → v.locks[j] = s.locks[j].map fun l =>
    if ∃ c ∈ waitingOf k s, l.held = some c then { l with held := none } else l := by
  refine ⟨by rw [hwalk.locks, hlock.lock, Option.map_none], fun j hj => ?_⟩
  rw [hwalk.locks, hlock.locks j hj]
  rfl

theorem detached_units : (∀ g : Seg, g ∈ v.sal.freeSegs ↔
      g ∈ s.sal.freeSegs ∨ ∃ c ∈ waitingOf k s, g ∈ s.chans[c].segs) ∧
    ∀ p : Page, p ∈ v.sal.freePages ↔ p ∈ s.sal.freePages ∨ ∃ c ∈ waitingOf k s, p ∈ s.chans[c].pages := by
  have hsal : t.sal = s.sal := hlock.rest.2.1
  have hx (c : Chan) : t.chans[c].segs = s.chans[c].segs ∧ t.chans[c].pages = s.chans[c].pages := by
    rw [hlock.chan_eq]
    exact ⟨rfl, rfl⟩
  refine ⟨fun g => ?_, fun p => ?_⟩
  · simp only [hwalk.freeSegs, hsal, (hx _).1]
  · simp only [hwalk.freePages, hsal, (hx _).2]

theorem detached_sal : v.sal.heldSeg.set k 0 = s.sal.heldSeg.set k 0 ∧
    v.sal.heldPage.set k 0 = s.sal.heldPage.set k 0 ∧
    v.sal.waitQ = s.sal.waitQ.filter (fun e => e.chan ∉ waitingOf k s) ∧ v.sal.taps = s.sal.taps ∧
    v.sal.hist = s.sal.hist := by
  have hsal : t.sal = s.sal := hlock.rest.2.1
  have hheld := hwalk.held
  have hstores := hwalk.stores
  have hwait := hwalk.waitQ
  rw [hsal] at hheld hstores hwait
  exact ⟨hheld.1, hheld.2, hwait, hstores⟩

/-- The detached controller's FIFO has got nothing; the others have one event for each channel orphaned (R97). -/
theorem detached_fifos : v.fifos[k] = s.fifos[k] ∧
    ∀ j, j ≠ k → v.fifos[j] = (orphanPosts j k (orphansOf k s) s).fifos[j] := by
  obtain ⟨-, -, -, hcbi, hfifos, hbtl, -⟩ := hlock.rest
  have hattached : t.cbi.attached = s.cbi.attached.set k false := by rw [hcbi]; rfl
  refine ⟨?_, fun j hj => ?_⟩
  · rw [hwalk.fifos, orphanPosts_detached (by rw [hattached, getElem_set_same]), hfifos]
    rfl
  · rw [hwalk.fifos]
    refine orphanPosts_congr (s := s) (congrArg (fun f : Vector Fifo 4 => f[j]) hfifos) ?_ hbtl _ _
    rw [hattached, getElem_set_other _ _ _ _ (Ne.symm hj)]

theorem detached_hwi : (∀ c : Chan, (c ∈ waitingOf k s → v.hwi.inputs[c] = emptyInput ∧ v.hwi.outputs[c] = emptyHold) ∧
      (c ∉ waitingOf k s → v.hwi.inputs[c] = s.hwi.inputs[c] ∧ v.hwi.outputs[c] = s.hwi.outputs[c])) ∧
    { v.hwi with inputs := s.hwi.inputs, outputs := s.hwi.outputs } = s.hwi := by
  have hhwi : t.hwi = s.hwi := hlock.rest.1
  have hrest := hwalk.hwi
  rw [hhwi] at hrest
  refine ⟨fun c => ⟨fun h => ?_, fun h => ?_⟩, hrest⟩
  · rw [hwalk.inputs, hwalk.outputs, if_pos h, if_pos h]
    exact ⟨rfl, rfl⟩
  · rw [hwalk.inputs, hwalk.outputs, if_neg h, if_neg h, hhwi]
    exact ⟨rfl, rfl⟩

theorem detached_rest : v.cbi = (unattached k s).cbi ∧ v.jobs = s.jobs ∧ v.btl = s.btl ∧ v.free = s.free ∧
    v.pending = s.pending := by
  obtain ⟨-, -, hjobs, hcbi, -, hbtl, hfree, hpending⟩ := hlock.rest
  obtain ⟨hjobs', hcbi', hbtl', hfree', hpending'⟩ := hwalk.rest
  exact ⟨hcbi'.trans hcbi, hjobs'.trans hjobs, hbtl'.trans hbtl, hfree'.trans hfree, hpending'.trans hpending⟩

end Parts

/-! ### DETACH (R174) -/

/-- A DETACH's words count what it orphans, frees and discards (R174). -/
theorem detachWords_eq (k : Ctl) (s : State) : detachWords k s =
    [word k.val, word (orphansOf k s).length, word (waitingOf k s).length,
      word (s.cbi.deferred.filter fun e => e.ctl = k).length] := by
  have hO : (fun c : Chan => s.chans[c].owner == some k && s.chans[c].state != .pending) = worksFor k s :=
    funext fun c => by rw [worksFor, Bool.decide_and, decide_not, bne, beq_eq_decide, beq_eq_decide]
  have hW : (fun c : Chan => s.chans[c].owner == some k && s.chans[c].state == .pending) = waitsFor k s :=
    funext fun c => by rw [waitsFor, Bool.decide_and, beq_eq_decide, beq_eq_decide]
  rw [detachWords, countOwned, countOwned, hO, hW]
  rfl

/-- The effect of a DETACH of controller k. -/
def detachEffect (k : Ctl) (s : State) : State × Answer :=
  if s.cbi.attached[k] then (detachCtl k s, done (detachWords k s)) else (s, done [word k.val, 0, 0, 0])

theorem ownDetach_eq (rq : Request) (s : State) : ownDetach rq s =
    checked [(!rq.plain 1, refused .badRequest), (decide (3 < rq.num 0), refused .outOfRange)]
      (detachEffect (Fin.ofNat 4 (rq.num 0))) s := rfl

theorem exec_detach_range (h : Admitted .detach rq s) (hp : rq.plain 1 = true) (hn : 3 < rq.num 0) :
    exec .detach s = .next (answerFirst (refused .outOfRange) s) :=
  congrArg Host.Outcome.next
    (takeRequest_fail h (ownDetach_eq rq s) (formRange_fail hp (decide_eq_true hn)))

theorem exec_detach (h : Admitted .detach rq s) (hp : rq.plain 1 = true) (hn : rq.num 0 = k.val) :
    (s.cbi.attached[k] = false → exec .detach s = .next (answerFirst (done [word k.val, 0, 0, 0]) s)) ∧
      (s.cbi.attached[k] = true → exec .detach s = .next (answerFirst (done (detachWords k s)) (detachCtl k s))) := by
  have hk : (Fin.ofNat 4 (rq.num 0) : Ctl) = k := Fin.ext (by rw [hn]; exact Nat.mod_eq_of_lt k.isLt)
  have hrange : ¬ 3 < rq.num 0 := by rw [hn]; exact Nat.not_lt.2 (Nat.le_of_lt_succ k.isLt)
  have htaken := takeRequest_pass h (ownDetach_eq rq s) (formRange_pass hp (decide_eq_false hrange))
  rw [hk] at htaken
  refine ⟨fun ha => congrArg Host.Outcome.next (htaken.trans ?_),
    fun ha => congrArg Host.Outcome.next (htaken.trans ?_)⟩
  · rw [detachEffect, if_neg (by rw [ha]; decide)]
  · rw [detachEffect, if_pos ha]

end Sys2Proof.Machine

open Sys2Proof Sys2Proof.Machine

/-- Settles O48: ATTACH by its three places; DETACH by its lock's end, its walk and its controller's own parts. -/
theorem attachAndDetachChangeTheControllerTable : Obligations.AttachAndDetachChangeTheControllerTable := by
  refine ⟨fun rq s h hb hp => ?_, fun rq s h hp => ⟨exec_detach_range h hp, fun k hn => ?_⟩⟩
  · refine ⟨fun ha => ?_, fun ha => ?_⟩
    · rw [exec_attach h hb hp, attachCtl_attached ha]
      rfl
    · rw [exec_attach h hb hp, attachCtl_detached ha]
      rfl
  · obtain ⟨hout, hin⟩ := exec_detach h hp hn
    refine ⟨hout, fun ha => ?_⟩
    intro waiting orphans held dropped
    have hdropped : dropped = fun r => Dropped k r s := by
      funext r
      simp only [dropped, Dropped, DropsFill, exists_and_left]
    clear_value dropped
    subst hdropped
    obtain ⟨t, v, hlock, hwalk, hu⟩ := detached_parts k s
    obtain ⟨hheldSeg, hheldPage, hwaitQ, htaps, hhist⟩ := detached_sal hlock hwalk
    obtain ⟨hown, hothers⟩ := detached_fifos hlock hwalk
    obtain ⟨hcbi, hjobs, hbtl, hfree, hpending⟩ := detached_rest hlock hwalk
    obtain ⟨hslots, hhwi⟩ := detached_hwi hlock hwalk
    obtain ⟨hlockGone, hlocks⟩ := detached_locks hlock hwalk
    obtain ⟨hrecent, hrecency⟩ := detached_recency hlock hwalk
    obtain ⟨hsegs, hpages⟩ := detached_units hlock hwalk
    have hwaiting (c : Chan) (hc : c ∈ waiting) := detached_waiting hlock hwalk hc
    have horphans (c : Chan) (hc : c ∈ orphans) := detached_orphan hlock hwalk hc
    have hkept (c : Chan) (hc : s.chans[c].owner ≠ some k) := detached_other hlock hwalk hc
    have hbound (c : Chan) (hc : c ∉ waiting) := detached_bound hlock hwalk hc
    have hrecs := detached_recs hlock hwalk
    refine ⟨emptyFifo k (dropHoldings k v), ?_, hcbi.trans (unattached_cbi k s), hlockGone, hheldSeg, hheldPage, hwaitQ,
      htaps, hhist, ?_, fun j hj => ?_, hwaiting, horphans, hkept, hbound, hrecs, hrecent, hrecency, hlocks, hsegs,
      hpages, hslots, hhwi, ?_⟩
    · rw [hin ha, detachWords_eq, detachCtl_eq, hu]
      rfl
    · have hfifo : (emptyFifo k (dropHoldings k v)).fifos[k] =
          { v.fifos[k] with entries := [], overflow := false, line := false } := getElem_set_same _ _ _
      rw [hfifo, hown]
    · exact (getElem_set_other _ _ _ _ (Ne.symm hj)).trans (hothers j hj)
    · simp only [emptyFifo, dropHoldings, State.setFifo, State.setSal, hjobs, hbtl, hfree, hpending]
end

section
/-! The bindings of profiles and channels (R125): what their laws read of a state, and the operations that keep it. -/

namespace Sys2Proof.Machine

variable {c : Chan} {k : Ctl} {r : Rec} {s t u : State}

/-! ### Steps that keep the bindings -/

/-- Nothing that the laws of bindings read has changed, but that channels may have left FREE, and SAVE jobs, fill locks
and the boot load may have ended. -/
structure KeepsBindings (s t : State) : Prop where
  bound : ∀ c : Chan, t.chans[c].bound = s.chans[c].bound
  free : ∀ c : Chan, t.chans[c].state = .free → s.chans[c].state = .free
  recs : ∀ r : Rec, t.pfs.recs[r].state = s.pfs.recs[r].state ∧ t.pfs.recs[r].key = s.pfs.recs[r].key ∧
    t.pfs.recs[r].boundChan = s.pfs.recs[r].boundChan
  saves : ∀ j ∈ t.jobs, j.kind = .save → ∃ i ∈ s.jobs, i.kind = .save ∧ i.chan = j.chan ∧ i.key = j.key
  fills : ∀ (k : Ctl) (l : Lock), t.locks[k] = some l → l.active = true → l.purpose = .fill →
    ∃ (j : Ctl) (m : Lock), s.locks[j] = some m ∧ m.active = true ∧ m.purpose = .fill ∧ m.obj = l.obj
  booting : t.btl.status = .loading → s.btl.status = .loading ∧ (s.btl.gateOpen = false → t.btl.gateOpen = false) ∧
    ((∀ k : Ctl, s.locks[k] = none) → ∀ k : Ctl, t.locks[k] = none)

theorem KeepsBindings.trans (h : KeepsBindings s t) (h' : KeepsBindings t u) : KeepsBindings s u where
  bound c := (h'.bound c).trans (h.bound c)
  free c hf := h.free c (h'.free c hf)
  recs r := by
    obtain ⟨hstate, hkey, hbound⟩ := h.recs r
    obtain ⟨hstate', hkey', hbound'⟩ := h'.recs r
    exact ⟨hstate'.trans hstate, hkey'.trans hkey, hbound'.trans hbound⟩
  saves j hj hs := by
    obtain ⟨i, hi, his, hchan, hkey⟩ := h'.saves j hj hs
    obtain ⟨i', hi', his', hchan', hkey'⟩ := h.saves i hi his
    exact ⟨i', hi', his', hchan'.trans hchan, hkey'.trans hkey⟩
  fills k l hl ha hp := by
    obtain ⟨j, m, hm, hma, hmp, hmo⟩ := h'.fills k l hl ha hp
    obtain ⟨j', m', hm', hma', hmp', hmo'⟩ := h.fills j m hm hma hmp
    exact ⟨j', m', hm', hma', hmp', hmo'.trans hmo⟩
  booting hb := by
    obtain ⟨hs, hgate, hlocks⟩ := h'.booting hb
    obtain ⟨hs', hgate', hlocks'⟩ := h.booting hs
    exact ⟨hs', fun hg => hgate (hgate' hg), fun hl => hlocks (hlocks' hl)⟩

/-- Only channels have changed, beside what the laws do not read. -/
theorem KeepsBindings.ofChans (hc : ∀ c : Chan, t.chans[c].bound = s.chans[c].bound ∧
      (t.chans[c].state = .free → s.chans[c].state = .free)) (hp : t.pfs = s.pfs) (hj : t.jobs = s.jobs)
    (hl : t.locks = s.locks) (hb : t.btl = s.btl) : KeepsBindings s t where
  bound c := (hc c).1
  free c := (hc c).2
  recs r := by rw [hp]; exact ⟨rfl, rfl, rfl⟩
  saves j hj' hs := ⟨j, hj ▸ hj', hs, rfl, rfl⟩
  fills k l hl' ha hp := ⟨k, l, hl ▸ hl', ha, hp, rfl⟩
  booting h := by
    rw [hb] at h ⊢
    rw [hl]
    exact ⟨h, id, id⟩

theorem KeepsBindings.ofEq (hc : t.chans = s.chans) (hp : t.pfs = s.pfs) (hj : t.jobs = s.jobs)
    (hl : t.locks = s.locks) (hb : t.btl = s.btl) : KeepsBindings s t :=
  .ofChans (fun c => by rw [hc]; exact ⟨rfl, id⟩) hp hj hl hb

theorem KeepsBindings.refl (s : State) : KeepsBindings s s := .ofEq rfl rfl rfl rfl rfl

theorem SameCore.bindings (h : SameCore s t) : KeepsBindings s t := .ofEq h.chans h.pfs h.jobs h.locks h.btl

theorem KeepsBindings.setChan {x : Context} (hb : x.bound = s.chans[c].bound)
    (hf : x.state = .free → s.chans[c].state = .free) : KeepsBindings s (s.setChan c x) := by
  refine .ofChans (fun d => ?_) rfl rfl rfl rfl
  rw [State.setChan_chans, getElem_set_fin]
  split
  · next hd => exact hd ▸ ⟨hb, hf⟩
  · exact ⟨rfl, id⟩

theorem KeepsBindings.modChan {f : Context → Context} (h : KeepsBindings s t) (hb : ∀ x, (f x).bound = x.bound)
    (hf : (f t.chans[c]).state = .free → t.chans[c].state = .free) : KeepsBindings s (t.modChan c f) :=
  h.trans (.setChan (hb _) hf)

theorem ServedTo.bindings (h : ServedTo c s t) : KeepsBindings s t := by
  obtain ⟨x, hc, hl, hx⟩ := h.chans
  refine .ofChans (fun d => ?_) h.pfs h.jobs h.locks h.btl
  rw [hc, getElem_set_fin]
  split
  · next hd =>
    refine hd ▸ ⟨congrArg Prod.snd hl, fun hf => ?_⟩
    rw [hf] at hx
    cases hx
  · exact ⟨rfl, id⟩

/-! ### Records, jobs and locks -/

theorem KeepsBindings.setRec {q : Profile} (hs : q.state = s.pfs.recs[r].state) (hk : q.key = s.pfs.recs[r].key)
    (hb : q.boundChan = s.pfs.recs[r].boundChan) : KeepsBindings s (s.setRec r q) :=
  { KeepsBindings.refl s with
    recs := fun r' => by
      rw [State.setRec_pfs, getElem_set_fin]
      split
      · next hr => exact hr ▸ ⟨hs, hk, hb⟩
      · exact ⟨rfl, rfl, rfl⟩ }

theorem KeepsBindings.setRecency (l : List Rec) : KeepsBindings s (s.setRecency l) :=
  { KeepsBindings.refl s with recs := fun _ => ⟨rfl, rfl, rfl⟩ }

/-- Each job of the new queue is a LOAD, or was there with its channel and its key. -/
theorem KeepsBindings.setJobs {js : List Job} (h : ∀ j ∈ js, j.kind = .save →
    ∃ i ∈ s.jobs, i.kind = .save ∧ i.chan = j.chan ∧ i.key = j.key) : KeepsBindings s (s.setJobs js) :=
  { KeepsBindings.refl s with saves := h }

theorem KeepsBindings.dropJobs {js : List Job} (h : js.Sublist s.jobs) : KeepsBindings s (s.setJobs js) :=
  .setJobs fun j hj hs => ⟨j, h.subset hj, hs, rfl, rfl⟩

/-- A lock leaves, or breaks, or is renewed. -/
theorem KeepsBindings.setLock {o : Option Lock} (hm : ∀ l, o = some l → ∃ m, s.locks[k] = some m ∧
    (l.active = true → m.active = true) ∧ l.purpose = m.purpose ∧ l.obj = m.obj) : KeepsBindings s (s.setLock k o) := by
  have hplace (j : Ctl) (l : Lock) (hl : (s.setLock k o).locks[j] = some l) : ∃ m, s.locks[j] = some m ∧
      (l.active = true → m.active = true) ∧ l.purpose = m.purpose ∧ l.obj = m.obj := by
    rw [State.setLock_locks, getElem_set_fin] at hl
    split at hl
    · next hj => exact hj ▸ hm l hl
    · exact ⟨l, hl, id, rfl, rfl⟩
  refine { KeepsBindings.refl s with fills := fun j l hl ha hp => ?_, booting := fun hb => ⟨hb, id, fun hn j => ?_⟩ }
  · obtain ⟨m, hml, hma, hmp, hmo⟩ := hplace j l hl
    exact ⟨j, m, hml, hma ha, hmp ▸ hp, hmo.symm⟩
  · refine Option.eq_none_iff_forall_not_mem.2 fun l hl => ?_
    obtain ⟨m, hml, -⟩ := hplace j l hl
    rw [hn j] at hml
    cases hml

theorem KeepsBindings.clearLock : KeepsBindings s (s.setLock k none) := .setLock fun _ h => nomatch h

/-! ### The shared operations -/

theorem postOwner_bindings (c : Chan) (e : EventKind) (d : Nat) (s : State) :
    KeepsBindings s (postOwner c e d s) := .ofEq (by simp) (by simp) (by simp) (by simp) (by simp)

theorem postLink_bindings (c : Chan) (l : Option Tag) (o : Result) (ws : List Word) (s : State) :
    KeepsBindings s (postLink c l o ws s) := .ofEq (by simp) (by simp) (by simp) (by simp) (by simp)

theorem makeDeferred_bindings (rq : Request) (s : State) : KeepsBindings s (makeDeferred rq s) :=
  .ofEq rfl rfl rfl rfl rfl

theorem completeTraining_bindings (c : Chan) (o : Result) (s : State) :
    KeepsBindings s (completeTraining c o s) := by
  unfold completeTraining
  split
  · exact (postLink_bindings _ _ _ _ _).modChan (fun _ => rfl) id
  · exact .refl s

theorem completeBind_bindings (c : Chan) (o : Result) (s : State) : KeepsBindings s (completeBind c o s) :=
  (postLink_bindings _ _ _ _ _).modChan (fun _ => rfl) id

theorem completeRelease_bindings (c : Chan) (o : Result) (n : Nat) (key : Option Key) (s : State) :
    KeepsBindings s (completeRelease c o n key s) :=
  (postLink_bindings _ _ _ _ _).modChan (fun _ => rfl) id

theorem setSal_bindings (m : Sal) (s : State) : KeepsBindings s (s.setSal m) := .ofEq rfl rfl rfl rfl rfl

theorem applyCorrections_bindings (c : Chan) (rd : List TapRead) (s : State) :
    KeepsBindings s (applyCorrections c rd s) := by
  rw [applyCorrections_eq]
  exact (KeepsBindings.setChan (x := countCorrections rd s.chans[c]) (by rw [countCorrections_eq])
    (by rw [countCorrections_eq]; exact id)).trans (.ofEq rfl rfl rfl rfl rfl)

theorem unholdChan_bindings (l : Lock) (s : State) : KeepsBindings s (unholdChan l s) := by
  unfold unholdChan
  split
  · exact .refl s
  · exact (KeepsBindings.refl s).modChan (fun _ => rfl) id

theorem endLock_bindings (k : Ctl) (s : State) : KeepsBindings s (endLock k s) := by
  unfold endLock
  split
  · exact .refl s
  · exact (unholdChan_bindings _ _).trans .clearLock

theorem cancelJob_bindings (c : Chan) (s : State) : KeepsBindings s (cancelJob c s) := .dropJobs List.filter_sublist

theorem removeWait_bindings (c : Chan) (s : State) : KeepsBindings s (removeWait c s) := setSal_bindings _ _

/-! ### Grants and re-checks (R82, R83, R113) -/

theorem queueLoad_bindings (c : Chan) (key : Key) (r : Rec) (s : State) :
    KeepsBindings s (queueLoad c key r s) := by
  have hrec : KeepsBindings s (s.setRec r { s.pfs.recs[r] with useCount := min 65535 (s.pfs.recs[r].useCount + 1) }) :=
    .setRec rfl rfl rfl
  unfold queueLoad
  dsimp only
  refine KeepsBindings.modChan ?_ (by exact fun _ => rfl) (by exact nofun)
  refine (hrec.trans (.setRecency _)).trans (.setJobs fun j hj hs => ?_)
  rcases List.mem_append.1 hj with hj | hj
  · exact ⟨j, hj, hs, rfl, rfl⟩
  · rw [List.mem_singleton.1 hj] at hs
    cases hs

theorem enterGranted_bindings (c : Chan) (s : State) : KeepsBindings s (enterGranted c s) := by
  unfold enterGranted
  split
  · exact queueLoad_bindings _ _ _ _
  · exact ((KeepsBindings.refl s).modChan (by exact fun _ => rfl) (by exact nofun)).trans (completeBind_bindings _ _ _)

theorem grant_bindings (c : Chan) (n m : Nat) (s : State) : KeepsBindings s (grant c n m s) := by
  have hunits : KeepsBindings s (unitsGranted c n m s) :=
    (KeepsBindings.setChan (c := c) (x := grantContext c n m s) rfl id).trans (.ofEq rfl rfl rfl rfl rfl)
  rw [grant_eq]
  exact hunits.trans (enterGranted_bindings _ _)

theorem recheckFrom_bindings (n : Nat) (s : State) : KeepsBindings s (recheckFrom n s) := by
  induction n generalizing s with
  | zero => exact .refl s
  | succ n ih =>
    unfold recheckFrom
    split
    · exact .refl s
    · split
      · exact ((setSal_bindings _ _).trans (grant_bindings _ _ _ _)).trans (ih _)
      · exact .refl s

theorem recheck_bindings (s : State) : KeepsBindings s (recheck s) := recheckFrom_bindings _ _

end Sys2Proof.Machine
end

section
/-! The bindings of profiles and channels: a channel lifted out of their laws and set down, records that change, and
fills that are dropped (R72, R122, R125, R127, R138). -/

namespace Sys2Proof.Machine

variable {p : Chan → Prop} {c : Chan} {k : Ctl} {r : Rec} {l : Lock} {s t u : State}

/-! ### The laws for some of the channels -/

/-- The laws of bindings, for the channels of `p`; the others have no SAVE job. -/
structure Bindings (p : Chan → Prop) (s : State) : Prop where
  ofProfile : ∀ (r : Rec) (c : Chan), p c → s.pfs.recs[r].boundChan = some c →
    s.pfs.recs[r].state ≠ .empty ∧ ∃ key, s.pfs.recs[r].key = some key ∧ s.chans[c].bound = some key
  ofChannel : ∀ (c : Chan) (key : Key), p c → s.chans[c].bound = some key →
    ∃ r : Rec, s.pfs.recs[r].state ≠ .empty ∧ s.pfs.recs[r].key = some key ∧ s.pfs.recs[r].boundChan = some c
  free : ∀ c : Chan, p c → s.chans[c].state = .free → s.chans[c].bound = none
  saves : ∀ j ∈ s.jobs, j.kind = .save → p j.chan ∧ s.chans[j.chan].bound = some j.key
  fills : ∀ (k : Ctl) (l : Lock) (key : Key), s.locks[k] = some l → l.active = true → l.purpose = .fill →
    l.obj = .profile key →
    ∃ r : Rec, s.pfs.recs[r].state = .filling ∧ s.pfs.recs[r].key = some key ∧ s.pfs.recs[r].boundChan = none
  booting : s.btl.status = .loading → s.btl.gateOpen = false ∧ ∀ k : Ctl, s.locks[k] = none

/-- All channels. -/
abbrev AllBindings : State → Prop := Bindings fun _ => True

theorem allBindings_iff (s : State) : AllBindings s ↔ BindingsOk s :=
  ⟨fun h => ⟨fun r c => h.ofProfile r c trivial, fun c key => h.ofChannel c key trivial, fun c => h.free c trivial,
      fun j hj hs => (h.saves j hj hs).2, h.fills, h.booting⟩,
    fun h => ⟨fun r c _ => h.ofProfile r c, fun c key _ => h.ofChannel c key, fun c _ => h.free c,
      fun j hj hs => ⟨trivial, h.saves j hj hs⟩, h.fills, h.booting⟩⟩

theorem Bindings.keep (h : Bindings p s) (hk : KeepsBindings s t) : Bindings p t where
  ofProfile r c hp hb := by
    obtain ⟨hstate, hkey, hbound⟩ := hk.recs r
    rw [hstate, hkey, hk.bound]
    exact h.ofProfile r c hp (hbound ▸ hb)
  ofChannel c key hp hb := by
    obtain ⟨r, hstate, hkey, hbound⟩ := h.ofChannel c key hp (hk.bound c ▸ hb)
    obtain ⟨hstate', hkey', hbound'⟩ := hk.recs r
    exact ⟨r, hstate' ▸ hstate, hkey' ▸ hkey, hbound' ▸ hbound⟩
  free c hp hf := (hk.bound c).trans (h.free c hp (hk.free c hf))
  saves j hj hs := by
    obtain ⟨i, hi, his, hchan, hkey⟩ := hk.saves j hj hs
    rw [hk.bound, ← hchan, ← hkey]
    exact h.saves i hi his
  fills k l key hl ha hp ho := by
    obtain ⟨j, m, hm, hma, hmp, hmo⟩ := hk.fills k l hl ha hp
    obtain ⟨r, hstate, hkey, hbound⟩ := h.fills j m key hm hma hmp (hmo.trans ho)
    obtain ⟨hstate', hkey', hbound'⟩ := hk.recs r
    exact ⟨r, hstate'.trans hstate, hkey'.trans hkey, hbound'.trans hbound⟩
  booting hb := by
    obtain ⟨hs, hgate, hlocks⟩ := hk.booting hb
    exact ⟨hgate (h.booting hs).1, hlocks (h.booting hs).2⟩

/-- A channel without a SAVE job can be lifted out. -/
theorem Bindings.lift (h : AllBindings s) (hj : ∀ j ∈ s.jobs, j.kind = .save → j.chan ≠ c) : Bindings (· ≠ c) s where
  ofProfile r d _ := h.ofProfile r d trivial
  ofChannel d key _ := h.ofChannel d key trivial
  free d _ := h.free d trivial
  saves j hm hs := ⟨hj j hm hs, (h.saves j hm hs).2⟩
  fills := h.fills
  booting := h.booting

/-- A channel is set down with its own bindings. -/
theorem Bindings.land (h : Bindings (· ≠ c) s)
    (hp : ∀ r : Rec, s.pfs.recs[r].boundChan = some c →
      s.pfs.recs[r].state ≠ .empty ∧ ∃ key, s.pfs.recs[r].key = some key ∧ s.chans[c].bound = some key)
    (hb : ∀ key, s.chans[c].bound = some key →
      ∃ r : Rec, s.pfs.recs[r].state ≠ .empty ∧ s.pfs.recs[r].key = some key ∧ s.pfs.recs[r].boundChan = some c)
    (hf : s.chans[c].state = .free → s.chans[c].bound = none) : AllBindings s where
  ofProfile r d _ hd := by
    by_cases hdc : d = c
    · exact hdc ▸ hp r (hdc ▸ hd)
    · exact h.ofProfile r d hdc hd
  ofChannel d key _ hd := by
    by_cases hdc : d = c
    · subst hdc
      exact hb key hd
    · exact h.ofChannel d key hdc hd
  free d _ hd := by
    by_cases hdc : d = c
    · subst hdc
      exact hf hd
    · exact h.free d hdc hd
  saves j hj hs := ⟨trivial, (h.saves j hj hs).2⟩
  fills := h.fills
  booting := h.booting

/-- A lifted channel may change. -/
theorem Bindings.setChan {x : Context} (h : Bindings (· ≠ c) s) : Bindings (· ≠ c) (s.setChan c x) := by
  have hother (d : Chan) (hd : d ≠ c) : (s.setChan c x).chans[d] = s.chans[d] := getElem_set_other _ _ _ _ (Ne.symm hd)
  refine ⟨fun r d hd => ?_, fun d key hd => ?_, fun d hd => ?_, fun j hj hs => ?_, h.fills, h.booting⟩
  · rw [hother d hd]
    exact h.ofProfile r d hd
  · rw [hother d hd]
    exact h.ofChannel d key hd
  · rw [hother d hd]
    exact h.free d hd
  · obtain ⟨hd, hb⟩ := h.saves j hj hs
    exact ⟨hd, by rw [hother _ hd]; exact hb⟩

/-! ### Records that change -/

/-- No fill in progress is on the record. -/
def NoFill (r : Rec) (s : State) : Prop :=
  ∀ (k : Ctl) (l : Lock) (key : Key), s.locks[k] = some l → l.active = true → l.purpose = .fill →
    l.obj = .profile key → s.pfs.recs[r].state = .filling → s.pfs.recs[r].key ≠ some key

/-- A record that no channel of `p` is bound to, before or after, and that is under no fill, may change. -/
theorem Bindings.setRec {q : Profile} (h : Bindings p s) (hold : ∀ c, p c → s.pfs.recs[r].boundChan ≠ some c)
    (hnew : ∀ c, p c → q.boundChan ≠ some c) (hf : NoFill r s) : Bindings p (s.setRec r q) := by
  have hother (r' : Rec) (hr : r' ≠ r) : (s.setRec r q).pfs.recs[r'] = s.pfs.recs[r'] :=
    getElem_set_other _ _ _ _ (Ne.symm hr)
  refine ⟨fun r' c hp hb => ?_, fun c key hp hb => ?_, h.free, h.saves, fun k l key hl ha hp ho => ?_, h.booting⟩
  · by_cases hr : r' = r
    · subst hr
      rw [State.setRec_pfs, getElem_set_same] at hb
      exact absurd hb (hnew c hp)
    · rw [hother r' hr] at hb ⊢
      exact h.ofProfile r' c hp hb
  · obtain ⟨r', hstate, hkey, hbound⟩ := h.ofChannel c key hp hb
    have hr : r' ≠ r := fun e => hold c hp (e ▸ hbound)
    exact ⟨r', by rw [hother r' hr]; exact ⟨hstate, hkey, hbound⟩⟩
  · obtain ⟨r', hstate, hkey, hbound⟩ := h.fills k l key hl ha hp ho
    have hr : r' ≠ r := fun e => hf k l key hl ha hp ho (e ▸ hstate) (e ▸ hkey)
    exact ⟨r', by rw [hother r' hr]; exact ⟨hstate, hkey, hbound⟩⟩

/-- No two records in use hold one key (R121). -/
def KeysApart (s : State) : Prop :=
  ∀ r r' : Rec, s.pfs.recs[r].state ≠ .empty → s.pfs.recs[r'].state ≠ .empty →
    s.pfs.recs[r].key = s.pfs.recs[r'].key → r = r'

/-- Two records bound to one channel are the same. -/
theorem Bindings.boundOnce {r' : Rec} (h : Bindings p s) (hk : KeysApart s) (hp : p c)
    (hr : s.pfs.recs[r].boundChan = some c) (hr' : s.pfs.recs[r'].boundChan = some c) : r = r' := by
  obtain ⟨hs, key, hkey, hb⟩ := h.ofProfile r c hp hr
  obtain ⟨hs', key', hkey', hb'⟩ := h.ofProfile r' c hp hr'
  exact hk r r' hs hs' (by rw [hkey, hkey', ← hb, ← hb'])

/-- The record of a key in use is the one that holds it. -/
theorem findProfile_eq {key : Key} {r' : Rec} (hk : KeysApart s) (hf : findProfile key s = some r)
    (hs : s.pfs.recs[r'].state ≠ .empty) (hkey : s.pfs.recs[r'].key = some key) : r = r' := by
  obtain ⟨hr, hrk⟩ := findProfile_some hf
  exact hk r r' hr hs (hrk.trans hkey.symm)

/-- A record becomes EMPTY with its binding (R122). -/
theorem Bindings.emptyRecord (h : AllBindings s) (hk : KeysApart s)
    (hs : ∀ c, s.pfs.recs[r].boundChan = some c → ∀ j ∈ s.jobs, j.kind = .save → j.chan ≠ c) (hf : NoFill r s) :
    AllBindings (emptyRecord r s) := by
  cases hb : s.pfs.recs[r].boundChan with
  | none =>
    have heq : Machine.emptyRecord r s =
        (s.setRec r emptyProfile).setRecency (s.pfs.recency.filter (· != r)) := by
      rw [Machine.emptyRecord, hb]
    rw [heq]
    exact (Bindings.setRec (q := emptyProfile) h (fun c _ => by rw [hb]; exact nofun) (fun c _ => nofun) hf).keep
      (.setRecency _)
  | some c =>
    have heq : Machine.emptyRecord r s = ((s.setRec r emptyProfile).setRecency (s.pfs.recency.filter (· != r))).setChan
        c { s.chans[c] with bound := none } := by
      rw [Machine.emptyRecord, hb]
      rfl
    rw [heq]
    have hlifted : Bindings (· ≠ c) (s.setRec r emptyProfile) :=
      (h.lift (hs c hb)).setRec (fun d hd => by rw [hb]; exact fun e => hd (Option.some.inj e).symm)
        (fun d _ => nofun) hf
    have hx : ((s.setRec r emptyProfile).setRecency (s.pfs.recency.filter (· != r))).setChan c
        { s.chans[c] with bound := none } |>.chans[c] = { s.chans[c] with bound := none } := getElem_set_same _ _ _
    refine (hlifted.keep (.setRecency _)).setChan.land (fun r' hr' => ?_) (fun key hkey => ?_) fun _ => ?_
    · by_cases hr : r' = r
      · subst hr
        rw [State.setChan_pfs, State.setRecency_pfs, State.setRec_pfs, getElem_set_same] at hr'
        cases hr'
      · rw [State.setChan_pfs, State.setRecency_pfs, State.setRec_pfs, getElem_set_other _ _ _ _ (Ne.symm hr)] at hr'
        exact absurd (h.boundOnce hk trivial hr' hb) hr
    · rw [hx] at hkey
      cases hkey
    · rw [hx]

/-! ### Entry to FREE (R72) -/

theorem Bindings.enterFree (h : Bindings (· ≠ c) s) : AllBindings (enterFree c s) := by
  have hchan (d : Chan) (hd : d ≠ c) : (Machine.enterFree c s).chans[d] = s.chans[d] := by
    rw [enterFree_chans, getElem_set_other _ _ _ _ (Ne.symm hd)]
  have hfreed : (Machine.enterFree c s).chans[c].bound = none := by
    rw [enterFree_chans, getElem_set_same]
    rfl
  have hrec (r : Rec) (hr : s.pfs.recs[r].boundChan ≠ some c) : (Machine.enterFree c s).pfs.recs[r] = s.pfs.recs[r] := by
    rw [enterFree_recs, if_neg hr]
  have hunbound (r : Rec) : (Machine.enterFree c s).pfs.recs[r].boundChan ≠ some c := by
    rw [enterFree_recs]
    split
    · exact nofun
    · assumption
  obtain ⟨hjobs, -, -, hbtl, -⟩ := enterFree_keeps c s
  refine ⟨fun r d _ hb => ?_, fun d key _ hb => ?_, fun d _ hd => ?_, fun j hj hs => ?_, fun k l key hl ha hp ho => ?_,
    fun hb => ?_⟩
  · have hd : d ≠ c := by
      rintro rfl
      exact hunbound r hb
    have hr : s.pfs.recs[r].boundChan ≠ some c := by
      intro hr
      rw [enterFree_recs, if_pos hr] at hb
      cases hb
    rw [hrec r hr] at hb ⊢
    rw [hchan d hd]
    exact h.ofProfile r d hd hb
  · have hd : d ≠ c := by
      rintro rfl
      rw [hfreed] at hb
      cases hb
    rw [hchan d hd] at hb
    obtain ⟨r, hstate, hkey, hbound⟩ := h.ofChannel d key hd hb
    have hr : s.pfs.recs[r].boundChan ≠ some c := by
      rw [hbound]
      exact fun e => hd (Option.some.inj e)
    exact ⟨r, by rw [hrec r hr]; exact ⟨hstate, hkey, hbound⟩⟩
  · by_cases hdc : d = c
    · rw [hdc]
      exact hfreed
    · rw [hchan d hdc] at hd ⊢
      exact h.free d hdc hd
  · rw [hjobs] at hj
    obtain ⟨hd, hb⟩ := h.saves j hj hs
    exact ⟨trivial, by rw [hchan _ hd]; exact hb⟩
  · rw [enterFree_locks, Option.map_eq_some_iff] at hl
    obtain ⟨m, hm, rfl⟩ := hl
    have hsame : (if m.held = some c then { m with held := none } else m).active = m.active ∧
        (if m.held = some c then { m with held := none } else m).purpose = m.purpose ∧
        (if m.held = some c then { m with held := none } else m).obj = m.obj := by
      split <;> exact ⟨rfl, rfl, rfl⟩
    obtain ⟨hma, hmp, hmo⟩ := hsame
    obtain ⟨r, hstate, hkey, hbound⟩ := h.fills k m key hm (hma ▸ ha) (hmp ▸ hp) (hmo ▸ ho)
    exact ⟨r, by rw [hrec r (by rw [hbound]; exact nofun)]; exact ⟨hstate, hkey, hbound⟩⟩
  · rw [hbtl] at hb ⊢
    refine ⟨(h.booting hb).1, fun k => ?_⟩
    rw [enterFree_locks, (h.booting hb).2 k, Option.map_none]

end Sys2Proof.Machine
end

section
/-! The bindings when fills end: locks that break or go, DETACH, STORE PROFILE TAPS and DROP PROFILE (R97, R138, R141,
R152, R155). -/

namespace Sys2Proof.Machine

variable {p : Chan → Prop} {c : Chan} {k : Ctl} {r : Rec} {l : Lock} {rq : Request} {s t v : State}

/-! ### Keys and objects apart -/

/-- No two records in use hold one key, and no two ACTIVE locks one object (R121, R147). -/
structure Apart (s : State) : Prop where
  keys : KeysApart s
  objects : ∀ (j k : Ctl) (l m : Lock), s.locks[j] = some l → s.locks[k] = some m → l.active = true →
    m.active = true → l.obj = m.obj → j = k

/-- They stay so while records only become EMPTY or stay in use as they are, and locks only leave or break. -/
theorem Apart.of_less (h : Apart s)
    (hr : ∀ r : Rec, t.pfs.recs[r].state ≠ .empty → s.pfs.recs[r].state ≠ .empty ∧ t.pfs.recs[r].key = s.pfs.recs[r].key)
    (hl : ∀ (k : Ctl) (l : Lock), t.locks[k] = some l → l.active = true →
      ∃ m, s.locks[k] = some m ∧ m.active = true ∧ m.obj = l.obj) : Apart t where
  keys r r' hs hs' he := by
    obtain ⟨hu, hk⟩ := hr r hs
    obtain ⟨hu', hk'⟩ := hr r' hs'
    exact h.keys r r' hu hu' (by rw [← hk, ← hk', he])
  objects j k l m hj hk ha ha' ho := by
    obtain ⟨l', hl', hla, hlo⟩ := hl j l hj ha
    obtain ⟨m', hm', hma, hmo⟩ := hl k m hk ha'
    exact h.objects j k l' m' hl' hm' hla hma (by rw [hlo, hmo, ho])

theorem Apart.ofEq (h : Apart s) (hp : t.pfs = s.pfs) (hl : t.locks = s.locks) : Apart t :=
  h.of_less (fun r hr => by rw [hp] at hr ⊢; exact ⟨hr, rfl⟩) fun k l hk ha => ⟨l, hl ▸ hk, ha, rfl⟩

/-! ### Fills dropped with their lock (R138) -/

/-- The record of a fill is FILLING and bound to no channel. -/
theorem Bindings.dropsFill (h : Bindings p s) (hk : KeysApart s) (hl : s.locks[k] = some l) (hd : DropsFill l r s) :
    s.pfs.recs[r].state = .filling ∧ s.pfs.recs[r].boundChan = none := by
  obtain ⟨key, hp, ha, ho, hf⟩ := hd
  obtain ⟨r', hstate, hkey, hbound⟩ := h.fills k l key hl ha hp ho
  obtain rfl := findProfile_eq hk hf (by rw [hstate]; decide) hkey
  exact ⟨hstate, hbound⟩

/-- When its lock has gone no other fill is on the record. -/
theorem noFill_of_dropsFill (ha : Apart s) (hl : s.locks[k] = some l) (hd : DropsFill l r s) (hp : t.pfs = s.pfs)
    (hlocks : ∀ (j : Ctl) (m : Lock), t.locks[j] = some m → m.active = true → j ≠ k ∧ s.locks[j] = some m) :
    NoFill r t := by
  intro j m key hm hma hmp hmo hstate hkey
  obtain ⟨key', -, hla, hlo, hf⟩ := hd
  obtain ⟨hjk, hm'⟩ := hlocks j m hm hma
  rw [hp, (findProfile_some hf).2, Option.some.injEq] at hkey
  exact hjk (ha.objects j k m l hm' hl hma hla (by rw [hmo, hlo, hkey]))

/-- A fill's record is dropped when its lock has gone. -/
theorem Bindings.dropFill (h : AllBindings t) (hk : KeysApart t)
    (hr : ∀ r, DropsFill l r t → t.pfs.recs[r].boundChan = none ∧ NoFill r t) : AllBindings (dropFill l t) := by
  by_cases hd : ∃ r, DropsFill l r t
  · obtain ⟨r, hd⟩ := hd
    obtain ⟨hb, hn⟩ := hr r hd
    rw [dropFill_some hd]
    exact h.emptyRecord hk (fun c hc => by rw [hb] at hc; cases hc) hn
  · rw [dropFill_none fun r hr => hd ⟨r, hr⟩]
    exact h

theorem dropFill_setLock (l : Lock) (k : Ctl) (o : Option Lock) (s : State) :
    (dropFill l s).setLock k o = dropFill l (s.setLock k o) := by
  have hrecord (r : Rec) : (emptyRecord r s).setLock k o = emptyRecord r (s.setLock k o) := by
    unfold emptyRecord
    rw [State.setLock_pfs]
    cases s.pfs.recs[r].boundChan <;> rfl
  have hfind (key : Key) : findProfile key (s.setLock k o) = findProfile key s := rfl
  unfold dropFill
  split
  · split
    · rw [hfind]
      split
      · rfl
      · exact hrecord _
    · rfl
  · rfl

/-- A record after a fill is dropped is EMPTY or as it was. -/
theorem dropFill_rec (l : Lock) (s : State) (r : Rec) :
    (dropFill l s).pfs.recs[r].state = .empty ∨ (dropFill l s).pfs.recs[r] = s.pfs.recs[r] := by
  by_cases hd : ∃ r, DropsFill l r s
  · obtain ⟨q, hd⟩ := hd
    rw [dropFill_some hd, emptyRecord_recs]
    split
    · exact .inl rfl
    · exact .inr rfl
  · rw [dropFill_none fun r hr => hd ⟨r, hr⟩]
    exact .inr rfl

/-- The state in which a lock has left its channel, and its place holds `o`. -/
def lockGone (k : Ctl) (l : Lock) (o : Option Lock) (s : State) : State := (unholdChan l s).setLock k o

theorem lockGone_pfs (k : Ctl) (l : Lock) (o : Option Lock) (s : State) : (lockGone k l o s).pfs = s.pfs :=
  (unholdChan_keeps l s).2.2.1

/-- No ACTIVE lock is new in it. -/
theorem lockGone_locks {o : Option Lock} (ho : ∀ m, o = some m → m.active = false) (j : Ctl) (m : Lock)
    (hm : (lockGone k l o s).locks[j] = some m) (ha : m.active = true) : j ≠ k ∧ s.locks[j] = some m := by
  rw [lockGone, State.setLock_locks, getElem_set_fin, (unholdChan_keeps l s).2.2.2.2.1] at hm
  split at hm
  · rw [ho m hm] at ha
    cases ha
  · next hj => exact ⟨Ne.symm hj, hm⟩

/-- A lock that goes or breaks drops its fill (R138, R152, R155). -/
theorem Bindings.lockGone {o : Option Lock} (h : AllBindings s) (ha : Apart s) (hl : s.locks[k] = some l)
    (ho : ∀ m, o = some m → m.active = false ∧ m.purpose = l.purpose ∧ m.obj = l.obj) :
    AllBindings (Machine.dropFill l (lockGone k l o s)) ∧ Apart (Machine.dropFill l (lockGone k l o s)) := by
  have hpfs := lockGone_pfs k l o s
  have hlocks := lockGone_locks (k := k) (l := l) (s := s) fun m hm => (ho m hm).1
  have hgone : AllBindings (Machine.lockGone k l o s) := h.keep ((unholdChan_bindings l s).trans (.setLock fun m hm => by
    obtain ⟨hi, hp, hobj⟩ := ho m hm
    rw [(unholdChan_keeps l s).2.2.2.2.1]
    refine ⟨l, hl, fun hma => ?_, hp, hobj⟩
    rw [hi] at hma
    cases hma))
  have happ : Apart (Machine.lockGone k l o s) := ha.of_less (fun r hr => by rw [hpfs] at hr ⊢; exact ⟨hr, rfl⟩)
    fun j m hm hma => ⟨m, (hlocks j m hm hma).2, hma, rfl⟩
  have hdrops (r : Rec) (hd : DropsFill l r (Machine.lockGone k l o s)) : DropsFill l r s := by
    obtain ⟨key, hp, hla, hlo, hf⟩ := hd
    exact ⟨key, hp, hla, hlo, by rwa [findProfile, hpfs] at hf⟩
  refine ⟨hgone.dropFill happ.keys fun r hd => ⟨?_, ?_⟩, happ.of_less (fun r hr => ?_) fun j m hm hma => ?_⟩
  · rw [hpfs]
    exact (h.dropsFill ha.keys hl (hdrops r hd)).2
  · exact noFill_of_dropsFill ha hl (hdrops r hd) hpfs hlocks
  · rcases dropFill_rec l (Machine.lockGone k l o s) r with he | he
    · exact absurd he hr
    · rw [he] at hr ⊢
      exact ⟨hr, rfl⟩
  · rw [(dropFill_keeps l _).2.2.2.1] at hm
    exact ⟨m, hm, hma, rfl⟩

/-! ### Expiries (R138, R152) -/

theorem lockDue_some (h : lockDue k s = some l) : s.locks[k] = some l := by
  rw [lockDue, Option.filter_eq_some_iff] at h
  exact h.1

/-- A lock that breaks, whole: its fill is dropped from the state without it, and its event is posted. -/
theorem breakLock_eq (k : Ctl) (l : Lock) (s : State) : ∃ f, breakLock k l s =
    { dropFill l (lockGone k l (some { l with active := false, held := none }) s) with fifos := f } := by
  refine ⟨(postTo k .lockBroken l.held l.purpose.code (dropFill l (unholdChan l s))).fifos, ?_⟩
  rw [breakLock, postTo_eq, lockGone, ← dropFill_setLock]
  rfl

theorem expireLock_bindings (k : Ctl) (h : AllBindings s ∧ Apart s) :
    AllBindings (expireLock k s) ∧ Apart (expireLock k s) := by
  unfold expireLock
  split
  · exact h
  · next l hl =>
    obtain ⟨f, hf⟩ := breakLock_eq k l s
    obtain ⟨hb, ha⟩ := h.1.lockGone (o := some { l with active := false, held := none }) h.2 (lockDue_some hl)
      fun m hm => by
        cases hm
        exact ⟨rfl, rfl, rfl⟩
    rw [hf]
    exact ⟨hb.keep (.ofEq rfl rfl rfl rfl rfl), ha.ofEq rfl rfl⟩

theorem installPart_bindings (n : Nat) (ws : List Word) (h : AllBindings s) (ha : Apart s) :
    AllBindings (installPart n ws s) := by
  have hset (b : Btl) (hg : b.gateOpen = s.btl.gateOpen) (hs : b.status = s.btl.status) :
      KeepsBindings s (s.setBtl b) :=
    { KeepsBindings.refl s with
      booting := fun hb => ⟨hs ▸ hb, fun h => hg.trans h, id⟩ }
  unfold installPart
  split
  · exact (List.foldlRecOn (motive := fun u => AllBindings u ∧ Apart u) (List.finRange 4) (fun s k => expireLock k s)
      ⟨h.keep (hset { s.btl with part0 := zeroOf ws } rfl rfl), ha.ofEq rfl rfl⟩ fun u hu k _ => expireLock_bindings k hu).1
  · exact h.keep (hset { s.btl with part1 := oneOf ws } rfl rfl)

/-! ### DETACH (R97, R155, R174) -/

theorem detachLock_bindings (k : Ctl) (h : AllBindings s) (ha : Apart s) : AllBindings (detachLock k s) := by
  unfold detachLock
  split
  · exact h
  · next l hl =>
    rw [dropFill_setLock]
    exact (h.lockGone (o := none) ha hl fun _ hm => nomatch hm).1

/-- The walk of DETACH over channels without SAVE jobs (R97). -/
theorem Walked.bindings {W O : List Chan} (hw : Walked k W O s v) (h : AllBindings s)
    (hj : ∀ j ∈ s.jobs, j.kind = .save → j.chan ∉ W) : AllBindings v := by
  obtain ⟨hjobs, -, hbtl, -⟩ := hw.rest
  have hfreed (d : Chan) (hd : d ∈ W) : v.chans[d].bound = none := by
    rw [hw.chan, if_pos hd]
    rfl
  have hkept (d : Chan) (hd : d ∉ W) :
      v.chans[d].bound = s.chans[d].bound ∧ v.chans[d].state = s.chans[d].state := by
    rw [hw.chan, if_neg hd]
    split
    · exact ⟨rfl, rfl⟩
    · exact ⟨rfl, rfl⟩
  have hrec (r : Rec) (hr : ∀ c ∈ W, s.pfs.recs[r].boundChan ≠ some c) : v.pfs.recs[r] = s.pfs.recs[r] := by
    rw [hw.recs, if_neg fun ⟨c, hc, hb⟩ => hr c hc hb]
  have hunbound (r : Rec) (hr : ∃ c ∈ W, s.pfs.recs[r].boundChan = some c) : v.pfs.recs[r].boundChan = none := by
    rw [hw.recs, if_pos hr]
  refine ⟨fun r d _ hb => ?_, fun d key _ hb => ?_, fun d _ hd => ?_, fun j hj' hs => ?_, fun i l key hl ha hp ho => ?_,
    fun hb => ?_⟩
  · have hr (c : Chan) (hc : c ∈ W) : s.pfs.recs[r].boundChan ≠ some c := by
      intro hbc
      rw [hunbound r ⟨c, hc, hbc⟩] at hb
      cases hb
    rw [hrec r hr] at hb ⊢
    have hd : d ∉ W := fun hd => hr d hd hb
    rw [(hkept d hd).1]
    exact h.ofProfile r d trivial hb
  · have hd : d ∉ W := by
      intro hd
      rw [hfreed d hd] at hb
      cases hb
    rw [(hkept d hd).1] at hb
    obtain ⟨r, hstate, hkey, hbound⟩ := h.ofChannel d key trivial hb
    have hr (c : Chan) (hc : c ∈ W) : s.pfs.recs[r].boundChan ≠ some c := by
      rw [hbound]
      rintro ⟨⟩
      exact hd hc
    exact ⟨r, by rw [hrec r hr]; exact ⟨hstate, hkey, hbound⟩⟩
  · by_cases hdW : d ∈ W
    · exact hfreed d hdW
    · rw [(hkept d hdW).2] at hd
      rw [(hkept d hdW).1]
      exact h.free d trivial hd
  · rw [hjobs] at hj'
    exact ⟨trivial, by rw [(hkept _ (hj j hj' hs)).1]; exact (h.saves j hj' hs).2⟩
  · rw [hw.locks, Option.map_eq_some_iff] at hl
    obtain ⟨m, hm, rfl⟩ := hl
    have hsame : (if ∃ c ∈ W, m.held = some c then { m with held := none } else m).active = m.active ∧
        (if ∃ c ∈ W, m.held = some c then { m with held := none } else m).purpose = m.purpose ∧
        (if ∃ c ∈ W, m.held = some c then { m with held := none } else m).obj = m.obj := by
      split <;> exact ⟨rfl, rfl, rfl⟩
    obtain ⟨hma, hmp, hmo⟩ := hsame
    obtain ⟨r, hstate, hkey, hbound⟩ := h.fills i m key hm (hma ▸ ha) (hmp ▸ hp) (hmo ▸ ho)
    exact ⟨r, by rw [hrec r fun c _ => by rw [hbound]; exact nofun]; exact ⟨hstate, hkey, hbound⟩⟩
  · rw [hbtl] at hb ⊢
    refine ⟨(h.booting hb).1, fun j => ?_⟩
    rw [hw.locks, (h.booting hb).2 j, Option.map_none]

/-- A SAVE job's channel is RELEASING (R131). -/
theorem CallsOk.releasing (h : CallsOk s) {j : Job} (hj : j ∈ s.jobs) (hs : j.kind = .save) :
    s.chans[j.chan].state = .releasing := by
  rw [h.jobStates j hj, hs]
  rfl

theorem emptied_bindings (k : Ctl) (v : State) : KeepsBindings v (emptyFifo k (dropHoldings k v)) :=
  .ofEq rfl rfl rfl rfl rfl

theorem detachCtl_bindings (k : Ctl) (h : AllBindings s) (ha : Apart s) (hc : CallsOk s) :
    AllBindings (detachCtl k s) := by
  have hstart : AllBindings (unattached k s) := h.keep (.ofEq rfl rfl rfl rfl rfl)
  have hlock := detachLock_spec k (unattached k s)
  have hgone := detachLock_bindings k hstart (ha.ofEq rfl rfl)
  have hwalk := walked_foldl k (detachLock k (unattached k s)) _ (List.nodup_finRange 32)
  have hjobs : (detachLock k (unattached k s)).jobs = s.jobs := hlock.rest.2.2.1
  have hfree := hwalk.bindings hgone fun j hj hs hw => by
    rw [hjobs] at hj
    have hpending : s.chans[j.chan].state = .pending := by
      rw [← waitingOf, hlock.lists.1, mem_waitingOf] at hw
      exact hw.2
    rw [hc.releasing hj hs] at hpending
    cases hpending
  rw [detachCtl_eq, detachedOf]
  exact (hfree.keep (emptied_bindings k _)).keep (recheck_bindings _)

end Sys2Proof.Machine
end

section
/-! The bindings under profile requests: the lock step and its marker, STORE PROFILE, its taps and DROP PROFILE (R129,
R137, R138, R141, R148–R150). -/

namespace Sys2Proof.Machine

variable {p : Chan → Prop} {c : Chan} {k : Ctl} {r : Rec} {l : Lock} {rq : Request} {s t v : State} {obj : LockObj}
  {oc : Option Answer} {mismatch : Lock → Bool}

/-! ### The lock step and the marker (R148–R150) -/

theorem lockStep_bindings (rq : Request) (obj : LockObj) (oc : Option Answer) (mismatch : Lock → Bool) (s : State) :
    KeepsBindings s (lockStep rq obj oc mismatch s).1 := by
  rcases lockStep_cases rq obj oc mismatch s with he | ⟨-, he⟩ <;> rw [he]
  · exact .refl s
  · exact .clearLock

/-- The lock step changes nothing but its controller's lock, which it may discard. -/
theorem lockStep_state (rq : Request) (obj : LockObj) (oc : Option Answer) (mismatch : Lock → Bool) (s : State) :
    (lockStep rq obj oc mismatch s).1.pfs = s.pfs ∧ (lockStep rq obj oc mismatch s).1.chans = s.chans ∧
      (lockStep rq obj oc mismatch s).1.jobs = s.jobs ∧ (lockStep rq obj oc mismatch s).1.btl = s.btl ∧
      ∀ (j : Ctl) (m : Lock), (lockStep rq obj oc mismatch s).1.locks[j] = some m → s.locks[j] = some m := by
  rcases lockStep_cases rq obj oc mismatch s with he | ⟨-, he⟩ <;> rw [he]
  · exact ⟨rfl, rfl, rfl, rfl, fun _ _ h => h⟩
  · refine ⟨rfl, rfl, rfl, rfl, fun j m hm => ?_⟩
    rw [State.setLock_locks, getElem_set_fin] at hm
    split at hm
    · cases hm
    · exact hm

/-- A BEGIN that passes finds no lock of its controller, and its object check passes (R148, R149). -/
theorem lockStep_begin (hm : rq.marker = .begin) (h : (lockStep rq obj oc mismatch s).2 = none) :
    oc = none ∧ (lockStep rq obj oc mismatch s).1.locks[rq.ctl] = none := by
  unfold lockStep at h ⊢
  rw [hm] at h ⊢
  cases hl : s.locks[rq.ctl] with
  | none =>
    rw [hl] at h
    exact ⟨h, hl⟩
  | some l =>
    simp only [hl] at h ⊢
    cases ha : l.active with
    | true =>
      rw [ha] at h
      cases h
    | false =>
      rw [ha] at h
      exact ⟨h, getElem_set_same _ _ _⟩

/-- An END that passes finds the ACTIVE lock it ends, and changes nothing (R150). -/
theorem lockStep_ending (hm : rq.marker = .ending) (h : (lockStep rq obj oc mismatch s).2 = none) :
    (lockStep rq obj oc mismatch s).1 = s ∧
      ∃ l, s.locks[rq.ctl] = some l ∧ l.active = true ∧ l.obj = obj ∧ mismatch l = false := by
  unfold lockStep at h ⊢
  rw [hm] at h ⊢
  cases hl : s.locks[rq.ctl] with
  | none =>
    rw [hl] at h
    cases h
  | some l =>
    simp only [hl] at h ⊢
    cases ha : l.active with
    | false =>
      rw [ha] at h
      cases h
    | true =>
      simp only [ha, Bool.not_true, Bool.false_eq_true, if_false] at h ⊢
      cases hc : (l.obj != obj || mismatch l) with
      | true =>
        rw [hc] at h
        cases h
      | false =>
        rw [Bool.or_eq_false_iff, bne_eq_false_iff_eq] at hc
        exact ⟨rfl, l, rfl, ha, hc.1, hc.2⟩

/-- A marker keeps the bindings, but for a fill's BEGIN; with the part booted. -/
theorem markerEffect_bindings (rq : Request) (obj : LockObj) {q : Purpose} (held : Option Chan)
    (hq : q = .fill → rq.marker ≠ .begin) (hb : s.btl.status ≠ .loading) :
    KeepsBindings s (markerEffect rq obj q held s) := by
  unfold markerEffect
  split
  · exact .refl s
  · next hm =>
    have hplaced : KeepsBindings s (s.setLock rq.ctl
        (some { obj, purpose := q, active := true, last := s.btl.timebase, held })) :=
      { KeepsBindings.refl s with
        fills := fun j m hj ha hp => by
          rw [State.setLock_locks, getElem_set_fin] at hj
          split at hj
          · cases hj
            exact absurd hm (hq hp)
          · exact ⟨j, m, hj, ha, hp, rfl⟩
        booting := fun h => absurd h hb }
    dsimp only
    split
    · exact hplaced
    · exact hplaced.modChan (by exact fun _ => rfl) id
  · split
    · exact .refl s
    · next l hl =>
      refine .setLock fun m hm => ?_
      cases hm
      exact ⟨l, hl, id, rfl, rfl⟩
  · exact endLock_bindings _ _

/-- A fill's BEGIN finds its record FILLING and bound to no channel (R137). -/
theorem Bindings.beginLock {key : Key} (h : AllBindings s) (hb : s.btl.status ≠ .loading)
    (hr : s.pfs.recs[r].state = .filling ∧ s.pfs.recs[r].key = some key ∧ s.pfs.recs[r].boundChan = none)
    {o : Lock} (ho : o.obj = .profile key) : AllBindings (s.setLock k (some o)) where
  ofProfile := h.ofProfile
  ofChannel := h.ofChannel
  free := h.free
  saves := h.saves
  fills j m key' hj ha hp hobj := by
    rw [State.setLock_locks, getElem_set_fin] at hj
    split at hj
    · cases hj
      rw [ho, LockObj.profile.injEq] at hobj
      exact ⟨r, hobj ▸ hr⟩
    · exact h.fills j m key' hj ha hp hobj
  booting h := absurd h hb

/-! ### DROP PROFILE and the taps of a fill (R138, R141) -/

theorem dropProfile_bindings (rq : Request) (h : AllBindings s) (hk : KeysApart s) :
    AllBindings (dropProfile rq s).1 := by
  unfold dropProfile
  split
  · exact h
  · next r hf =>
    refine checked_inv AllBindings _ _ s (fun hc => ?_) h
    have hbusy : (s.pfs.recs[r].boundChan.isSome || lockedByAny (.profile rq.key) s) = false :=
      firstFail_pass hc (a := refused .profileBusy) (by simp)
    rw [Bool.or_eq_false_iff, Option.isSome_eq_false_iff, Option.isNone_iff_eq_none] at hbusy
    refine h.emptyRecord hk (fun c hb => ?_) fun j m key hm ha _ ho _ hkey => ?_
    · rw [hbusy.1] at hb
      cases hb
    · rw [(findProfile_some hf).2, Option.some.injEq] at hkey
      exact (lockedByAny_false_iff _ _).1 hbusy.2 _ _ hm ha (by rw [ho, hkey])

theorem endLock_some (hl : s.locks[k] = some l) : endLock k s = lockGone k l none s := by
  rw [endLock, hl]
  rfl

/-- Records and recency may change beside the end of a lock. -/
theorem lockGone_setPfs (k : Ctl) (l : Lock) (o : Option Lock) (s : State) (q : Pfs) :
    lockGone k l o { s with pfs := q } = { lockGone k l o s with pfs := q } := by
  unfold lockGone unholdChan
  cases l.held <;> rfl

theorem writeChunk_keeps (rq : Request) (q : Profile) : (writeChunk rq q).state = q.state ∧
    (writeChunk rq q).key = q.key ∧ (writeChunk rq q).boundChan = q.boundChan := by
  unfold writeChunk
  split <;> exact ⟨rfl, rfl, rfl⟩

/-- An END of a fill leaves its record bound to no channel, and no lock on it (R138). -/
theorem Bindings.endFill (h : AllBindings s) (ha : Apart s) (hl : s.locks[k] = some l) (hd : DropsFill l r s)
    {q : Profile} (hq : q.boundChan = none) (recency : List Rec) :
    AllBindings (endLock k { s with pfs := { recs := s.pfs.recs.set r q, recency } }) := by
  have hgone : endLock k s = Machine.lockGone k l none s := endLock_some hl
  have hpfs : (endLock k s).pfs = s.pfs := (endLock_keeps _ _).2.2.1
  have hnofill : NoFill r (endLock k s) := by
    rw [hgone]
    exact noFill_of_dropsFill ha hl hd (lockGone_pfs _ _ _ _) (lockGone_locks fun _ hm => nomatch hm)
  have hb := (h.dropsFill ha.keys hl hd).2
  have hset := (h.keep (endLock_bindings k s)).setRec (q := q) (fun c _ => by rw [hpfs, hb]; exact nofun)
    (fun c _ => by rw [hq]; exact nofun) hnofill
  have hend : endLock k { s with pfs := { recs := s.pfs.recs.set r q, recency } } =
      ((endLock k s).setRec r q).setRecency recency := by
    rw [endLock_some (s := { s with pfs := { recs := s.pfs.recs.set r q, recency } }) hl, lockGone_setPfs, ← hgone]
    unfold State.setRecency State.setRec
    rw [hpfs]
  rw [hend]
  exact hset.keep (.setRecency recency)

end Sys2Proof.Machine
end

section
/-! The bindings under the requests that fill a profile: STORE PROFILE and its taps (R129, R136–R138). -/

namespace Sys2Proof.Machine

variable {p : Chan → Prop} {c : Chan} {k : Ctl} {r : Rec} {l : Lock} {rq : Request} {s t u : State} {key : Key}

/-! ### STORE PROFILE TAPS (R138) -/

theorem completeFill_setRec (r : Rec) (q : Profile) (s : State) : completeFill r (s.setRec r q) =
    { s with pfs := { recs := s.pfs.recs.set r { q with state := .valid }, recency := toFront r s.pfs.recency } } := by
  rw [completeFill, State.setRec_pfs, getElem_set_same]
  simp only [State.setRec, State.setRecency, Vector.set_set]

theorem emptyRecord_setRec {q : Profile} (hq : q.boundChan = none) (s : State) : emptyRecord r (s.setRec r q) =
    { s with pfs := { recs := s.pfs.recs.set r emptyProfile, recency := s.pfs.recency.filter (· != r) } } := by
  rw [emptyRecord, State.setRec_pfs, getElem_set_same, hq]
  simp only [State.setRec, State.setRecency, Vector.set_set]

/-- The fill that an END of STORE PROFILE TAPS ends (R150). -/
def EndsFill (rq : Request) (s : State) : Prop := rq.marker = .ending →
  ∃ l, s.locks[rq.ctl] = some l ∧ l.active = true ∧ l.obj = .profile rq.key ∧ l.purpose = .fill

theorem storeTaps_bindings (h : AllBindings s) (ha : Apart s) (hb : s.btl.status ≠ .loading)
    (hm : rq.marker ≠ .begin) (hend : EndsFill rq s) : AllBindings (storeTaps rq s).1 := by
  unfold storeTaps
  split
  · exact h
  · next r hf =>
    obtain ⟨hstate, hkey, hbound⟩ := writeChunk_keeps rq s.pfs.recs[r]
    have hwrite : KeepsBindings s (s.setRec r (writeChunk rq s.pfs.recs[r])) := .setRec hstate hkey hbound
    dsimp only
    split
    · exact h
    · split
      · exact (h.keep hwrite).keep (markerEffect_bindings rq _ none (fun _ => hm) hb)
      · next hm' =>
        obtain ⟨l, hl, hla, hlo, hp⟩ := hend (by simpa using hm')
        have hd : DropsFill l r s := ⟨rq.key, hp, hla, hlo, hf⟩
        have hunbound := hbound.trans (h.dropsFill ha.keys hl hd).2
        split
        · rw [completeFill_setRec]
          exact h.endFill (q := { writeChunk rq s.pfs.recs[r] with state := .valid }) ha hl hd hunbound _
        · rw [emptyRecord_setRec hunbound]
          exact h.endFill ha hl hd rfl _

theorem lockStep_apart {obj : LockObj} {oc : Option Answer} {mismatch : Lock → Bool} (h : Apart s) :
    Apart (lockStep rq obj oc mismatch s).1 := by
  obtain ⟨hp, -, -, -, hl⟩ := lockStep_state rq obj oc mismatch s
  exact h.of_less (fun r hr => by rw [hp] at hr ⊢; exact ⟨hr, rfl⟩) fun j m hm hma => ⟨m, hl j m hm, hma, rfl⟩

theorem ownStoreProfileTaps_bindings (rq : Request) (h : AllBindings s) (ha : Apart s) (hlocks : LocksOk s)
    (hb : s.btl.status ≠ .loading) : AllBindings (ownStoreProfileTaps rq s).1 := by
  have hstep := h.keep (lockStep_bindings rq (.profile rq.key) none (fun l => l.purpose == .profileRead) s)
  refine lockedRequest_inv AllBindings _ _ _ s hstep (fun hearly hpass => ?_) h
  obtain ⟨-, -, -, hbtl, -⟩ := lockStep_state rq (.profile rq.key) none (fun l => l.purpose == .profileRead) s
  have hmarker : rq.marker ≠ .begin := by
    intro hm
    have := (firstFail_none_iff _).1 hearly _ (List.mem_cons_self ..)
    simp [hm] at this
  refine storeTaps_bindings hstep (lockStep_apart ha) (by rwa [hbtl]) hmarker fun hm => ?_
  obtain ⟨heq, l, hl, hla, hlo, hp⟩ := lockStep_ending hm hpass
  refine ⟨l, by rw [heq]; exact hl, hla, hlo, ?_⟩
  cases hpurpose : l.purpose with
  | fill => rfl
  | profileRead =>
    rw [hpurpose] at hp
    cases hp
  | channel =>
    obtain ⟨c, hc, -⟩ := hlocks.channel _ l hl hla hpurpose
    rw [hlo] at hc
    cases hc

/-! ### STORE PROFILE (R129, R137) -/

/-- No ACTIVE lock is on the profile. -/
def Unlocked (key : Key) (s : State) : Prop :=
  ∀ (j : Ctl) (l : Lock), s.locks[j] = some l → l.active = true → l.obj ≠ .profile key

theorem noFill_of_unlocked (hkey : s.pfs.recs[r].key = some key) (hu : Unlocked key s) : NoFill r s := by
  intro j l key' hl ha _ ho _ hkey'
  obtain rfl := Option.some.inj (hkey.symm.trans hkey')
  exact hu j l hl ha ho

/-- A record taken for a new key is bound to no channel and under no fill (R124). -/
theorem recordFor_clear (h : AllBindings s) (hr : recordFor s = some r) :
    s.pfs.recs[r].boundChan = none ∧ NoFill r s := by
  unfold recordFor at hr
  cases hf : (List.finRange 64).find? fun r => s.pfs.recs[r].state == .empty with
  | some q =>
    rw [hf] at hr
    obtain rfl : q = r := Option.some.inj hr
    have hempty : s.pfs.recs[q].state = .empty := by simpa using List.find?_some hf
    refine ⟨Option.eq_none_iff_forall_ne_some.2 fun c hc => (h.ofProfile q c trivial hc).1 hempty, ?_⟩
    intro j l key _ _ _ _ hs
    rw [hempty] at hs
    cases hs
  | none =>
    rw [hf] at hr
    have hev : evictable s r = true := List.find?_some hr
    unfold evictable at hev
    cases hkey : s.pfs.recs[r].key with
    | none => simp only [hkey, Bool.false_eq_true] at hev
    | some key =>
      simp only [hkey, Bool.and_eq_true, Bool.not_eq_true', Option.isNone_iff_eq_none] at hev
      obtain ⟨⟨⟨-, hbound⟩, hany⟩, -⟩ := hev
      exact ⟨hbound, noFill_of_unlocked hkey ((lockedByAny_false_iff _ _).1 hany)⟩

/-- A fill begins on a record that is bound to no channel and under no fill. -/
theorem placeFill_bindings (d : Descriptor) (h : Bindings p s) (hold : ∀ c, p c → s.pfs.recs[r].boundChan ≠ some c)
    (hf : NoFill r s) : Bindings p (placeFill r key d s) :=
  (h.setRec (q := filledRecord key d) hold (fun _ _ => nofun) hf).keep (.setRecency _)

theorem placeFill_rec (r : Rec) (key : Key) (d : Descriptor) (s : State) :
    (placeFill r key d s).pfs.recs[r] = filledRecord key d := getElem_set_same _ _ _

theorem cancelJob_lift (h : AllBindings s) : Bindings (· ≠ c) (cancelJob c s) :=
  (h.keep (cancelJob_bindings c s)).lift fun j hj _ => by
    have := (List.mem_filter.1 hj).2
    simpa using this

/-- SAVE jobs stand on RELEASING channels alone (R131). -/
def SavesRelease (s : State) : Prop := ∀ j ∈ s.jobs, j.kind = .save → s.chans[j.chan].state = .releasing

theorem SavesRelease.lift (hs : SavesRelease s) (h : AllBindings s) (hc : s.chans[c].state ≠ .releasing) :
    Bindings (· ≠ c) s :=
  h.lift fun j hj hk e => hc (e ▸ hs j hj hk)

theorem enterFree_unlocked (hu : Unlocked key s) : Unlocked key (enterFree c s) := by
  intro j l hl ha
  rw [enterFree_locks, Option.map_eq_some_iff] at hl
  obtain ⟨m, hm, rfl⟩ := hl
  split at ha
  · next hheld =>
    rw [if_pos hheld]
    exact hu j m hm ha
  · next hheld =>
    rw [if_neg hheld]
    exact hu j m hm ha

/-- A fill begins on the profile of a channel that enters FREE (R129). -/
theorem freed_placeFill_bindings (d : Descriptor) (h : Bindings (· ≠ c) s) (hu : Unlocked key s)
    (hkey : s.pfs.recs[r].key = some key) (hbound : s.pfs.recs[r].boundChan = some c) :
    AllBindings (placeFill r key d (enterFree c s)) := by
  have hrec : (enterFree c s).pfs.recs[r] = { s.pfs.recs[r] with boundChan := none } := by
    rw [enterFree_recs, if_pos hbound]
  refine placeFill_bindings d h.enterFree (fun _ _ => ?_) (noFill_of_unlocked (key := key) ?_ (enterFree_unlocked hu))
  · rw [hrec]
    exact nofun
  · rw [hrec]
    exact hkey

/-- A fill begins on the profile of a channel that has lost it (R129). -/
theorem unbound_placeFill_bindings (d : Descriptor) (h : Bindings (· ≠ c) s) (hf : NoFill r s)
    (hx : s.chans[c].bound = none) (hbound : ∀ q : Rec, s.pfs.recs[q].boundChan = some c ↔ q = r) :
    AllBindings (placeFill r key d s) := by
  have hplaced := placeFill_bindings (key := key) d h
    (fun c' hc' hb => hc' (Option.some.inj (hb.symm.trans ((hbound r).2 rfl)))) hf
  have hunbound : (placeFill r key d s).chans[c].bound = none := hx
  refine hplaced.land (fun q hq => ?_) (fun key' hkey' => ?_) fun _ => hunbound
  · by_cases hr : q = r
    · rw [hr, placeFill_rec] at hq
      cases hq
    · have hother : (placeFill r key d s).pfs.recs[q] = s.pfs.recs[q] := getElem_set_other _ _ _ _ (Ne.symm hr)
      rw [hother] at hq
      exact absurd ((hbound q).1 hq) hr
  · rw [hunbound] at hkey'
    cases hkey'

theorem invalidate_releasing (hc : s.chans[c].state = .releasing) (key : Key) : invalidate c key s =
    enterFree c (completeRelease c .notSaved SaveReason.superseded.code (some key)
      ((cancelJob c s).setChan c { s.chans[c] with bound := none, load := none, relation := .none })) := by
  rw [invalidate, if_pos hc]
  rfl

theorem invalidate_serving (hc : s.chans[c].state ≠ .releasing) (key : Key) : invalidate c key s =
    s.setChan c { s.chans[c] with bound := none, load := none, relation := .none } := by
  rw [invalidate, if_neg hc]
  rfl

/-- A fill begins on the profile of a channel (R129). -/
theorem invalidated_bindings (d : Descriptor) (h : AllBindings s) (ha : Apart s) (hs : SavesRelease s)
    (hu : Unlocked key s) (hkey : s.pfs.recs[r].key = some key) (hbound : s.pfs.recs[r].boundChan = some c) :
    AllBindings (placeFill r key d (invalidate c key s)) := by
  by_cases hc : s.chans[c].state = .releasing
  · rw [invalidate_releasing hc]
    obtain ⟨-, -, hpfs, -, hlocks, -⟩ := completeRelease_keeps c .notSaved SaveReason.superseded.code (some key)
      ((cancelJob c s).setChan c { s.chans[c] with bound := none, load := none, relation := .none })
    refine freed_placeFill_bindings d ((cancelJob_lift h).setChan.keep (completeRelease_bindings _ _ _ _ _)) ?_ ?_ ?_
    · intro j l hl
      rw [hlocks] at hl
      exact hu j l hl
    · rw [hpfs]
      exact hkey
    · rw [hpfs]
      exact hbound
  · rw [invalidate_serving hc]
    refine unbound_placeFill_bindings d (hs.lift h hc).setChan (noFill_of_unlocked hkey hu) ?_ fun q => ⟨fun hq => ?_, ?_⟩
    · rw [State.setChan_chans, getElem_set_same]
    · exact h.boundOnce ha.keys trivial hq hbound
    · rintro rfl
      exact hbound

/-- The record on which a fill of a key begins (R137). -/
structure Fillable (key : Key) (r : Rec) (s : State) : Prop where
  nofill : NoFill r s
  binding : s.pfs.recs[r].key = some key ∨ s.pfs.recs[r].boundChan = none

/-- The record is under a fill (R137). -/
def Filling (key : Key) (r : Rec) (s : State) : Prop :=
  s.pfs.recs[r].state = .filling ∧ s.pfs.recs[r].key = some key ∧ s.pfs.recs[r].boundChan = none

theorem placeFill_filling (r : Rec) (key : Key) (d : Descriptor) (s : State) : Filling key r (placeFill r key d s) := by
  rw [Filling, placeFill_rec]
  exact ⟨rfl, rfl, rfl⟩

theorem Filling.keep (h : Filling key r s) (hk : KeepsBindings s t) : Filling key r t := by
  obtain ⟨hstate, hkey, hbound⟩ := hk.recs r
  rw [Filling, hstate, hkey, hbound]
  exact h

theorem beginFill_bindings (d : Descriptor) (h : AllBindings s) (ha : Apart s) (hs : SavesRelease s)
    (hu : Unlocked key s) (hr : Fillable key r s) : AllBindings (beginFill r key d s) ∧
      Filling key r (beginFill r key d s) := by
  unfold beginFill
  cases hif : (if s.pfs.recs[r].key = some key then s.pfs.recs[r].boundChan else none) with
  | none =>
    refine ⟨placeFill_bindings d h (fun c _ hc => ?_) hr.nofill, placeFill_filling _ _ _ _⟩
    rcases hr.binding with hkey | hb
    · rw [if_pos hkey, hc] at hif
      cases hif
    · rw [hb] at hc
      cases hc
  | some c =>
    obtain ⟨hkey, hbound⟩ : s.pfs.recs[r].key = some key ∧ s.pfs.recs[r].boundChan = some c := by
      split at hif
      · exact ⟨‹_›, hif⟩
      · cases hif
    have hplaced := invalidated_bindings d h ha hs hu hkey hbound
    dsimp only
    split
    · have hre := recheck_bindings (placeFill r key d (invalidate c key s))
      exact ⟨hplaced.keep hre, (placeFill_filling _ _ _ _).keep hre⟩
    · exact ⟨hplaced, placeFill_filling _ _ _ _⟩

theorem beginFill_status (r : Rec) (key : Key) (d : Descriptor) (s : State) :
    (beginFill r key d s).btl.status = s.btl.status := by
  have hinvalid (c : Chan) : (invalidate c key s).btl = s.btl := by
    unfold invalidate
    dsimp only
    split
    · rw [(enterFree_keeps _ _).2.2.2.1, (completeRelease_keeps _ _ _ _ _).2.2.2.2.2.2.1]
      rfl
    · rfl
  have hplaced (c : Chan) : (placeFill r key d (invalidate c key s)).btl = s.btl := hinvalid c
  unfold beginFill
  split
  · rfl
  · dsimp only
    split
    · rw [(recheck_keeps _).2.2.2.1, hplaced]
    · rw [hplaced]

theorem markerEffect_begin {obj : LockObj} (q : Purpose) (hm : rq.marker = .begin) (s : State) :
    ∃ o : Lock, o.obj = obj ∧ markerEffect rq obj q none s = s.setLock rq.ctl (some o) :=
  ⟨⟨obj, q, true, s.btl.timebase, none⟩, rfl, by rw [markerEffect, hm]⟩

theorem storeProfile_bindings (h : AllBindings s) (ha : Apart s) (hs : SavesRelease s)
    (hb : s.btl.status ≠ .loading) (hm : rq.marker = .begin) (hu : Unlocked rq.key s) :
    AllBindings (storeProfile rq s).1 := by
  unfold storeProfile
  dsimp only
  split
  · exact h
  · cases hfr : findProfile rq.key s <|> recordFor s with
    | none => exact h
    | some r =>
      have hr : Fillable rq.key r s := by
        cases hf : findProfile rq.key s with
        | some q =>
          rw [hf] at hfr
          obtain rfl : q = r := Option.some.inj hfr
          have hkey := (findProfile_some hf).2
          exact ⟨noFill_of_unlocked hkey hu, .inl hkey⟩
        | none =>
          rw [hf] at hfr
          obtain ⟨hunbound, hnofill⟩ := recordFor_clear h hfr
          exact ⟨hnofill, .inr hunbound⟩
      obtain ⟨hall, hfilling⟩ := beginFill_bindings (rq.descriptor 2) h ha hs hu hr
      obtain ⟨o, ho, hbegin⟩ := markerEffect_begin (obj := .profile rq.key) .fill hm
        (beginFill r rq.key (rq.descriptor 2) s)
      dsimp only
      rw [hbegin]
      exact hall.beginLock (by rwa [beginFill_status]) hfilling ho

theorem ownStoreProfile_bindings (rq : Request) (h : AllBindings s) (ha : Apart s) (hs : SavesRelease s)
    (hb : s.btl.status ≠ .loading) : AllBindings (ownStoreProfile rq s).1 := by
  have hstep := h.keep (lockStep_bindings rq (.profile rq.key) (profileObjCheck false rq s) (fun _ => false) s)
  refine lockedRequest_inv AllBindings _ _ _ s hstep (fun hearly hpass => ?_) h
  obtain ⟨-, hchans, hjobs, hbtl, hlocks⟩ := lockStep_state rq (.profile rq.key) (profileObjCheck false rq s)
    (fun _ => false) s
  have hm : rq.marker = .begin := by
    have := (firstFail_none_iff _).1 hearly _ (List.mem_cons_self ..)
    simp only [Bool.not_eq_false', Bool.and_eq_true, beq_iff_eq] at this
    exact this.1.2
  obtain ⟨hcheck, hown⟩ := lockStep_begin hm hpass
  have hother : lockedByOther rq.ctl (.profile rq.key) s = false := firstFail_pass hcheck (a := retry .locked) (by simp)
  refine storeProfile_bindings hstep (lockStep_apart ha) (fun j hj hk => ?_) (by rwa [hbtl]) hm fun j l hl hla hlo => ?_
  · rw [hchans]
    exact hs j (hjobs ▸ hj) hk
  · by_cases hj : j = rq.ctl
    · subst hj
      rw [hown] at hl
      cases hl
    · exact (noOtherLock_iff _ _ _).2 hother j l hj (hlocks j l hl) hla hlo

end Sys2Proof.Machine
end

section
/-! The bindings under transfers, wait deadlines and RELEASE (R86–R89, R115, R127, R128, R132–R134). -/

namespace Sys2Proof.Machine

variable {p : Chan → Prop} {c : Chan} {k : Ctl} {r : Rec} {rq : Request} {s t : State} {key : Key} {j i : Job}
  {rest : List Job}

/-! ### The head job (R132) -/

theorem setHead_none_bindings (s : State) : KeepsBindings s (setHead none s) := .dropJobs (List.tail_sublist _)

theorem setHead_some_bindings (hj : s.jobs = j :: rest) (hk : i.kind = j.kind) (hc : i.chan = j.chan)
    (hkey : i.key = j.key) : KeepsBindings s (setHead (some i) s) := by
  refine .setJobs fun m hm hs => ?_
  rw [hj, List.tail_cons] at hm
  rw [hj]
  rcases List.mem_cons.1 hm with rfl | hm
  · exact ⟨j, List.mem_cons_self .., hk ▸ hs, hc.symm, hkey.symm⟩
  · exact ⟨m, List.mem_cons_of_mem _ hm, hs, rfl, rfl⟩

/-- No other job is for the head job's channel (R131). -/
theorem rest_apart (hn : (s.jobs.map Job.chan).Nodup) (hj : s.jobs = j :: rest) :
    ∀ i ∈ rest, i.chan ≠ j.chan := by
  rw [hj, List.map_cons, List.nodup_cons] at hn
  exact fun i hi he => hn.1 (List.mem_map.2 ⟨i, hi, he⟩)

/-! ### LOAD moves (R133) -/

theorem moveLoad_bindings (hj : s.jobs = j :: rest) : KeepsBindings s (moveLoad j s) := by
  have hmoved (v : State) (hv : KeepsBindings s v) (hjobs : v.jobs = j :: rest) : KeepsBindings s
      (if j.lastMove then
        completeBind j.chan .bound ((setHead none v).modChan j.chan fun x => { x with state := .bound })
      else setHead (some { j with moved := j.moved + 1 }) v) := by
    split
    · exact ((hv.trans (setHead_none_bindings v)).modChan (by exact fun _ => rfl) (by exact nofun)).trans
        (completeBind_bindings _ _ _)
    · exact hv.trans (setHead_some_bindings hjobs rfl rfl rfl)
  unfold moveLoad
  cases j.segment s.chans[j.chan] with
  | none => exact hmoved s (.refl s) hj
  | some g => exact hmoved _ (setSal_bindings _ s) hj

/-! ### SAVE moves (R128, R134) -/

theorem KeysApart.keep (h : KeysApart s) (hk : KeepsBindings s t) : KeysApart t := by
  intro r q hr hq he
  obtain ⟨hstate, hkey, -⟩ := hk.recs r
  obtain ⟨hstate', hkey', -⟩ := hk.recs q
  exact h r q (hstate ▸ hr) (hstate' ▸ hq) (by rw [← hkey, ← hkey', he])

theorem KeepsBindings.findProfile (h : KeepsBindings s t) (key : Key) : findProfile key t = findProfile key s :=
  findProfile_congr (fun r => ⟨(h.recs r).1, (h.recs r).2.1⟩) key

/-- The record of a SAVE job is bound to its channel (R127). -/
theorem Bindings.saveRecord (h : AllBindings s) (hk : KeysApart s) (hj : j ∈ s.jobs) (hs : j.kind = .save)
    (hf : findProfile j.key s = some r) : s.pfs.recs[r].boundChan = some j.chan := by
  obtain ⟨q, hq, hkey, hbound⟩ := h.ofChannel j.chan j.key trivial (h.saves j hj hs).2
  rwa [findProfile_eq hk hf hq hkey]

/-- The record of a channel is under no fill (R122). -/
theorem Bindings.noFill (h : AllBindings s) (hk : KeysApart s) (hb : s.pfs.recs[r].boundChan = some c) :
    NoFill r s := by
  intro n l key hl ha hp ho hs hkey
  obtain ⟨q, hq, hqk, hqb⟩ := h.fills n l key hl ha hp ho
  obtain rfl := hk r q (by rw [hs]; decide) (by rw [hq]; decide) (hkey.trans hqk.symm)
  rw [hb] at hqb
  cases hqb

theorem emptyRecord_lift (h : AllBindings s) (hk : KeysApart s) (hj : ∀ i ∈ s.jobs, i.chan ≠ c)
    (hb : s.pfs.recs[r].boundChan = some c) : Bindings (· ≠ c) (emptyRecord r s) := by
  have hempty : AllBindings (emptyRecord r s) := h.emptyRecord hk (fun d hd i hi _ => by
    rw [hb] at hd
    cases hd
    exact hj i hi) (h.noFill hk hb)
  refine hempty.lift fun i hi _ => hj i ?_
  rwa [(emptyRecord_keeps r s).2.2.1] at hi

theorem stopSave_bindings (h : AllBindings s) (hk : KeysApart s) (hn : (s.jobs.map Job.chan).Nodup)
    (hj : s.jobs = j :: rest) (hr : ∀ r, findProfile j.key s = some r → s.pfs.recs[r].boundChan = some j.chan) :
    AllBindings (stopSave j s) := by
  have hkeep := (setHead_none_bindings s).trans
    (completeRelease_bindings j.chan .notSaved SaveReason.fault.code (some j.key) (setHead none s))
  have hapart : ∀ i ∈ (completeRelease j.chan .notSaved SaveReason.fault.code (some j.key) (setHead none s)).jobs,
      i.chan ≠ j.chan := by
    rw [(completeRelease_keeps _ _ _ _ _).2.2.2.1, setHead, State.setJobs_jobs, hj]
    exact rest_apart hn hj
  unfold stopSave
  refine (Bindings.enterFree ?_).keep (recheck_bindings _)
  split
  · exact (h.keep hkeep).lift fun i hi _ => hapart i hi
  · next r hf =>
    refine emptyRecord_lift (h.keep hkeep) (hk.keep hkeep) hapart ?_
    rw [(hkeep.recs r).2.2]
    exact hr r (by rwa [hkeep.findProfile] at hf)

theorem endSave_bindings (h : AllBindings s) (hk : KeysApart s) (hn : (s.jobs.map Job.chan).Nodup)
    (hj : s.jobs = j :: rest) (hb : s.pfs.recs[r].boundChan = some j.chan) : AllBindings (endSave j r s) := by
  have hlifted : Bindings (· ≠ j.chan) (setHead none s) := (h.keep (setHead_none_bindings s)).lift fun i hi _ => by
    rw [setHead, State.setJobs_jobs, hj] at hi
    exact rest_apart hn hj i hi
  have hvalid := (hlifted.setRec (r := r) (q := { s.pfs.recs[r] with state := .valid, boundChan := none })
    (fun d hd he => hd (Option.some.inj (he.symm.trans hb))) (fun _ _ => nofun) (h.noFill hk hb)).keep
    (.setRecency (toFront r s.pfs.recency))
  exact ((hvalid.keep (completeRelease_bindings j.chan .saved 0 (some j.key) _)).enterFree).keep (recheck_bindings _)

theorem moveSave_bindings (h : AllBindings s) (hk : KeysApart s) (hn : (s.jobs.map Job.chan).Nodup)
    (hj : s.jobs = j :: rest) (hs : j.kind = .save) : AllBindings (moveSave j s) := by
  unfold moveSave
  split
  · next g r _ hf =>
    have hread := applyCorrections_bindings j.chan (readSegment s.sal g) s
    have hjobs : (applyCorrections j.chan (readSegment s.sal g) s).jobs = s.jobs := (applyCorrections_keeps _ _ _).2.2.1
    have hbound := h.saveRecord hk (by rw [hj]; exact List.mem_cons_self ..) hs hf
    dsimp only
    split
    · refine stopSave_bindings (h.keep hread) (hk.keep hread) (by rwa [hjobs]) (hjobs.trans hj) fun q hq => ?_
      rw [hread.findProfile, hf] at hq
      rw [(hread.recs q).2.2, ← Option.some.inj hq, hbound]
    · have hwrite (cs : Vector (List Word) 9) := hread.trans (KeepsBindings.setRec (r := r)
        (q := { (applyCorrections j.chan (readSegment s.sal g) s).pfs.recs[r] with chunks := cs }) rfl rfl rfl)
      split
      · exact endSave_bindings (h.keep (hwrite _)) (hk.keep (hwrite _)) (by rwa [State.setRec_jobs, hjobs])
          (hjobs.trans hj) (((hwrite _).recs r).2.2.trans hbound)
      · exact (h.keep (hwrite _)).keep (setHead_some_bindings (hjobs.trans hj) rfl rfl rfl)
  · exact h

theorem lineFrameStart_bindings (h : AllBindings s) (hk : KeysApart s) (hn : (s.jobs.map Job.chan).Nodup) :
    AllBindings (lineFrameStart s) := by
  have hdue : KeepsBindings s (s.setHwi { s.hwi with frameDue := false }) := .ofEq rfl rfl rfl rfl rfl
  unfold lineFrameStart
  split
  · dsimp only
    split
    · exact h.keep hdue
    · next j rest hj =>
      split
      · split
        · exact (h.keep hdue).keep (moveLoad_bindings hj)
        · next hs => exact moveSave_bindings (h.keep hdue) (hk.keep hdue) hn hj hs
      · exact h.keep hdue
  · exact h

/-! ### Wait deadlines (R115) -/

theorem expireWait_bindings {e : WaitEntry} (h : AllBindings s) (hj : ∀ i ∈ s.jobs, i.chan ≠ e.chan) :
    AllBindings (expireWait s e) ∧ (expireWait s e).jobs = s.jobs :=
  ⟨(((h.lift fun i hi _ => hj i hi).keep (removeWait_bindings _ _)).keep (completeBind_bindings _ _ _)).enterFree,
    by rw [expireWait, (enterFree_keeps _ _).1, (completeBind_keeps _ _ _).2.2.2.1, (removeWait_keeps _ _).2.2.2.1]⟩

/-- A waiting channel has no job (R111, R131). -/
theorem CallsOk.waits_apart (h : CallsOk s) {e : WaitEntry} (he : e ∈ s.sal.waitQ) (hi : i ∈ s.jobs) :
    i.chan ≠ e.chan := by
  intro heq
  have hjob := h.jobStates i hi
  simp only [heq, h.waitState e he] at hjob
  cases hk : i.kind <;> rw [hk] at hjob <;> cases hjob

theorem waitDeadline_bindings (h : AllBindings s) (hc : CallsOk s) : AllBindings (waitDeadline s) := by
  unfold waitDeadline
  split
  · exact h
  · refine (List.foldlRecOn (motive := fun u => AllBindings u ∧ u.jobs = s.jobs) _ expireWait ⟨h, rfl⟩
      fun u ⟨hu, hjobs⟩ e he => ?_).1.keep (recheck_bindings _)
    have hw := (List.mem_filter.1 he).1
    rw [← hjobs]
    exact expireWait_bindings hu (by rw [hjobs]; exact fun i hi => hc.waits_apart hw hi)

end Sys2Proof.Machine
end

section
/-! The bindings under RELEASE (R86–R89, R127, R128, R154). -/

namespace Sys2Proof.Machine

variable {p : Chan → Prop} {c : Chan} {k : Ctl} {r : Rec} {rq : Request} {s t : State} {key : Key} {j i : Job}

/-! ### A save begins (R127, R128) -/

/-- The record on which a channel's save can begin. -/
structure Savable (c : Chan) (key : Key) (r : Rec) (s : State) : Prop where
  key : (s.chans[c].bound <|> s.chans[c].learn) = some key
  nofill : NoFill r s
  others : ∀ d, d ≠ c → s.pfs.recs[r].boundChan ≠ some d
  once : ∀ q : Rec, s.pfs.recs[q].boundChan = some c → q = r

/-- The record that a channel is bound to. -/
theorem Bindings.savable_bound (h : AllBindings s) (hk : KeysApart s) (hb : s.chans[c].bound = some key)
    (hf : findProfile key s = some r) : Savable c key r s := by
  obtain ⟨q, hq, hkey, hbound⟩ := h.ofChannel c key trivial hb
  obtain rfl := findProfile_eq hk hf hq hkey
  exact {
    key := by rw [hb]; rfl
    nofill := h.noFill hk hbound
    others := fun d hd he => hd (Option.some.inj (he.symm.trans hbound))
    once := fun q' hq' => h.boundOnce hk trivial hq' hbound }

/-- A record for the key that an unbound channel learns. -/
theorem Bindings.savable_learn (h : AllBindings s) (hb : s.chans[c].bound = none) (hl : s.chans[c].learn = some key)
    (hr : s.pfs.recs[r].boundChan = none) (hf : NoFill r s) : Savable c key r s where
  key := by rw [hb, hl]; rfl
  nofill := hf
  others d _ he := by
    rw [hr] at he
    cases he
  once q hq := by
    obtain ⟨-, key', -, hbound⟩ := h.ofProfile q c trivial hq
    rw [hb] at hbound
    cases hbound

theorem saveDecision_savable (h : AllBindings s) (hk : KeysApart s) (hr : saveDecision c k s = .ok r) :
    ∃ key, Savable c key r s := by
  cases hb : s.chans[c].bound with
  | some key =>
    rw [saveDecision_bound hb] at hr
    cases hf : findProfile key s with
    | none =>
      rw [hf] at hr
      cases hr
    | some q =>
      rw [hf] at hr
      dsimp only at hr
      split at hr
      · cases hr
      · rw [← Except.ok.inj hr]
        exact ⟨key, h.savable_bound hk hb hf⟩
  | none =>
    cases hl : s.chans[c].learn with
    | none =>
      rw [saveDecision, hb, hl] at hr
      cases hr
    | some key =>
      rw [saveDecision_learn hb hl] at hr
      cases hf : findProfile key s with
      | none =>
        rw [hf] at hr
        cases hfree : recordFor s with
        | none =>
          rw [hfree] at hr
          cases hr
        | some q =>
          rw [hfree] at hr
          rw [← Except.ok.inj hr]
          obtain ⟨hunbound, hnofill⟩ := recordFor_clear h hfree
          exact ⟨key, h.savable_learn hb hl hunbound hnofill⟩
      | some q =>
        rw [hf] at hr
        dsimp only at hr
        split at hr
        · cases hr
        · next hready =>
          obtain ⟨hvalid, hunbound, -⟩ := (saveReady_iff _ _ _).2 (Bool.eq_false_of_not_eq_true hready)
          rw [← Except.ok.inj hr]
          refine ⟨key, h.savable_learn hb hl hunbound fun n l key' _ _ _ _ hs => ?_⟩
          rw [hvalid] at hs
          cases hs

/-- A SAVE job is queued on its channel's profile. -/
theorem Bindings.addSave (h : AllBindings s) (hb : s.chans[j.chan].bound = some j.key) :
    AllBindings (s.setJobs (s.jobs ++ [j])) :=
  { h with
    saves := fun i hi hs => by
      rcases List.mem_append.1 hi with hi | hi
      · exact h.saves i hi hs
      · rw [List.mem_singleton.1 hi]
        exact ⟨trivial, hb⟩ }

theorem savedRecord_binding (c : Chan) (key : Key) (x : Context) (q : Profile) :
    (savedRecord c key x q).state = .filling ∧ (savedRecord c key x q).key = some key ∧
      (savedRecord c key x q).boundChan = some c := ⟨rfl, rfl, rfl⟩

theorem beginSave_bindings (h : Bindings (· ≠ c) s) (hr : Savable c key r s) : AllBindings (beginSave c r s) := by
  obtain ⟨hstate, hkey, hbound⟩ := savedRecord_binding c key s.chans[c] s.pfs.recs[r]
  have hset := ((h.setRec (r := r) (q := savedRecord c key s.chans[c] s.pfs.recs[r]) hr.others
    (fun d hd he => hd (Option.some.inj he).symm) hr.nofill).keep
      (.setRecency (s.pfs.recency.filter (· != r)))).setChan
      (x := { s.chans[c] with state := .releasing, bound := some key })
  have hland := hset.land (fun q hq => ?_) (fun key' hkey' => ⟨r, ?_⟩) (fun hf => ?_)
  · have hjob := hland.addSave (j := {
      kind := .save, chan := c, key, count := s.chans[c].par.near + (if s.chans[c].par.eq then 1 else 0), moved := 0
      eqLast := s.chans[c].par.eq, queuedAt := s.hwi.line.frame })
      (by rw [State.setChan_chans, getElem_set_same])
    rw [beginSave_eq hr.key]
    exact hjob
  · have hqr : q = r := by
      rw [State.setChan_pfs, State.setRecency_pfs, State.setRec_pfs, getElem_set_fin] at hq
      split at hq
      · next e => exact e.symm
      · exact hr.once q hq
    rw [hqr, State.setChan_pfs, State.setRecency_pfs, State.setRec_pfs, getElem_set_same, State.setChan_chans,
      getElem_set_same, hstate]
    exact ⟨nofun, key, hkey, rfl⟩
  · rw [State.setChan_chans, getElem_set_same] at hkey'
    rw [State.setChan_pfs, State.setRecency_pfs, State.setRec_pfs, getElem_set_same, hstate]
    exact ⟨nofun, hkey.trans hkey', hbound⟩
  · rw [State.setChan_chans, getElem_set_same] at hf
    cases hf

/-! ### RELEASE (R86–R89, R154) -/

theorem emptySlots_bindings (c : Chan) (s : State) : KeepsBindings s (emptySlots c s) := .ofEq rfl rfl rfl rfl rfl

theorem releaseEnded_bindings (rq : Request) (s : State) : KeepsBindings s (releaseEnded rq s) :=
  (((makeDeferred_bindings rq s).trans (completeTraining_bindings _ _ _)).modChan (by exact fun _ => rfl)
    (by exact id)).trans (emptySlots_bindings _ _)

theorem endOwnLock_bindings (c : Chan) (k : Ctl) (s : State) : KeepsBindings s (endOwnLock c k s) := by
  cases hl : s.locks[k] with
  | none =>
    rw [endOwnLock_none hl]
    exact .refl s
  | some l =>
    obtain ⟨hother, hmine⟩ := endOwnLock_some (c := c) hl
    by_cases hon : OnCall c l s
    · rw [hmine hon]
      exact (unholdChan_bindings _ _).trans .clearLock
    · rw [hother hon]
      exact .refl s

theorem endForRelease_bindings (c : Chan) (s : State) : KeepsBindings s (endForRelease c s) := by
  unfold endForRelease
  split
  · exact (removeWait_bindings _ _).trans (completeBind_bindings _ _ _)
  · exact (cancelJob_bindings _ _).trans (completeBind_bindings _ _ _)
  · exact completeTraining_bindings _ _ _

theorem releaseSaving_bindings (h : AllBindings s) (hk : KeysApart s)
    (hlift : Bindings (· ≠ rq.chan) s) :
    AllBindings (releaseSaving rq s).1 := by
  have hkeep := releaseEnded_bindings rq s
  have hended := h.keep hkeep
  rw [releaseSaving_eq]
  dsimp only
  split
  · next r hr =>
    obtain ⟨key, hsav⟩ := saveDecision_savable hended (hk.keep hkeep) hr
    exact beginSave_bindings (hlift.keep hkeep) hsav
  · exact ((hlift.keep hkeep).keep (completeRelease_bindings _ _ _ _ _)).enterFree.keep (recheck_bindings _)

theorem releaseNow_bindings (discard : Bool) (hlift : Bindings (· ≠ c) s) : AllBindings (releaseNow c discard s).1 := by
  have hended := hlift.keep (endForRelease_bindings c s)
  unfold releaseNow
  dsimp only
  exact hended.enterFree.keep (recheck_bindings _)

theorem releaseChan_bindings (h : AllBindings s) (hk : KeysApart s) (hs : SavesRelease s)
    (hc : s.chans[rq.chan].state ≠ .releasing) : AllBindings (releaseChan rq s).1 := by
  have hown := endOwnLock_bindings rq.chan rq.ctl s
  have hlift := (hs.lift h hc).keep hown
  unfold releaseChan
  dsimp only
  split
  · exact releaseSaving_bindings (h.keep hown) (hk.keep hown) hlift
  · exact releaseNow_bindings _ hlift

end Sys2Proof.Machine
end

section
/-! The bindings under BIND (R79–R84, R112, R125). -/

namespace Sys2Proof.Machine

variable {c : Chan} {r : Rec} {rq : Request} {s t : State} {key : Key} {link : Option Tag}

/-- The laws of bindings, but that the channel, which a BIND records, may be bound while it is still FREE. -/
structure Recorded (c : Chan) (s : State) : Prop where
  others : Bindings (· ≠ c) s
  ofProfile : ∀ r : Rec, s.pfs.recs[r].boundChan = some c →
    s.pfs.recs[r].state ≠ .empty ∧ ∃ key, s.pfs.recs[r].key = some key ∧ s.chans[c].bound = some key
  ofChannel : ∀ key, s.chans[c].bound = some key →
    ∃ r : Rec, s.pfs.recs[r].state ≠ .empty ∧ s.pfs.recs[r].key = some key ∧ s.pfs.recs[r].boundChan = some c

theorem Recorded.keep (h : Recorded c s) (hk : KeepsBindings s t) : Recorded c t where
  others := h.others.keep hk
  ofProfile r hb := by
    obtain ⟨hstate, hkey, hbound⟩ := hk.recs r
    rw [hstate, hkey, hk.bound]
    exact h.ofProfile r (hbound ▸ hb)
  ofChannel key hb := by
    obtain ⟨r, hstate, hkey, hbound⟩ := h.ofChannel key (hk.bound c ▸ hb)
    obtain ⟨hstate', hkey', hbound'⟩ := hk.recs r
    exact ⟨r, hstate' ▸ hstate, hkey' ▸ hkey, hbound' ▸ hbound⟩

theorem Recorded.bindings (h : Recorded c s) (hf : s.chans[c].state = .free → s.chans[c].bound = none) : AllBindings s :=
  h.others.land h.ofProfile h.ofChannel hf

/-! ### The record of a BIND (R80, R125) -/

/-- No record is bound to a FREE channel. -/
theorem Bindings.free_unbound (h : AllBindings s) (hc : s.chans[c].state = .free) (q : Rec) :
    s.pfs.recs[q].boundChan ≠ some c := by
  intro hq
  obtain ⟨-, key, -, hb⟩ := h.ofProfile q c trivial hq
  rw [h.free c trivial hc] at hb
  cases hb

theorem SavesRelease.lift_free (hs : SavesRelease s) (h : AllBindings s) (hc : s.chans[c].state = .free) :
    Bindings (· ≠ c) s := hs.lift h (by rw [hc]; decide)

/-- A channel that binds no profile is recorded. -/
theorem recorded_unbound (h : AllBindings s) (hs : SavesRelease s) (hc : s.chans[c].state = .free) {x : Context}
    (hx : x.bound = none) : Recorded c (s.setChan c x) where
  others := (hs.lift_free h hc).setChan
  ofProfile q hq := absurd hq (h.free_unbound hc q)
  ofChannel key hkey := by
    rw [State.setChan_chans, getElem_set_same, hx] at hkey
    cases hkey

/-- A channel that binds a profile without one is recorded (R125). -/
theorem recorded_bound (h : AllBindings s) (hs : SavesRelease s) (hc : s.chans[c].state = .free) {x : Context}
    (hx : x.bound = some key) (hv : s.pfs.recs[r].state = .valid) (hkey : s.pfs.recs[r].key = some key)
    (hb : s.pfs.recs[r].boundChan = none) :
    Recorded c ((s.setRec r { s.pfs.recs[r] with boundChan := some c }).setChan c x) := by
  have hset := (hs.lift_free h hc).setRec (r := r) (q := { s.pfs.recs[r] with boundChan := some c })
    (fun d _ he => by rw [hb] at he; cases he) (fun d hd he => hd (Option.some.inj he).symm)
    (fun k l key' _ _ _ _ hf => by rw [hv] at hf; cases hf)
  refine ⟨hset.setChan, fun q hq => ?_, fun key' hkey' => ⟨r, ?_⟩⟩
  · have hqr : q = r := by
      rw [State.setChan_pfs, State.setRec_pfs, getElem_set_fin] at hq
      split at hq
      · next e => exact e.symm
      · exact absurd hq (h.free_unbound hc q)
    rw [hqr, State.setChan_pfs, State.setRec_pfs, getElem_set_same, State.setChan_chans, getElem_set_same, hv]
    exact ⟨nofun, key, hkey, hx⟩
  · rw [State.setChan_chans, getElem_set_same, hx] at hkey'
    rw [State.setChan_pfs, State.setRec_pfs, getElem_set_same, hv]
    exact ⟨nofun, hkey.trans hkey', rfl⟩

theorem recordBind_recorded_plain (h : AllBindings s) (hs : SavesRelease s) (hc : s.chans[rq.chan].state = .free)
    (hf : foundProfile rq s = none) : Recorded rq.chan (recordBind rq link s) := by
  rw [recordBind_plain hf]
  exact recorded_unbound h hs hc rfl

theorem recordBind_recorded_found (h : AllBindings s) (hs : SavesRelease s) (hc : s.chans[rq.chan].state = .free)
    (hf : foundProfile rq s = some r) : Recorded rq.chan (recordBind rq (some rq.tag) s) := by
  obtain ⟨key, hkey, hfind, hvalid⟩ := (foundProfile_some_iff rq s r).1 hf
  rw [recordBind_found hkey hf]
  cases hb : s.pfs.recs[r].boundChan with
  | none =>
    have hpfs : boundPfs rq.chan r s = (s.setRec r { s.pfs.recs[r] with boundChan := some rq.chan }).pfs := by
      rw [boundPfs, hb]
      rfl
    rw [hpfs]
    exact recorded_bound (x := loadingContext rq key r s) h hs hc (by simp only [loadingContext, hb]; rfl) hvalid
      (findProfile_some hfind).2 hb
  | some d =>
    have hpfs : boundPfs rq.chan r s = s.pfs := by
      rw [boundPfs, hb]
      rfl
    rw [hpfs]
    exact recorded_unbound (x := loadingContext rq key r s) h hs hc (by simp only [loadingContext, hb]; rfl)

/-! ### BIND (R81, R83, R112) -/

theorem recordBind_recorded (h : AllBindings s) (hs : SavesRelease s) (hc : s.chans[rq.chan].state = .free) :
    Recorded rq.chan (recordBind rq (some rq.tag) s) := by
  cases hf : foundProfile rq s with
  | none => exact recordBind_recorded_plain h hs hc hf
  | some r => exact recordBind_recorded_found h hs hc hf

theorem enterPending_bindings (h : AllBindings s) (hs : SavesRelease s) (hc : s.chans[rq.chan].state = .free) :
    AllBindings (enterPending rq s) := by
  have hrec := recordBind_recorded (rq := rq) (s := makeDeferred rq s) (h.keep (makeDeferred_bindings rq s)) hs hc
  refine (hrec.keep (((KeepsBindings.refl _).modChan (c := rq.chan) (f := fun x => { x with state := .pending })
    (by exact fun _ => rfl) (by exact nofun)).trans (setSal_bindings _ _))).bindings fun hf => ?_
  rw [State.setSal_chans, State.modChan_chans, getElem_set_same] at hf
  cases hf

theorem bindAtOnce_bindings (h : AllBindings s) (hs : SavesRelease s) (hc : s.chans[rq.chan].state = .free) :
    AllBindings (bindAtOnce rq s).1 := by
  cases hf : foundProfile rq s with
  | none =>
    have hfound : ¬ (foundProfile rq s).isSome = true := by rw [hf]; decide
    have hgrant := grant_bindings rq.chan (bindParams rq s).segsNeeded (bindParams rq s).pagesNeeded (recordBind rq none s)
    rw [bindAtOnce, if_neg hfound]
    refine ((recordBind_recorded_plain h hs hc hf).keep hgrant).bindings fun _ => (hgrant.bound rq.chan).trans ?_
    rw [recordBind_plain hf, State.setChan_chans, getElem_set_same]
    rfl
  | some r =>
    obtain ⟨key, hkey, -⟩ := (foundProfile_some_iff rq s r).1 hf
    have hfound : (foundProfile rq s).isSome = true := by rw [hf]; rfl
    have hrec := recordBind_recorded_found (rq := rq) (s := makeDeferred rq s) (h.keep (makeDeferred_bindings rq s)) hs hc hf
    have hstate : recordBind rq (some rq.tag) (makeDeferred rq s) = loadBound rq key r s :=
      recordBind_found (s := makeDeferred rq s) hkey hf
    rw [bindAtOnce, if_pos hfound]
    refine (hrec.keep (grant_bindings _ _ _ _)).bindings fun hfree => ?_
    rw [hstate, grant_loadBound_chan hkey hf] at hfree
    cases hfree

theorem bindRoom_bindings (h : AllBindings s) (hs : SavesRelease s) (hc : s.chans[rq.chan].state = .free) :
    AllBindings (bindRoom rq s).1 := by
  unfold bindRoom
  dsimp only
  split
  · exact bindAtOnce_bindings h hs hc
  · split
    · exact h
    · split
      · exact h
      · exact enterPending_bindings h hs hc

end Sys2Proof.Machine
end

section
/-! The bindings through start-up, the boot load, the gate and reads (R93–R97, R130, R139, R140, R145, R146, R176, R178,
R193, R194). -/

namespace Sys2Proof.Machine

variable {c : Chan} {r : Rec} {rq : Request} {s t : State} {key : Key}

/-! ### Start-up, the boot load and the gate (R176, R178, R193, R194) -/

theorem KeepsBindings.setBtl {b : Btl} (h : b.status = .loading →
    s.btl.status = .loading ∧ (s.btl.gateOpen = false → b.gateOpen = false)) : KeepsBindings s (s.setBtl b) :=
  { KeepsBindings.refl s with
    booting := fun hb => ⟨(h hb).1, (h hb).2, id⟩ }

theorem powerOn_bindings (s : State) : AllBindings (powerOn s) :=
  ((allBindings_iff _).2 reset_bindings).keep (.ofEq rfl rfl rfl rfl rfl)

theorem partReset_bindings (s : State) : AllBindings (partReset s) := by
  have hbtl : AllBindings (State.reset.setBtl (partReset s).btl) :=
    ((allBindings_iff _).2 reset_bindings).keep (.setBtl fun _ => ⟨rfl, fun _ => rfl⟩)
  exact hbtl.keep (.ofEq rfl rfl rfl rfl rfl)

/-- While every channel is FREE and no lock stands, the records may all change that come unbound. -/
theorem unbound_bindings (h : AllBindings s) (hfree : ∀ c : Chan, s.chans[c].state = .free)
    (hlocks : ∀ k : Ctl, s.locks[k] = none) (hc : t.chans = s.chans) (hj : t.jobs = s.jobs) (hl : t.locks = s.locks)
    (hp : ∀ r : Rec, t.pfs.recs[r].boundChan = none) (hb : t.btl.status ≠ .loading) : AllBindings t where
  ofProfile r c _ hbound := by
    rw [hp] at hbound
    cases hbound
  ofChannel c key _ hbound := by
    rw [hc, h.free c trivial (hfree c)] at hbound
    cases hbound
  free c _ _ := by
    rw [hc]
    exact h.free c trivial (hfree c)
  saves j hj' hs := by
    rw [hc]
    exact h.saves j (hj ▸ hj') hs
  fills k l key hlock := by
    rw [hl, hlocks k] at hlock
    cases hlock
  booting hload := absurd hload hb

theorem parseProfiles_unbound : ∀ (n : Nat) (b : List Byte) (ps : List Profile), parseProfiles n b = some ps →
    ∀ q ∈ ps, q.boundChan = none
  | 0, b, ps, h => by
    unfold parseProfiles at h
    split at h
    · cases h
      exact nofun
    · cases h
  | n + 1, b, ps, h => by
    unfold parseProfiles at h
    dsimp only at h
    split at h
    · obtain ⟨qs, hqs, rfl⟩ := Option.map_eq_some_iff.1 h
      intro q hq
      rcases List.mem_cons.1 hq with rfl | hq
      · rfl
      · exact parseProfiles_unbound n _ qs hqs q hq
    · cases h

theorem imageProfiles_unbound (b : List Byte) : ∀ q ∈ (imageProfiles b).getD [], q.boundChan = none := by
  cases h : imageProfiles b with
  | none => exact nofun
  | some ps =>
    unfold imageProfiles at h
    split at h
    · exact parseProfiles_unbound _ _ ps (Option.filter_eq_some_iff.1 h).1
    · cases h

/-- An installed image leaves every record unbound (R193). -/
theorem installImage_unbound (b : List Byte) (s : State) (r : Rec) :
    (installImage b s).pfs.recs[r].boundChan = none := by
  have hrec : (installImage b s).pfs.recs[r] = ((imageProfiles b).getD []).getD r.val emptyProfile := by
    simp [installImage]
  rw [hrec, List.getD_eq_getElem?_getD]
  cases hq : ((imageProfiles b).getD [])[r.val]? with
  | none => rfl
  | some q => exact imageProfiles_unbound b q (List.mem_of_getElem? hq)

theorem endLoad_bindings (st : BootStatus) (ops : List PortOp) (hst : st ≠ .loading) (s : State) :
    KeepsBindings s (endLoad st ops s) := .setBtl fun h => absurd h hst

theorem imageStatus_decided (b : List Byte) : imageStatus b ≠ .loading := by
  unfold imageStatus
  split
  · nofun
  · split
    · nofun
    · split
      · nofun
      · split <;> nofun

theorem bootLoadEnd_bindings (nack : Option (Fin 4)) (image : List Byte) (h : AllBindings s) (hc : CallsOk s) :
    AllBindings (bootLoadEnd nack image s) := by
  unfold bootLoadEnd
  split
  · next hload =>
    rw [Bool.and_eq_true, beq_iff_eq] at hload
    split
    · exact h.keep (endLoad_bindings _ _ (by decide) s)
    · split
      · exact h
      · have hended := endLoad_bindings (imageStatus image) (portRead (image.take (bytesNeeded image)))
          (imageStatus_decided image) s
        dsimp only
        split
        · next hvalid =>
          obtain ⟨hgate, hlocks⟩ := h.booting hload.2
          refine unbound_bindings h (hc.gate hgate) hlocks rfl rfl rfl (installImage_unbound _ _) ?_
          change imageStatus image ≠ .loading
          rw [hvalid]
          decide
        · exact h.keep hended
  · exact h

theorem setGate_bindings (b : Bool) (hb : s.btl.status ≠ .loading) :
    KeepsBindings s (s.setBtl { s.btl with gateOpen := b }) := .setBtl fun h => absurd h hb

theorem attachCtl_bindings (k : Ctl) (s : State) : KeepsBindings s (attachCtl k s) := by
  unfold attachCtl
  split
  · exact .ofEq rfl rfl rfl rfl rfl
  · have hplaces (b : Cbi) (f : Fifo) : KeepsBindings s ((s.setCbi b).setFifo k f) := .ofEq rfl rfl rfl rfl rfl
    exact (hplaces _ _).trans .clearLock

/-! ### Faults and reads (R95, R130, R139, R140, R145) -/

theorem enterFault_bindings (c : Chan) (addr : Nat) (s : State) : KeepsBindings s (enterFault c addr s) := by
  have hfault := (completeTraining_bindings c .faulted s).modChan (c := c) (f := fun x => { x with state := .fault })
    (by exact fun _ => rfl) (by exact nofun)
  unfold enterFault
  dsimp only
  refine KeepsBindings.trans ?_ (postOwner_bindings _ _ _ _)
  split
  · exact (hfault.trans (cancelJob_bindings _ _)).trans (completeBind_bindings _ _ _)
  · exact hfault

theorem readChunk_bindings (c : Chan) (g : Seg) (s : State) : KeepsBindings s (readChunk c g s).1 := by
  unfold readChunk
  dsimp only
  have hread := applyCorrections_bindings c (readSegment s.sal g) s
  split
  · exact hread
  · split
    · exact hread.trans (enterFault_bindings _ _ _)
    · exact hread

theorem touch_bindings (r : Rec) (s : State) : KeepsBindings s (touch r s) := by
  unfold touch
  split
  · exact .setRecency _
  · exact .refl s

/-! ### Requests (R167) -/

/-- A request that needs a booted part is taken only then (R167). -/
theorem takeRequest_bindings {k : Kind} {own : Request → State → State × Answer} (hk : k ≠ .queryPart)
    (hown : ∀ rq, s.btl.status ≠ .loading → AllBindings (own rq s).1) (h : AllBindings s) :
    AllBindings (takeRequest (isKind k) own s) := by
  have hanswer (a : Answer) (u : State) (hu : AllBindings u) : AllBindings (answerFirst a u) :=
    hu.keep (answerFirst_core a u).bindings
  rcases takeRequest_cases (isKind k) own s with e | ⟨rq, -, hmine, ⟨a, -, e⟩ | ⟨hb, e⟩⟩ <;> rw [e]
  · exact h
  · exact hanswer _ _ h
  · refine hanswer _ _ (hown rq fun hload => ?_)
    have hboot : (s.btl.status == .loading && rq.kind != some .queryPart) = false :=
      firstFail_pass hb (a := retry .booting) (by simp)
    have hkind : rq.kind = some k := by
      simp only [isKind, Bool.and_eq_true, beq_iff_eq] at hmine
      exact hmine.2
    rw [hload, hkind] at hboot
    simp [hk] at hboot

theorem takeRequest_keeps {mine : Request → Bool} {own : Request → State → State × Answer}
    (hown : ∀ rq, KeepsBindings s (own rq s).1) (h : AllBindings s) : AllBindings (takeRequest mine own s) :=
  takeRequest_inv AllBindings (fun a u hu => hu.keep (answerFirst_core a u).bindings) mine own s
    (fun rq _ _ => h.keep (hown rq)) h

theorem checked_keeps {l : List (Bool × Answer)} {f : State → State × Answer} (hf : KeepsBindings s (f s).1) :
    KeepsBindings s (checked l f s).1 := checked_inv (KeepsBindings s) l f s (fun _ => hf) (.refl s)

theorem KeepsBindings.booted (h : KeepsBindings s t) (hb : s.btl.status ≠ .loading) : t.btl.status ≠ .loading :=
  fun hl => hb (h.booting hl).1

/-- A request behind a lock step, which keeps the bindings. -/
theorem lockedRequest_keeps {early : List (Bool × Answer)} {obj : LockObj} {oc : Option Answer}
    {mismatch : Lock → Bool} {lock : State → State × Option Answer} {rest : State → State × Answer}
    (hlock : lock s = lockStep rq obj oc mismatch s)
    (hrest : ∀ u : State, u.btl.status ≠ .loading → KeepsBindings u (rest u).1) (hb : s.btl.status ≠ .loading) :
    KeepsBindings s (lockedRequest early lock rest s).1 := by
  have hstep : KeepsBindings s (lock s).1 := by
    rw [hlock]
    exact lockStep_bindings _ _ _ _ _
  exact lockedRequest_inv (KeepsBindings s) early lock rest s hstep
    (fun _ _ => hstep.trans (hrest _ (hstep.booted hb))) (.refl s)

/-! ### Requests that keep the bindings -/

theorem readProfile_bindings (rq : Request) (hb : s.btl.status ≠ .loading) : KeepsBindings s (readProfile rq s).1 := by
  unfold readProfile
  split
  · exact .refl s
  · next r _ =>
    have htouch : KeepsBindings s { touch r s with free := s.free + 4 } :=
      (touch_bindings r s).trans (.ofEq rfl rfl rfl rfl rfl)
    exact htouch.trans (markerEffect_bindings rq _ _ nofun (htouch.booted hb))

theorem readLive_bindings (c : Chan) (i : Fin 9) (s : State) : KeepsBindings s (readLive c i s).1 := by
  unfold readLive
  split
  · exact .refl s
  · exact applyCorrections_bindings _ _ _

theorem readProfileTaps_bindings (rq : Request) (hb : s.btl.status ≠ .loading) :
    KeepsBindings s (readProfileTaps rq s).1 := by
  have hmarker (u : State) (held : Option Chan) (hu : KeepsBindings s u) :
      KeepsBindings s (markerEffect rq (.profile rq.key) .profileRead held u) :=
    hu.trans (markerEffect_bindings rq _ _ nofun (hu.booted hb))
  unfold readProfileTaps
  split
  · exact .refl s
  · refine checked_keeps (hmarker _ _ ?_)
    split
    · exact .refl s
    · exact readLive_bindings _ _ _

theorem readTaps_bindings (rq : Request) (hb : s.btl.status ≠ .loading) : KeepsBindings s (readTaps rq s).1 := by
  have hmarker (u : State) (hu : KeepsBindings s u) :
      KeepsBindings s (markerEffect rq (.chan rq.chan) .channel (some rq.chan) u) :=
    hu.trans (markerEffect_bindings rq _ _ nofun (hu.booted hb))
  refine checked_keeps (hmarker _ ?_)
  split
  · exact .refl s
  · exact readChunk_bindings _ _ _

theorem writeTaps_bindings (rq : Request) (hb : s.btl.status ≠ .loading) : KeepsBindings s (writeTaps rq s).1 := by
  have hmarker (u : State) (hu : KeepsBindings s u) :
      KeepsBindings s (markerEffect rq (.chan rq.chan) .channel (some rq.chan) u) :=
    hu.trans (markerEffect_bindings rq _ _ nofun (hu.booted hb))
  refine checked_keeps (hmarker _ ?_)
  split
  · exact .refl s
  · exact setSal_bindings _ _

theorem setSal_setChan_bindings {x : Context} (m : Sal) (hb : x.bound = s.chans[c].bound)
    (hf : x.state = s.chans[c].state) : KeepsBindings s ((s.setSal m).setChan c x) :=
  (setSal_bindings m s).trans (.setChan hb fun h => hf.symm.trans h)

theorem adoptChan_bindings (c : Chan) (k : Ctl) (s : State) : KeepsBindings s (adoptChan c k s) := by
  have hset := setSal_setChan_bindings (s := s) (c := c) (x := { s.chans[c] with owner := some k })
    (credit (some k) s.chans[c].segs.length s.chans[c].pages.length s.sal) rfl rfl
  unfold adoptChan
  exact hset.trans (recheck_bindings _)

theorem setFar_bindings (c : Chan) (far bulk : Nat) (s : State) : KeepsBindings s (setFar c far bulk s) := by
  unfold setFar
  dsimp only
  split
  · exact setSal_setChan_bindings _ rfl rfl
  · exact (setSal_setChan_bindings _ (by exact rfl) (by exact rfl)).trans (recheck_bindings _)

theorem ownAdopt_bindings (rq : Request) (s : State) : KeepsBindings s (ownAdopt rq s).1 := by
  refine checked_keeps ?_
  dsimp only
  split
  · exact .refl s
  · exact adoptChan_bindings _ _ _

theorem setFreeze_bindings (b : Bool) (rq : Request) (s : State) : KeepsBindings s (setFreeze b rq s).1 := by
  unfold setFreeze
  exact KeepsBindings.setChan (c := rq.chan) (x := { s.chans[rq.chan] with freeze := b }) rfl id

theorem ownDetach_bindings (rq : Request) (h : AllBindings s) (ha : Apart s) (hc : CallsOk s) :
    AllBindings (ownDetach rq s).1 := by
  refine checked_inv AllBindings _ _ s (fun _ => ?_) h
  split
  · dsimp only
    exact detachCtl_bindings _ h ha hc
  · exact h

/-- A request that needs ownership and serves its channel keeps the bindings. -/
theorem checked_served_bindings {form range : Bool} {admits : ChanState → Bool} {f : State → State × Answer}
    {more : List (Bool × Answer)} (hadmits : ∀ st, admits st = true → boundToFault st = true)
    (hf : boundToFault s.chans[rq.chan].state = true → ServedTo rq.chan s (f s).1) :
    KeepsBindings s (checked (ownerChecks form range admits rq s ++ more) f s).1 := by
  refine checked_inv (KeepsBindings s) _ f s (fun hc => ?_) (.refl s)
  rw [firstFail_append] at hc
  exact (hf (hadmits _ (ownerChecks_pass ((Option.orElse_eq_none _ _).1 hc).1).2.2)).bindings

end Sys2Proof.Machine
end

section
/-! Every command keeps the bindings of profiles and channels (R125). -/

namespace Sys2Proof.Machine

variable {s t : State}

/-- Every command has a next state, and it keeps the bindings. -/
theorem exec_bindings (i : Instr) (h : AllBindings s) (ha : Apart s) (hc : CallsOk s) (hl : LocksOk s) :
    ∃ t, exec i s = .next t ∧ AllBindings t := by
  have hs : SavesRelease s := fun _ => hc.releasing
  cases i with
  | powerOn => exact ⟨_, rfl, powerOn_bindings s⟩
  | resetAsserted => exact ⟨_, rfl, h.keep (.setBtl fun hb => ⟨hb, id⟩)⟩
  | timebaseTick =>
    refine ⟨_, rfl, ?_⟩
    split
    · exact h
    · exact h.keep (.setBtl fun hb => ⟨hb, id⟩)
  | bootLoadEnd nack image => exact ⟨_, rfl, bootLoadEnd_bindings nack image h hc⟩
  | frameSyncPulse g n => exact ⟨_, rfl, h.keep (framePulse_core _ _ _).bindings⟩
  | missingSync g =>
    refine ⟨_, exec_missingSync g s, ?_⟩
    split
    · exact h.keep (loseSync_core _ _ _).bindings
    · exact h
  | clockStopped g =>
    refine ⟨_, exec_clockStopped g s, ?_⟩
    split
    · exact h.keep (loseSync_core _ _ _).bindings
    · exact h
  | syncSearchTimeout g =>
    refine ⟨_, exec_syncSearchTimeout g s, ?_⟩
    split
    · exact h.keep (setSync_core _ _ _).bindings
    · exact h
  | lineCodeArrives n code =>
    refine ⟨_, rfl, ?_⟩
    rcases lineCode_served n code s with hcore | ⟨c, -, ht⟩
    · exact h.keep hcore.bindings
    · exact h.keep ht.bindings
  | modemPairArrives c x d =>
    refine ⟨_, rfl, ?_⟩
    rcases modemPair_served c x d s with hcore | ⟨-, ht⟩
    · exact h.keep hcore.bindings
    · exact h.keep ht.bindings
  | lineOutputSend n => exact ⟨_, rfl, h.keep (lineSend_core _ _).bindings⟩
  | modemOutputSend c => exact ⟨_, rfl, h.keep (.ofEq rfl rfl rfl rfl rfl)⟩
  | lineFrameStart => exact ⟨_, rfl, lineFrameStart_bindings h ha.keys hc.jobs⟩
  | waitDeadline => exact ⟨_, rfl, waitDeadline_bindings h hc⟩
  | lockExpiry k => exact ⟨_, rfl, (expireLock_bindings k ⟨h, ha⟩).1⟩
  | eventHoldReached k =>
    refine ⟨_, rfl, ?_⟩
    split
    · exact h.keep (.ofEq rfl rfl rfl rfl rfl)
    · exact h
  | requestLaneGrant raised => exact ⟨_, rfl, h.keep (laneGrant_core _ _).bindings⟩
  | requestWordStrobe data parity => exact ⟨_, rfl, h.keep (receiveWord_core _ _ _).bindings⟩
  | recordAbandoned =>
    refine ⟨_, rfl, ?_⟩
    split
    · exact h
    · split
      · exact h.keep (.ofEq rfl rfl rfl rfl rfl)
      · exact h
  | sendResponse =>
    refine ⟨_, rfl, ?_⟩
    rcases sendResponse_core s with hcore | ⟨u, hu⟩
    · exact h.keep hcore.bindings
    · rw [hu]
      exact partReset_bindings u
  | sendCompletion => exact ⟨_, rfl, h.keep (sendCompletion_core _).bindings⟩
  | partResetEffect =>
    refine ⟨_, rfl, ?_⟩
    split
    · exact h
    · next rq a _ =>
      split
      · rcases sendHead_core rq a s with hcore | ⟨u, hu⟩
        · exact h.keep hcore.bindings
        · rw [hu]
          exact partReset_bindings u
      · exact h
  | parityFailedRequest =>
    refine ⟨_, rfl, ?_⟩
    split
    · exact h
    · split
      · exact h
      · split
        · exact h.keep (.ofEq rfl rfl rfl rfl rfl)
        · exact h
  | unknownRequestKind => exact ⟨_, rfl, takeRequest_keeps (fun _ => .refl s) h⟩
  | attach => exact ⟨_, rfl, takeRequest_keeps (fun _ => checked_keeps (attachCtl_bindings _ s)) h⟩
  | detach => exact ⟨_, rfl, takeRequest_bindings (by decide) (fun rq _ => ownDetach_bindings rq h ha hc) h⟩
  | openService =>
    exact ⟨_, rfl, takeRequest_bindings (by decide)
      (fun rq hb => h.keep (checked_keeps (setGate_bindings true hb))) h⟩
  | closeService =>
    exact ⟨_, rfl, takeRequest_bindings (by decide)
      (fun rq hb => h.keep (checked_keeps (setGate_bindings false hb))) h⟩
  | queryPart => exact ⟨_, rfl, takeRequest_keeps (fun _ => checked_keeps (.refl s)) h⟩
  | partReset => exact ⟨_, rfl, takeRequest_keeps (fun _ => checked_keeps (.ofEq rfl rfl rfl rfl rfl)) h⟩
  | setDefaults =>
    exact ⟨_, rfl, takeRequest_bindings (by decide)
      (fun rq _ => checked_inv AllBindings _ _ s (fun _ => installPart_bindings _ _ h ha) h) h⟩
  | readDefaults => exact ⟨_, rfl, takeRequest_keeps (fun _ => checked_keeps (.refl s)) h⟩
  | bind =>
    exact ⟨_, rfl, takeRequest_bindings (by decide)
      (fun rq _ => checked_inv AllBindings _ _ s (fun hf => bindRoom_bindings h hs (bindChecks_pass hf).1) h) h⟩
  | release =>
    refine ⟨_, rfl, takeRequest_bindings (by decide) (fun rq _ => checked_inv AllBindings _ _ s (fun hf => ?_) h) h⟩
    exact releaseChan_bindings h ha.keys hs ((releasable_iff _).1 (ownerChecks_pass hf).2.2).2
  | trainEcho =>
    refine ⟨_, rfl, takeRequest_keeps (fun rq => ?_) h⟩
    have := checked_served_bindings (form := rq.plain 1) (range := rq.chanOk) (rq := rq) (more := [])
      (fun st => boundToTracking_toFault) (fun hs => startTraining_served (s := s) (st := .echoTrain) rq hs rfl)
    rwa [List.append_nil] at this
  | trainEqualizer =>
    refine ⟨_, rfl, takeRequest_keeps (fun rq => ?_) h⟩
    refine checked_served_bindings (fun st hst => ?_) (fun hs => startTraining_served rq hs rfl)
    rcases (boundOrTracking_iff st).1 hst with rfl | rfl <;> rfl
  | track =>
    refine ⟨_, rfl, takeRequest_keeps (fun rq => ?_) h⟩
    have := checked_served_bindings (s := s) (form := rq.plain 1) (range := rq.chanOk) (rq := rq) (more := [])
      (f := fun s => (if s.chans[rq.chan].state = .tracking then s else trackChan rq.chan s, done []))
      (fun st => boundToTracking_toFault) (fun hs => by
        dsimp only
        split
        · exact .refl hs
        · exact trackChan_served hs)
    rwa [List.append_nil] at this
  | freeze => exact ⟨_, rfl, takeRequest_keeps (fun rq => checked_keeps (setFreeze_bindings _ rq s)) h⟩
  | thaw => exact ⟨_, rfl, takeRequest_keeps (fun rq => checked_keeps (setFreeze_bindings _ rq s)) h⟩
  | restart =>
    refine ⟨_, rfl, takeRequest_keeps (fun rq => ?_) h⟩
    have := checked_served_bindings (s := s) (form := rq.plain 1) (range := rq.chanOk) (rq := rq) (more := [])
      (f := fun s => (restartChan rq.chan s, done [])) (fun st hst => hst) (fun hs => restartChan_served hs)
    rwa [List.append_nil] at this
  | setFarWindow => exact ⟨_, rfl, takeRequest_keeps (fun rq => checked_keeps (setFar_bindings _ _ _ s)) h⟩
  | adopt => exact ⟨_, rfl, takeRequest_keeps (fun rq => ownAdopt_bindings rq s) h⟩
  | queryChannel => exact ⟨_, rfl, takeRequest_keeps (fun _ => checked_keeps (.refl s)) h⟩
  | queryStore => exact ⟨_, rfl, takeRequest_keeps (fun _ => checked_keeps (.refl s)) h⟩
  | storeProfile =>
    exact ⟨_, rfl, takeRequest_bindings (by decide) (fun rq hb => ownStoreProfile_bindings rq h ha hs hb) h⟩
  | storeProfileTaps =>
    exact ⟨_, rfl, takeRequest_bindings (by decide) (fun rq hb => ownStoreProfileTaps_bindings rq h ha hl hb) h⟩
  | readProfile =>
    exact ⟨_, rfl, takeRequest_bindings (by decide)
      (fun rq hb => h.keep (lockedRequest_keeps rfl (fun _ hu => readProfile_bindings rq hu) hb)) h⟩
  | readProfileTaps =>
    exact ⟨_, rfl, takeRequest_bindings (by decide)
      (fun rq hb => h.keep (lockedRequest_keeps rfl (fun _ hu => readProfileTaps_bindings rq hu) hb)) h⟩
  | dropProfile =>
    exact ⟨_, rfl, takeRequest_bindings (by decide)
      (fun rq _ => checked_inv AllBindings _ _ s (fun _ => dropProfile_bindings rq h ha.keys) h) h⟩
  | listProfiles => exact ⟨_, rfl, takeRequest_keeps (fun _ => checked_keeps (.refl s)) h⟩
  | readTaps =>
    exact ⟨_, rfl, takeRequest_bindings (by decide)
      (fun rq hb => h.keep (lockedRequest_keeps rfl (fun _ hu => readTaps_bindings rq hu) hb)) h⟩
  | writeTaps =>
    exact ⟨_, rfl, takeRequest_bindings (by decide)
      (fun rq hb => h.keep (lockedRequest_keeps rfl (fun _ hu => writeTaps_bindings rq hu) hb)) h⟩
  | fetchEvents => exact ⟨_, rfl, takeRequest_keeps (fun _ => checked_keeps (.ofEq rfl rfl rfl rfl rfl)) h⟩
  | setEventTrigger => exact ⟨_, rfl, takeRequest_keeps (fun _ => checked_keeps (.ofEq rfl rfl rfl rfl rfl)) h⟩

end Sys2Proof.Machine

open Sys2Proof Sys2Proof.Machine

/-- Settles O8: a change to a channel or a record lifts the channel out of the laws and sets it down again; what else a
step does keeps what the laws read. -/
theorem stepsKeepProfileBindings : Obligations.StepsKeepProfileBindings := by
  intro s t hcalls hprofiles hlocks hbindings ht
  have h := (allBindings_iff s).2 hbindings
  refine (allBindings_iff t).1 ?_
  unfold step at ht
  split at ht
  · cases ht
    exact h
  · next i rest _ =>
    obtain ⟨u, hu, hall⟩ := exec_bindings i (s := { s with pending := rest }) (h.keep (.ofEq rfl rfl rfl rfl rfl))
      ⟨hprofiles.2.2, hlocks.objects⟩ { hcalls with } { hlocks with }
    rw [hu] at ht
    cases ht
    exact hall
end

section
/-! What every step keeps of the memories' canonical form (R100), the bounds of the lists (R111, R166, R180), the fit of
received records (R158), the tags of the deferred table (R170) and the trigger settings (R182): the blocks these laws
read, and the operations that change one of them. -/

namespace Sys2Proof.Machine

variable {s t u : State}

/-! ### The laws that are kept -/

/-- The step from s to t keeps the form of both memories, the bounds of the lists, the fit of the records, distinct tags
and trigger settings in range, each of them by itself. -/
structure KeepsForm (s t : State) : Prop where
  memory : MemoryOk s.sal → MemoryOk t.sal
  lists : ListsBounded s → ListsBounded t
  records : RecordsOk s → RecordsOk t
  tags : TagsDistinct s → TagsDistinct t
  triggers : TriggersInRange s → TriggersInRange t

theorem KeepsForm.trans (h : KeepsForm s t) (h' : KeepsForm t u) : KeepsForm s u :=
  ⟨h'.memory ∘ h.memory, h'.lists ∘ h.lists, h'.records ∘ h.records, h'.tags ∘ h.tags, h'.triggers ∘ h.triggers⟩

/-- A trigger level and a hold time lie in their ranges (R182). -/
def SettingsInRange (level hold : Nat) : Prop := level ∈ [1, 4, 8, 16] ∧ 1 ≤ hold ∧ hold ≤ 255

theorem triggersInRange_iff (s : State) : TriggersInRange s ↔
    SettingsInRange s.btl.part0.evLevel s.btl.part0.evHold ∧
      ∀ k : Ctl, SettingsInRange s.fifos[k].level s.fifos[k].hold := by
  simp only [TriggersInRange, SettingsInRange, and_assoc]

theorem TriggersInRange.defaults (h : TriggersInRange s) :
    SettingsInRange s.btl.part0.evLevel s.btl.part0.evHold := ((triggersInRange_iff s).1 h).1

theorem TriggersInRange.fifo (h : TriggersInRange s) (k : Ctl) :
    SettingsInRange s.fifos[k].level s.fifos[k].hold := ((triggersInRange_iff s).1 h).2 k

/-! ### One block changes -/

/-- Only the stores have changed, beside what the laws do not read. -/
theorem KeepsForm.ofSal (hm : MemoryOk s.sal → MemoryOk t.sal) (hw : t.sal.waitQ.length ≤ s.sal.waitQ.length)
    (hc : t.cbi = s.cbi) (hf : t.fifos = s.fifos) (hb : t.btl.part0 = s.btl.part0) : KeepsForm s t where
  memory := hm
  lists h := by
    obtain ⟨hplaces, hwaits, hfifos⟩ := h
    refine ⟨?_, hw.trans hwaits, by rwa [hf]⟩
    rw [placesTaken, hc]
    exact hplaces
  records h := by
    rw [RecordsOk, hc]
    exact h
  tags h := by
    rw [TagsDistinct, hc]
    exact h
  triggers h := by
    rw [TriggersInRange, hf, hb]
    exact h

theorem KeepsForm.ofEq (hs : t.sal = s.sal) (hc : t.cbi = s.cbi) (hf : t.fifos = s.fifos)
    (hb : t.btl.part0 = s.btl.part0) : KeepsForm s t :=
  .ofSal (by rw [hs]; exact id) (by rw [hs]) hc hf hb

theorem KeepsForm.refl (s : State) : KeepsForm s s := .ofEq rfl rfl rfl rfl

/-- What R158 says of an accepted record is said of these three parts. -/
def Request.received (rq : Request) : Bool × Nat × List Word := (rq.parityBad, rq.length, rq.words)

/-- What tells the entries of the deferred table apart (R170). -/
def tagsOf (b : Cbi) : List (Ctl × Tag) := b.deferred.map fun e => (e.ctl, e.tag)

/-- The bus block has changed: places were given up, a grant may have ended, and no tag is new. -/
theorem KeepsForm.setCbi {b : Cbi}
    (hq : (b.queue.map Request.received).Sublist (s.cbi.queue.map Request.received))
    (hg : b.grant = s.cbi.grant ∨ b.grant = none) (ht : (tagsOf b).Sublist (tagsOf s.cbi)) :
    KeepsForm s (s.setCbi b) where
  memory := id
  lists h := by
    obtain ⟨hplaces, hrest⟩ := h
    have hlength : b.queue.length ≤ s.cbi.queue.length := by simpa using hq.length_le
    have hgrant : (if b.grant.isSome then 1 else 0) ≤ if s.cbi.grant.isSome then 1 else 0 := by
      rcases hg with hg | hg
      · rw [hg]
      · rw [hg]
        exact Nat.zero_le _
    exact ⟨(Nat.add_le_add hlength hgrant).trans hplaces, hrest⟩
  records h := by
    obtain ⟨haccepted, hreceiving⟩ := h
    refine ⟨fun rq hrq hp hl => ?_, fun g header len rest hb => ?_⟩
    · obtain ⟨rq', hrq', he⟩ := List.mem_map.1 (hq.subset (List.mem_map_of_mem hrq))
      obtain ⟨hp', hl', hw'⟩ : rq'.parityBad = rq.parityBad ∧ rq'.length = rq.length ∧ rq'.words = rq.words := by
        simpa [Request.received] using he
      rw [← hw', ← hl']
      exact haccepted rq' hrq' (hp'.trans hp) (hl' ▸ hl)
    · rcases hg with hg | hg
      · exact hreceiving g header len rest (hg ▸ hb)
      · exact absurd (hg.symm.trans hb) nofun
  tags h := h.sublist ht
  triggers := id

/-- One controller's event state has changed. -/
theorem KeepsForm.setFifo {k : Ctl} {f : Fifo} (hlength : s.fifos[k].entries.length ≤ 32 → f.entries.length ≤ 32)
    (hsettings : TriggersInRange s → SettingsInRange f.level f.hold) : KeepsForm s (s.setFifo k f) where
  memory := id
  lists h := by
    obtain ⟨hplaces, hwaits, hfifos⟩ := h
    refine ⟨hplaces, hwaits, fun j => ?_⟩
    rw [State.setFifo_fifos, getElem_set_fin]
    split
    · exact hlength (hfifos k)
    · exact hfifos j
  records := id
  tags := id
  triggers h := by
    refine (triggersInRange_iff _).2 ⟨h.defaults, fun j => ?_⟩
    rw [State.setFifo_fifos, getElem_set_fin]
    split
    · exact hsettings h
    · exact h.fifo j

/-- Part 0 of the site defaults has changed (R188). -/
theorem KeepsForm.setPart0 {b : Btl} (h : SettingsInRange b.part0.evLevel b.part0.evHold) :
    KeepsForm s (s.setBtl b) where
  memory := id
  lists := id
  records := id
  tags := id
  triggers hs := (triggersInRange_iff _).2 ⟨h, hs.fifo⟩

theorem foldl_form {α : Type} {f : State → α → State} (hf : ∀ u a, KeepsForm u (f u a)) (l : List α) (s : State) :
    KeepsForm s (l.foldl f s) :=
  List.foldlRecOn l f (.refl s) fun u hu a _ => hu.trans (hf u a)

/-! ### Channels, records, locks, jobs and HWI, which the laws do not read -/

theorem setChan_form (c : Chan) (x : Context) (h : KeepsForm s t) : KeepsForm s (t.setChan c x) :=
  h.trans (.ofEq rfl rfl rfl rfl)

theorem modChan_form (c : Chan) (f : Context → Context) (h : KeepsForm s t) : KeepsForm s (t.modChan c f) :=
  setChan_form c _ h

theorem setSal_form {m : Sal} (hm : MemoryOk t.sal → MemoryOk m) (hw : m.waitQ.length ≤ t.sal.waitQ.length)
    (h : KeepsForm s t) : KeepsForm s (t.setSal m) := h.trans (.ofSal hm hw rfl rfl rfl)

/-! ### Events (R179–R182) -/

theorem postTo_form (k : Ctl) (e : EventKind) (ch : Option Chan) (d : Nat) (h : KeepsForm s t) :
    KeepsForm s (postTo k e ch d t) := by
  refine h.trans ?_
  unfold postTo
  split
  · dsimp only
    refine KeepsForm.trans (.setFifo ?_ ?_) (.setFifo id fun hrange => hrange.fifo k)
    · intro hfit
      split
      · next hroom =>
        rw [List.length_append]
        exact hroom
      · exact hfit
    · intro hrange
      split
      · exact hrange.fifo k
      · exact hrange.fifo k
  · exact .refl t

theorem postAll_form (e : EventKind) (ch : Option Chan) (d : Nat) (h : KeepsForm s t) :
    KeepsForm s (postAll e ch d t) :=
  h.trans (foldl_form (fun u k => postTo_form k e ch d (.refl u)) _ t)

theorem postOwner_form (c : Chan) (e : EventKind) (d : Nat) (h : KeepsForm s t) :
    KeepsForm s (postOwner c e d t) := by
  unfold postOwner
  split
  · exact h
  · exact postTo_form _ _ _ _ h

/-! ### The deferred table (R170, R171) -/

/-- An entry that changes in place keeps its controller and tag. -/
theorem tagsOf_map {b : Cbi} {f : Deferred → Deferred} (hf : ∀ e, ((f e).ctl, (f e).tag) = (e.ctl, e.tag)) :
    tagsOf { b with deferred := b.deferred.map f } = tagsOf b := by
  simp only [tagsOf, List.map_map, Function.comp_def, hf]

theorem postOutcome_form (k : Ctl) (g : Tag) (o : Result) (ws : List Word) (h : KeepsForm s t) :
    KeepsForm s (postOutcome k g o ws t) := by
  refine h.trans (.setCbi (.refl _) (.inl rfl) ?_)
  have hkept := tagsOf_map (b := t.cbi)
    (f := fun e => if e.is k g then { e with outcome := some (o, ws), ready := e.announced } else e)
    fun e => by split <;> rfl
  exact hkept ▸ .refl _

theorem postLink_form (c : Chan) (l : Option Tag) (o : Result) (ws : List Word) (h : KeepsForm s t) :
    KeepsForm s (postLink c l o ws t) := by
  unfold postLink
  split
  · exact postOutcome_form _ _ _ _ h
  · exact h

/-- A tag that is not outstanding stands once in the table after its entry is made (R170). -/
theorem makeDeferred_form {rq : Request} (hfree : tagOutstanding s rq.ctl rq.tag = false) :
    KeepsForm s (makeDeferred rq s) where
  memory := id
  lists := id
  records := id
  tags h := by
    have hnew : (rq.ctl, rq.tag) ∉ tagsOf s.cbi := by
      intro hin
      obtain ⟨e, he, htag⟩ := List.mem_map.1 hin
      obtain ⟨hctl, htag⟩ := Prod.mk.inj htag
      have hnot := List.any_eq_false.1 hfree e he
      simp [Deferred.is, hctl, htag] at hnot
    have happend : tagsOf (makeDeferred rq s).cbi = tagsOf s.cbi ++ [(rq.ctl, rq.tag)] := by
      simp [tagsOf, makeDeferred]
    show (tagsOf (makeDeferred rq s).cbi).Nodup
    rw [happend]
    exact List.Nodup.append h (List.nodup_singleton _) (by simpa using hnew)
  triggers := id

/-! ### Completions -/

theorem completeTraining_form (c : Chan) (o : Result) (h : KeepsForm s t) :
    KeepsForm s (completeTraining c o t) := by
  unfold completeTraining
  split
  · exact modChan_form _ _ (postLink_form _ _ _ _ h)
  · exact h

theorem completeBind_form (c : Chan) (o : Result) (h : KeepsForm s t) : KeepsForm s (completeBind c o t) :=
  modChan_form _ _ (postLink_form _ _ _ _ h)

theorem completeRelease_form (c : Chan) (o : Result) (n : Nat) (key : Option Key) (h : KeepsForm s t) :
    KeepsForm s (completeRelease c o n key t) := modChan_form _ _ (postLink_form _ _ _ _ h)

/-! ### Grants, re-checks and entry to FREE (R82, R113, R117) -/

theorem grant_form (c : Chan) (n p : Nat) (h : KeepsForm s t) : KeepsForm s (grant c n p t) := by
  have hunits : KeepsForm s (unitsGranted c n p t) := by
    refine h.trans (.ofSal (fun hm => ?_) ?_ rfl rfl rfl)
    · exact unitInit_ok _ _ (credit_ok _ _ _ _ (allocate_ok _ _ _ hm))
    · simp [unitsGranted, grantSal]
  rw [grant_eq, enterGranted]
  split
  · exact hunits.trans (.ofEq rfl rfl rfl rfl)
  · exact completeBind_form _ _ (modChan_form _ _ hunits)

theorem recheckFrom_form (n : Nat) (h : KeepsForm s t) : KeepsForm s (recheckFrom n t) := by
  induction n generalizing t with
  | zero => exact h
  | succ n ih =>
    unfold recheckFrom
    split
    · exact h
    · next hq =>
      split
      · exact ih (grant_form _ _ _ (setSal_form id (by simp [hq]) h))
      · exact h

theorem recheck_form (h : KeepsForm s t) : KeepsForm s (recheck t) := recheckFrom_form _ h

theorem removeWait_form (c : Chan) (h : KeepsForm s t) : KeepsForm s (removeWait c t) :=
  setSal_form id (List.length_filter_le _ _) h

theorem enterFree_form (c : Chan) (h : KeepsForm s t) : KeepsForm s (enterFree c t) := by
  refine h.trans (.ofSal (fun hm => ?_) ?_ (by simp) (by simp) (by simp))
  · rw [enterFree_sal]
    exact debit_ok _ _ _ _ hm
  · rw [enterFree_sal]
    simp [returnUnits]

/-! ### Faults and corrections (R31, R95, R105) -/

theorem enterFault_form (c : Chan) (a : Nat) (h : KeepsForm s t) : KeepsForm s (enterFault c a t) := by
  have hfault : KeepsForm s ((completeTraining c .faulted t).modChan c fun x => { x with state := .fault }) :=
    modChan_form _ _ (completeTraining_form _ _ h)
  unfold enterFault
  refine postOwner_form _ _ _ ?_
  split
  · exact completeBind_form _ _ (hfault.trans (.ofEq rfl rfl rfl rfl))
  · exact hfault

/-- Corrections are written back where they were read, inside the store (R105). -/
theorem applyCorrections_form (c : Chan) {rd : List TapRead} (ha : ∀ r ∈ rd, r.addr < 8192) (h : KeepsForm s t) :
    KeepsForm s (applyCorrections c rd t) := by
  unfold applyCorrections
  split
  · exact h
  · have hback : KeepsForm s ((t.setSal (writeBack rd t.sal)).modChan c fun x =>
        { x with eccCount := min 255 (x.eccCount + correctedCount rd), firstCorr := true }) := by
      refine modChan_form _ _ (setSal_form (writeBack_ok rd _ ha) ?_ h)
      rw [writeBack_eq]
    dsimp only
    split
    · exact hback
    · exact postOwner_form _ _ _ hback

/-! ### Locks (R147–R155) -/

theorem unholdChan_form (l : Lock) (h : KeepsForm s t) : KeepsForm s (unholdChan l t) :=
  h.trans (.ofEq (by simp) (by simp) (by simp) (by simp))

theorem dropFill_form (l : Lock) (h : KeepsForm s t) : KeepsForm s (dropFill l t) :=
  h.trans (.ofEq (by simp) (by simp) (by simp) (by simp))

theorem emptyRecord_form (r : Rec) (h : KeepsForm s t) : KeepsForm s (emptyRecord r t) :=
  h.trans (.ofEq (by simp) (by simp) (by simp) (by simp))

theorem endLock_form (k : Ctl) (h : KeepsForm s t) : KeepsForm s (endLock k t) :=
  h.trans (.ofEq (by simp) (by simp) (by simp) (by simp))

theorem expireLock_form (k : Ctl) (h : KeepsForm s t) : KeepsForm s (expireLock k t) := by
  unfold expireLock
  split
  · exact h
  · exact (postTo_form k _ _ _ (dropFill_form _ (unholdChan_form _ h))).trans (.ofEq rfl rfl rfl rfl)

theorem markerEffect_form (rq : Request) (o : LockObj) (p : Purpose) (held : Option Chan) (h : KeepsForm s t) :
    KeepsForm s (markerEffect rq o p held t) := h.trans (.ofEq (by simp) (by simp) (by simp) (by simp))

end Sys2Proof.Machine
end

section
/-! The form of the memories, lists, records, tags and triggers through channel services, highways, transfers, expiries,
the lanes and start-up (R3–R6, R14–R18, R115, R132–R134, R157–R159, R171, R178, R193, R194). -/

namespace Sys2Proof.Machine

variable {s t : State}

/-! ### The channel service (R14, R18, R32, R58) -/

theorem writeHistory_form (c : Chan) (r : Int) (h : KeepsForm s t) : KeepsForm s (writeHistory c r t) := by
  refine h.trans (.ofSal (writeHistory_ok c r) ?_ ?_ ?_ ?_) <;> rw [writeHistory_eq]

theorem echoStage_form (c : Chan) (e : Int) (taps samples : List Int) (h : KeepsForm s t) :
    KeepsForm s (echoStage c e taps samples t) := by
  refine h.trans (.ofSal (echoStage_ok c e taps samples) ?_ ?_ ?_ ?_) <;> rw [echoStage_eq]

theorem equalizerStage_form (c : Chan) (e : Int) (d : Option Int) (taps : List Int) (h : KeepsForm s t) :
    KeepsForm s (equalizerStage c e d taps t).1 := by
  have haligned (z : Int) : KeepsForm s (t.modChan c (alignDesired d z)) := modChan_form _ _ h
  unfold equalizerStage
  dsimp only
  split
  · split
    · exact setSal_form (writeSegment_ok _ _ _) (by simp) (haligned _)
    · exact haligned _
  · exact haligned _

theorem finishTraining_form (c : Chan) (o : Result) (h : KeepsForm s t) : KeepsForm s (finishTraining c o t) := by
  unfold finishTraining
  refine modChan_form _ _ (completeTraining_form _ _ ?_)
  split
  · exact modChan_form _ _ h
  · exact h

theorem degradeStage_form (c : Chan) (taken : ChanState) (h : KeepsForm s t) :
    KeepsForm s (degradeStage c taken t) := by
  unfold degradeStage
  split
  · dsimp only
    split
    · exact postOwner_form _ _ _ (setChan_form _ _ h)
    · exact setChan_form _ _ h
  · exact h

theorem quietStage_form (c : Chan) (h : KeepsForm s t) : KeepsForm s (quietStage c t) := by
  unfold quietStage
  dsimp only
  split
  · exact postOwner_form _ _ _ (setChan_form _ _ h)
  · exact setChan_form _ _ h

/-- Stage 7 posts a completion and events; its other effects stand on the channel (R61–R70). -/
theorem stageSeven_form (c : Chan) (taken : ChanState) (b : Bool) (h : KeepsForm s t) :
    KeepsForm s (stageSeven c taken b t) := by
  have hcounted := modChan_form c (fun x => countTraining t.btl.part1 x.par b x) h
  unfold stageSeven
  refine quietStage_form _ (degradeStage_form _ _ ?_)
  split
  · exact hcounted
  · exact finishTraining_form _ _ hcounted

theorem conditionedService_form (c : Chan) (wt : Nat) (y r : Int) (d : Option Int) (taps : List Int)
    (h : KeepsForm s t) : KeepsForm s (conditionedService c wt y r d taps t).1 :=
  stageSeven_form _ _ _ (equalizerStage_form _ _ _ _ (echoStage_form _ _ _ _ (modChan_form _ _ h)))

theorem fullService_form (c : Chan) (y r : Int) (d : Option Int) (h : KeepsForm s t) :
    KeepsForm s (fullService c y r d t).1 := by
  have hread (rd : List TapRead) (ha : ∀ w ∈ rd, w.addr < 8192) :
      KeepsForm s (applyCorrections c rd (writeHistory c r t)) := applyCorrections_form c ha (writeHistory_form c r h)
  unfold fullService
  dsimp only
  split
  · dsimp only
    exact enterFault_form _ _ (modChan_form _ _ (hread _ (readSegments_addr _ _)))
  · exact conditionedService_form _ _ _ _ _ _ (hread _ (readSegments_addr _ _))

theorem serviceByState_form {c : Chan} {y r : Int} {d : Option Int} {v w : Int} {u : State}
    (hu : serviceByState c y r d t = some (u, v, w)) (h : KeepsForm s t) : KeepsForm s u := by
  cases hc : t.chans[c].state with
  | free | releasing => simp [serviceByState, hc, -Fin.getElem_fin] at hu
  | pending | loading =>
    rw [serviceByState_waiting (by simp [hc, -Fin.getElem_fin])] at hu
    cases hu
    exact h
  | fault =>
    rw [serviceByState_fault hc] at hu
    cases hu
    exact modChan_form _ _ h
  | bound | echoTrain | eqTrain | tracking =>
    rw [serviceByState_conditioned (by simp [Conditioned, hc, -Fin.getElem_fin])] at hu
    obtain rfl : (fullService c y r d t).1 = u := congrArg Prod.fst (Option.some.inj hu)
    exact fullService_form c y r d h

theorem setHwi_form (b : Hwi) (h : KeepsForm s t) : KeepsForm s (t.setHwi b) := h.trans (.ofEq rfl rfl rfl rfl)

theorem raiseService_form (c : Chan) (h : KeepsForm s t) : KeepsForm s (raiseService c t) := by
  unfold raiseService
  split
  · dsimp only
    split
    · exact setHwi_form _ h
    · next hu => exact setHwi_form _ (serviceByState_form hu (setHwi_form _ h))
  · exact h

theorem lineCode_form (n : Slot) (code : Byte) (s : State) : KeepsForm s (lineCode n code s) := by
  unfold lineCode
  split
  · exact .refl s
  · split
    · exact raiseService_form _ (setHwi_form _ (.refl s))
    · exact .refl s

theorem modemPair_form (c : Chan) (x d : Word) (s : State) : KeepsForm s (modemPair c x d s) := by
  unfold modemPair
  split
  · exact raiseService_form _ (setHwi_form _ (.refl s))
  · exact .refl s

/-! ### Highways (R3–R6, R15) -/

theorem setSync_form (g : Highway) (r : SyncRec) (h : KeepsForm s t) : KeepsForm s (setSync g r t) := by
  cases g <;> exact setHwi_form _ h

theorem loseSync_form (g : Highway) (cause : Nat) (h : KeepsForm s t) : KeepsForm s (loseSync g cause t) := by
  rw [loseSync_posts]
  exact postAll_form _ _ _ (setHwi_form _ h)

theorem searchPulse_form (g : Highway) (n : Nat) (h : KeepsForm s t) : KeepsForm s (searchPulse g n t) := by
  unfold searchPulse
  dsimp only
  split
  · exact setSync_form _ _ h
  · split
    · split
      · rw [regainSync_posts]
        exact postAll_form _ _ _ (setHwi_form _ (setSync_form _ _ h))
      · exact setSync_form _ _ h
    · exact setSync_form _ _ h

theorem framePulse_form (g : Highway) (n : Nat) (s : State) : KeepsForm s (framePulse g n s) := by
  have hseen := setSync_form g { syncOf g s with watch := s.btl.timebase } (.refl s)
  unfold framePulse
  dsimp only
  split
  · split
    · exact loseSync_form _ _ hseen
    · split
      · refine hseen.trans ?_
        cases g <;> exact .ofEq rfl rfl rfl rfl
      · exact searchPulse_form _ _ (loseSync_form _ _ hseen)
  · exact searchPulse_form _ _ hseen

theorem lineSend_form (n : Slot) (s : State) : KeepsForm s (lineSend n s) := by
  unfold lineSend
  dsimp only
  split <;> exact setHwi_form _ (.refl s)

/-! ### Transfers and expiries (R115, R132–R134) -/

theorem setHead_form (j : Option Job) (h : KeepsForm s t) : KeepsForm s (setHead j t) :=
  h.trans (.ofEq rfl rfl rfl rfl)

theorem moveLoad_form (j : Job) (h : KeepsForm s t) : KeepsForm s (moveLoad j t) := by
  have hmoved : KeepsForm s (match j.segment t.chans[j.chan] with
      | none => t
      | some g => t.setSal (writeSegment g (chunkOf j.key j.chunk t) t.sal)) := by
    split
    · exact h
    · exact setSal_form (writeSegment_ok _ _ _) (by simp) h
  unfold moveLoad
  dsimp only
  split
  · exact completeBind_form _ _ (modChan_form _ _ (setHead_form _ hmoved))
  · exact setHead_form _ hmoved

theorem stopSave_form (j : Job) (h : KeepsForm s t) : KeepsForm s (stopSave j t) := by
  have hcompleted := completeRelease_form j.chan .notSaved SaveReason.fault.code (some j.key) (setHead_form none h)
  unfold stopSave
  dsimp only
  refine recheck_form (enterFree_form _ ?_)
  split
  · exact hcompleted
  · exact emptyRecord_form _ hcompleted

theorem endSave_form (j : Job) (r : Rec) (h : KeepsForm s t) : KeepsForm s (endSave j r t) :=
  recheck_form (enterFree_form _ (completeRelease_form _ _ _ _ (h.trans (.ofEq rfl rfl rfl rfl))))

theorem moveSave_form (j : Job) (h : KeepsForm s t) : KeepsForm s (moveSave j t) := by
  unfold moveSave
  split
  · next g _ _ _ =>
    have hread := applyCorrections_form j.chan (readSegment_addr t.sal g) h
    have hrec (r : Rec) (q : Profile) : KeepsForm s
        ((applyCorrections j.chan (readSegment t.sal g) t).setRec r q) := hread.trans (.ofEq rfl rfl rfl rfl)
    dsimp only
    split
    · exact stopSave_form _ hread
    · split
      · exact endSave_form _ _ (hrec _ _)
      · exact setHead_form _ (hrec _ _)
  · exact h

theorem lineFrameStart_form (s : State) : KeepsForm s (lineFrameStart s) := by
  have hdue := setHwi_form { s.hwi with frameDue := false } (.refl s)
  unfold lineFrameStart
  split
  · dsimp only
    split
    · exact hdue
    · split
      · split
        · exact moveLoad_form _ hdue
        · exact moveSave_form _ hdue
      · exact hdue
  · exact .refl s

theorem waitDeadline_form (s : State) : KeepsForm s (waitDeadline s) := by
  unfold waitDeadline
  split
  · exact .refl s
  · exact recheck_form (foldl_form (fun u e =>
      enterFree_form _ (completeBind_form _ _ (removeWait_form _ (.refl u)))) _ s)

/-! ### The request lane (R157–R159) -/

theorem laneGrant_form (raised : BitVec 4) (s : State) : KeepsForm s (laneGrant raised s) := by
  unfold laneGrant
  split
  · next hfree =>
    split
    · exact .refl s
    · next k _ =>
      obtain ⟨⟨hnone, hplace⟩, -⟩ : (s.cbi.grant = none ∧ placesTaken s < 8) ∧ s.cbi.resetPending = false := by
        simpa using hfree
      have hqueue : s.cbi.queue.length < 8 := by
        simpa [placesTaken, hnone] using hplace
      exact {
        memory := id
        lists := fun h => ⟨hqueue, h.2⟩
        records := fun h => ⟨h.1, by rintro g header len rest ⟨⟩ ⟨⟩⟩
        tags := id
        triggers := id }
  · exact .refl s

/-- The record in reception still lacks words of its length word (R158). -/
def InReception (words : List Word) : Prop :=
  ∀ header len rest, words = header :: len :: rest → len.toNat ≤ 42 ∧ rest.length < len.toNat

/-- Behind its length word a record ends with its last word (R158). -/
theorem recordEnds_data {rest : List Word} (h : rest ≠ []) (header len : Word) (bad : Bool) :
    recordEnds (header :: len :: rest) bad = decide (len.toNat ≤ rest.length) := by
  cases rest with
  | nil => exact absurd rfl h
  | cons _ _ => rfl

/-- A word that does not end its record leaves it in reception (R158). -/
theorem inReception_snoc {words : List Word} {data : Word} {bad : Bool} (h : InReception words)
    (hends : recordEnds (words ++ [data]) bad = false) : InReception (words ++ [data]) := by
  match words, h, hends with
  | [], _, _ => exact fun _ _ _ he => nomatch he
  | [_], _, hends =>
    rintro header len rest ⟨⟩
    simp only [List.cons_append, List.nil_append, recordEnds, Bool.or_eq_false_iff, decide_eq_false_iff_not] at hends
    exact ⟨Nat.not_lt.1 hends.1.2, Nat.pos_of_ne_zero hends.2⟩
  | header :: len :: rest, h, hends =>
    rintro _ _ _ ⟨⟩
    have hlacks : ¬ len.toNat ≤ (rest ++ [data]).length := by
      simpa only [List.cons_append, recordEnds_data (List.append_ne_nil_of_right_ne_nil rest (List.cons_ne_nil _ _)),
        decide_eq_false_iff_not] using hends
    exact ⟨(h header len rest rfl).1, Nat.lt_of_not_le hlacks⟩

/-- A sound word that ends its record completes it, unless the length word cut it off (R158). -/
theorem received_fits {words : List Word} {data : Word} (h : InReception words)
    (hends : recordEnds (words ++ [data]) false = true) (hlen : ((words ++ [data]).getD 1 0).toNat ≤ 42) :
    ((words ++ [data]).drop 2).length = ((words ++ [data]).getD 1 0).toNat := by
  match words, h, hends, hlen with
  | [], _, hends, _ => exact nomatch hends
  | [_], _, hends, hlen =>
    have hcut : 42 < data.toNat ∨ data.toNat = 0 := by simpa [recordEnds] using hends
    exact (hcut.resolve_left (Nat.not_lt.2 hlen)).symm
  | header :: len :: rest, h, hends, _ =>
    have hall : len.toNat ≤ (rest ++ [data]).length := by
      simpa only [List.cons_append, recordEnds_data (List.append_ne_nil_of_right_ne_nil rest (List.cons_ne_nil _ _)),
        decide_eq_true_iff] using hends
    have hlacked := (h header len rest rfl).2
    show (rest ++ [data]).length = len.toNat
    rw [List.length_append] at hall ⊢
    exact Nat.le_antisymm hlacked hall

/-- A grant's record takes a word, or leaves its grant for a place of the queue (R157, R158). -/
theorem receiveWord_form (data : Word) (parity : Bool) (s : State) : KeepsForm s (receiveWord data parity s) := by
  unfold receiveWord
  split
  · exact .refl s
  · next g hg =>
    have hplaces : placesTaken s = s.cbi.queue.length + 1 := by simp [placesTaken, hg]
    have hqueued (rq : Request) : (s.cbi.queue ++ [rq]).length = placesTaken s := by
      rw [hplaces, List.length_append, List.length_singleton]
    have hreceiving (h : RecordsOk s) : InReception g.words := fun header len rest => h.2 g header len rest hg
    dsimp only
    split
    · next hends =>
      exact {
        memory := id
        lists := fun h => ⟨(hqueued _).le.trans h.1, h.2⟩
        records := fun h => by
          refine ⟨fun rq hrq hp hl => ?_, fun _ _ _ _ he => nomatch he⟩
          rcases List.mem_append.1 hrq with hrq | hrq
          · exact h.1 rq hrq hp hl
          · obtain rfl := List.mem_singleton.1 hrq
            have hsound : (!parityGood data parity) = false := (Bool.or_eq_false_iff.1 hp).2
            rw [hsound] at hends
            exact received_fits (hreceiving h) hends hl
        tags := id
        triggers := id }
    · next hends =>
      exact {
        memory := id
        lists := fun h => ⟨hplaces.ge.trans h.1, h.2⟩
        records := fun h => by
          refine ⟨h.1, ?_⟩
          rintro _ header len rest ⟨⟩
          exact inReception_snoc (hreceiving h) (Bool.eq_false_of_not_eq_true hends) header len rest
        tags := id
        triggers := id }

/-! ### The reply lane and resets (R171, R178, R194) -/

/-- A step that leaves every list empty and the built-in defaults, with the words of the memories as they were. -/
theorem resets_form (hs : t.sal = { initialSal with taps := s.sal.taps, hist := s.sal.hist })
    (hq : t.cbi.queue = []) (hg : t.cbi.grant = none) (hd : t.cbi.deferred = [])
    (hf : t.fifos = State.reset.fifos) (hb : t.btl.part0 = builtInZero) : KeepsForm s t where
  memory h := by
    rw [hs]
    exact h
  lists _ := by
    obtain ⟨-, hwaits, hfifos⟩ := reset_lists
    refine ⟨?_, ?_, ?_⟩
    · rw [placesTaken, hq, hg]
      decide
    · rw [hs]
      exact hwaits
    · rwa [hf]
  records _ := by
    refine ⟨?_, ?_⟩
    · rw [hq]
      exact fun _ h => nomatch h
    · rw [hg]
      exact fun _ _ _ _ h => nomatch h
  tags _ := by
    rw [TagsDistinct, hd]
    exact List.nodup_nil
  triggers _ := by
    rw [TriggersInRange, hf, hb]
    exact reset_triggers

theorem powerOn_form (s : State) : KeepsForm s (powerOn s) := resets_form rfl rfl rfl rfl rfl rfl

theorem partReset_form (h : KeepsForm s t) : KeepsForm s (partReset t) :=
  h.trans (resets_form rfl rfl rfl rfl rfl rfl)

/-- An announcement keeps the entries' tags (R171). -/
theorem tagsOf_announce (rq : Request) (b : Cbi) : tagsOf (announce rq b) = tagsOf b := by
  unfold announce
  split
  · exact tagsOf_map fun e => by split <;> rfl
  · rfl

theorem announce_queue (rq : Request) (b : Cbi) :
    (announce rq b).queue = b.queue ∧ (announce rq b).grant = b.grant := by
  unfold announce
  split <;> exact ⟨rfl, rfl⟩

theorem sendHead_form (rq : Request) (a : Answer) (s : State) : KeepsForm s (sendHead rq a s) := by
  have hsent : KeepsForm s (s.setCbi { announce rq s.cbi with
      lane := onLane (responseRecord rq a), queue := (announce rq s.cbi).queue.tail, preference := .completion }) := by
    obtain ⟨hqueue, hgrant⟩ := announce_queue rq s.cbi
    refine .setCbi ?_ (.inl hgrant) ?_
    · rw [hqueue]
      exact (List.tail_sublist _).map _
    · rw [← tagsOf_announce rq s.cbi]
      exact .refl _
  unfold sendHead
  dsimp only
  split
  · exact partReset_form hsent
  · exact hsent

theorem sendResponse_form (s : State) : KeepsForm s (sendResponse s) := by
  unfold sendResponse
  split
  · exact .refl s
  · split
    · exact sendHead_form _ _ s
    · exact .refl s

theorem sendCompletion_form (s : State) : KeepsForm s (sendCompletion s) := by
  unfold sendCompletion
  split
  · exact .refl s
  · split
    · split
      · exact .refl s
      · exact .setCbi (.refl _) (.inl rfl) (List.filter_sublist.map _)
    · exact .refl s

/-! ### Start-up (R189, R193) -/

theorem roundLevel_mem (n : Nat) : roundLevel n ∈ [1, 4, 8, 16] := by
  unfold roundLevel
  repeat' split
  all_goals simp

/-- The trigger settings of installed defaults: the level rounded, the hold time checked and raised to 1 (R189). -/
theorem zeroOf_triggers {ws : List Word} (h : zeroInRange ws = true) :
    SettingsInRange (zeroOf ws).evLevel (zeroOf ws).evHold := by
  have hhold : partNum ws 14 ≤ 255 := of_decide_eq_true (Bool.and_elim_right h)
  exact ⟨roundLevel_mem _, Nat.le_max_left _ _, Nat.max_le.2 ⟨by decide, hhold⟩⟩

/-- A valid image's part 0 has passed the range check (R193). -/
theorem imageStatus_zeroInRange {b : List Byte} (h : imageStatus b = .valid) : zeroInRange (imageZero b) = true := by
  unfold imageStatus at h
  split at h
  · cases h
  · split at h
    · cases h
    · split at h
      · cases h
      · split at h
        · next hchecks => exact (Bool.and_eq_true_iff.1 (Bool.and_eq_true_iff.1 hchecks).1).1
        · cases h

theorem bootLoadEnd_form (nack : Option (Fin 4)) (image : List Byte) (s : State) :
    KeepsForm s (bootLoadEnd nack image s) := by
  have hended (st : BootStatus) (ops : List PortOp) : KeepsForm s (endLoad st ops s) := .ofEq rfl rfl rfl rfl
  unfold bootLoadEnd
  split
  · split
    · exact hended _ _
    · split
      · exact .refl s
      · dsimp only
        split
        · next hvalid =>
          have hinstalled : KeepsForm s ((endLoad (imageStatus image) (portRead (image.take (bytesNeeded image))) s).setBtl
              { (endLoad (imageStatus image) (portRead (image.take (bytesNeeded image))) s).btl with
                part0 := zeroOf (imageZero image), part1 := oneOf (imageOne image) }) :=
            (hended _ _).trans (.setPart0 (zeroOf_triggers (imageStatus_zeroInRange hvalid)))
          exact hinstalled.trans (.ofEq rfl rfl rfl rfl)
        · exact hended _ _
  · exact .refl s

end Sys2Proof.Machine
end

section
/-! Every command keeps the form of the memories, the bounds of the lists, the fit of the records, distinct tags and the
trigger ranges (R100, R111, R158, R166, R170, R180, R182). -/

namespace Sys2Proof.Machine

variable {s t : State} {rq : Request}

/-! ### The response stage (R166, R167) -/

/-- A decision keeps what was received of each request. -/
theorem decideFirst_received (a : Answer) (q : List Request) :
    (decideFirst a q).map Request.received = q.map Request.received := by
  induction q with
  | nil => rfl
  | cons r q ih =>
    unfold decideFirst
    split
    · rfl
    · rw [List.map_cons, ih, List.map_cons]

theorem answerFirst_form (a : Answer) (h : KeepsForm s t) : KeepsForm s (answerFirst a t) :=
  h.trans (.setCbi (decideFirst_received a t.cbi.queue ▸ .refl _) (.inl rfl) (.refl _))

/-- A request that reaches its block has a tag that is not outstanding (R167 check 6). -/
theorem busChecks_tagFree (h : busChecks rq s = none) : tagOutstanding s rq.ctl rq.tag = false :=
  firstFail_pass h (a := refused .tagInUse) (by simp)

/-- A request command keeps the form where its block does, which sees a tag that is not outstanding. -/
theorem takeRequest_form {mine : Request → Bool} {own : Request → State → State × Answer} {s : State}
    (hown : ∀ rq, tagOutstanding s rq.ctl rq.tag = false → KeepsForm s (own rq s).1) :
    KeepsForm s (takeRequest mine own s) := by
  rcases takeRequest_cases mine own s with he | ⟨rq, -, -, ⟨a, -, he⟩ | ⟨hchecks, he⟩⟩
  · rw [he]
    exact .refl s
  · rw [he]
    exact answerFirst_form a (.refl s)
  · rw [he]
    exact answerFirst_form _ (hown rq (busChecks_tagFree hchecks))

theorem checked_form {l : List (Bool × Answer)} {f : State → State × Answer}
    (hf : firstFail l = none → KeepsForm s (f s).1) : KeepsForm s (checked l f s).1 :=
  checked_inv (KeepsForm s) l f s hf (.refl s)

/-- The lock step changes the lock table alone (R148). -/
theorem lockedRequest_form {early : List (Bool × Answer)} {obj : LockObj} {oc : Option Answer}
    {mismatch : Lock → Bool} {lock : State → State × Option Answer} {rest : State → State × Answer}
    (hlock : lock s = lockStep rq obj oc mismatch s) (hrest : ∀ {u}, KeepsForm s u → KeepsForm s (rest u).1) :
    KeepsForm s (lockedRequest early lock rest s).1 := by
  have hstep : KeepsForm s (lock s).1 := by
    rw [hlock]
    exact .ofEq (by simp) (by simp) (by simp) (by simp)
  exact lockedRequest_inv (KeepsForm s) early lock rest s hstep (fun _ _ => hrest hstep) (.refl s)

/-! ### Administration and defaults (R173–R178, R189) -/

theorem setLock_form (k : Ctl) (l : Option Lock) (h : KeepsForm s t) : KeepsForm s (t.setLock k l) :=
  h.trans (.ofEq rfl rfl rfl rfl)

/-- The controller table has changed. -/
theorem setAttached_form (v : Vector Bool 4) (s : State) : KeepsForm s (s.setCbi { s.cbi with attached := v }) :=
  .setCbi (.refl _) (.inl rfl) (.refl _)

/-- An attached controller's settings are those of the defaults (R173). -/
theorem attachCtl_form (k : Ctl) (s : State) : KeepsForm s (attachCtl k s) := by
  unfold attachCtl
  split
  · exact .refl s
  · refine setLock_form _ _ ((setAttached_form _ s).trans (.setFifo (fun _ => Nat.zero_le _) fun hrange => ?_))
    exact hrange.defaults

theorem discardDeferred_form (k : Ctl) (h : KeepsForm s t) : KeepsForm s (discardDeferred k t) := by
  refine h.trans (.setCbi ?_ (.inl rfl) (List.filter_sublist.map _))
  have hkept : (t.cbi.queue.map fun rq => if rq.ctl = k then { rq with announces := false } else rq).map
      Request.received = t.cbi.queue.map Request.received := by
    rw [List.map_map]
    exact List.map_congr_left fun rq _ => by
      dsimp only [Function.comp]
      split <;> rfl
  exact hkept ▸ .refl _

theorem detachLock_form (k : Ctl) (h : KeepsForm s t) : KeepsForm s (detachLock k t) := by
  unfold detachLock
  split
  · exact h
  · exact setLock_form _ _ (dropFill_form _ (unholdChan_form _ h))

theorem detachChan_form (k : Ctl) (s : State) (c : Chan) : KeepsForm s (detachChan k s c) := by
  unfold detachChan
  split
  · split
    · exact enterFree_form _ (removeWait_form _ (.refl s))
    · exact postAll_form _ _ _ (modChan_form _ _ (.refl s))
  · exact .refl s

theorem emptyFifo_form (k : Ctl) (h : KeepsForm s t) : KeepsForm s (emptyFifo k t) :=
  h.trans (.setFifo (fun _ => Nat.zero_le _) fun hrange => hrange.fifo k)

theorem dropHoldings_form (k : Ctl) (h : KeepsForm s t) : KeepsForm s (dropHoldings k t) :=
  h.trans (.ofSal id (Nat.le_refl _) rfl rfl rfl)

theorem detachCtl_form (k : Ctl) (s : State) : KeepsForm s (detachCtl k s) := by
  have hlock := detachLock_form k (discardDeferred_form k (setAttached_form (s.cbi.attached.set k false) s))
  have hchans := hlock.trans (foldl_form (detachChan_form k) (List.finRange 32) _)
  exact recheck_form (emptyFifo_form k (dropHoldings_form k hchans))

theorem ownDetach_form (rq : Request) (s : State) : KeepsForm s (ownDetach rq s).1 := by
  refine checked_form fun _ => ?_
  split
  · dsimp only
    exact detachCtl_form _ s
  · exact .refl s

theorem ownSetDefaults_form (rq : Request) (s : State) : KeepsForm s (ownSetDefaults rq s).1 := by
  refine checked_form fun hchecks => ?_
  have hrange : (!(if rq.num 0 = 0 then zeroInRange (rq.words.drop 1) else oneInRange (rq.words.drop 1))) = false :=
    firstFail_pass hchecks (a := refused .outOfRange) (by simp)
  show KeepsForm s (installPart (rq.num 0) (rq.words.drop 1) s)
  unfold installPart
  split
  · next hzero =>
    rw [if_pos hzero] at hrange
    have hinstalled : KeepsForm s (s.setBtl { s.btl with part0 := zeroOf (rq.words.drop 1) }) :=
      .setPart0 (zeroOf_triggers (by simpa using hrange))
    exact hinstalled.trans (foldl_form (fun u k => expireLock_form k (.refl u)) _ _)
  · exact .ofEq rfl rfl rfl rfl

/-! ### Events (R183, R184) -/

theorem evalLine_form (k : Ctl) (h : KeepsForm s t) : KeepsForm s (evalLine k t) :=
  h.trans (.setFifo id fun hrange => hrange.fifo k)

theorem ownFetchEvents_form (rq : Request) (s : State) : KeepsForm s (ownFetchEvents rq s).1 := by
  refine checked_form fun _ => evalLine_form _ (.setFifo (fun hfit => ?_) fun hrange => hrange.fifo _)
  exact (List.length_drop ▸ Nat.sub_le _ _ : (s.fifos[rq.ctl].entries.drop 8).length ≤ _).trans hfit

/-- The level is rounded, the hold time checked and raised to 1 (R184). -/
theorem ownSetEventTrigger_form (rq : Request) (s : State) : KeepsForm s (ownSetEventTrigger rq s).1 := by
  refine checked_form fun hchecks => evalLine_form _ (.setFifo (fun hfit => ?_) fun _ => ?_)
  · unfold setTrigger
    dsimp only
    split
    · exact Nat.zero_le _
    · exact hfit
  · have hhold : decide (255 < rq.num 1) = false := firstFail_pass hchecks (a := refused .outOfRange) (by simp)
    exact ⟨roundLevel_mem _, Nat.le_max_left _ _, Nat.max_le.2 ⟨by decide, Nat.not_lt.1 (of_decide_eq_false hhold)⟩⟩

/-! ### Calls (R76–R98) -/

theorem startTraining_form (st : ChanState) (hfree : tagOutstanding s rq.ctl rq.tag = false) :
    KeepsForm s (startTraining st rq s).1 :=
  modChan_form _ _ (completeTraining_form _ _ (makeDeferred_form hfree))

theorem setFreeze_form (on : Bool) (rq : Request) (h : KeepsForm s t) : KeepsForm s (setFreeze on rq t).1 :=
  modChan_form _ (fun x => { x with freeze := on }) h

theorem trackChan_form (c : Chan) (h : KeepsForm s t) : KeepsForm s (trackChan c t) :=
  modChan_form _ _ (completeTraining_form _ _ h)

theorem restartStores_ok (x : Context) {m : Sal} (h : MemoryOk m) : MemoryOk (restartStores x m) :=
  zeroPages_ok _ _ (unitInit_ok _ _ (zeroSegments_ok _ _ h))

theorem restartChan_form (c : Chan) (h : KeepsForm s t) : KeepsForm s (restartChan c t) :=
  modChan_form _ _ (setSal_form (restartStores_ok _) (by simp [restartStores]) (completeTraining_form c .aborted h))

theorem farSet_form (c : Chan) (far bulk : Nat) (s : State) : KeepsForm s (farSet c far bulk s) := by
  refine .ofSal (fun hm => ?_) ?_ rfl rfl rfl
  · exact debit_ok _ _ _ _ (credit_ok _ _ _ _ (returnUnits_ok _ _ _
      (zeroPages_ok _ _ (zeroSegments_ok _ _ (allocate_ok _ _ _ hm)))))
  · simp [farSet, returnUnits]

theorem setFar_form (c : Chan) (far bulk : Nat) (s : State) : KeepsForm s (setFar c far bulk s) := by
  rw [setFar_eq]
  split
  · exact farSet_form c far bulk s
  · exact recheck_form (farSet_form c far bulk s)

theorem adoptChan_form (c : Chan) (k : Ctl) (s : State) : KeepsForm s (adoptChan c k s) :=
  recheck_form (setChan_form _ _ (setSal_form (credit_ok _ _ _ _) (by simp) (.refl s)))

theorem setRec_form (r : Rec) (q : Profile) (h : KeepsForm s t) : KeepsForm s (t.setRec r q) :=
  h.trans (.ofEq rfl rfl rfl rfl)

theorem recordBind_form (rq : Request) (link : Option Tag) (h : KeepsForm s t) :
    KeepsForm s (recordBind rq link t) := by
  rw [recordBind_eq]
  split
  · exact setChan_form _ _ h
  · split
    · exact setRec_form _ _ (setChan_form _ _ h)
    · exact setChan_form _ _ h

/-- A BIND that waits finds a free place of the wait queue (R111, R112). -/
theorem enterPending_form (hfree : tagOutstanding s rq.ctl rq.tag = false) (hroom : s.sal.waitQ.length < 8) :
    KeepsForm s (enterPending rq s) := by
  have hpending : KeepsForm s ((recordBind rq (some rq.tag) (makeDeferred rq s)).modChan rq.chan fun x =>
      { x with state := .pending }) := modChan_form _ _ (recordBind_form rq _ (makeDeferred_form hfree))
  have hqueue : (recordBind rq (some rq.tag) (makeDeferred rq s)).sal = s.sal := by simp [recordBind_keeps]
  exact {
    memory := hpending.memory
    lists := fun h => by
      obtain ⟨hplaces, -, hfifos⟩ := hpending.lists h
      refine ⟨hplaces, ?_, hfifos⟩
      show (List.length (_ ++ [_])) ≤ 8
      rw [List.length_append, State.modChan_sal, hqueue]
      exact hroom
    records := hpending.records
    tags := hpending.tags
    triggers := hpending.triggers }

theorem bindRoom_form (hfree : tagOutstanding s rq.ctl rq.tag = false) : KeepsForm s (bindRoom rq s).1 := by
  unfold bindRoom bindAtOnce
  dsimp only
  split
  · split
    · exact grant_form _ _ _ (recordBind_form _ _ (makeDeferred_form hfree))
    · exact grant_form _ _ _ (recordBind_form _ _ (.refl s))
  · split
    · exact .refl s
    · split
      · exact .refl s
      · next hroom => exact enterPending_form hfree (Nat.lt_of_not_le hroom)

theorem endOwnLock_form (c : Chan) (k : Ctl) (h : KeepsForm s t) : KeepsForm s (endOwnLock c k t) :=
  h.trans (.ofEq (by simp) (by simp) (by simp) (by simp))

theorem endOwnLock_tagOutstanding (c : Chan) (k j : Ctl) (g : Tag) (s : State) :
    tagOutstanding (endOwnLock c k s) j g = tagOutstanding s j g := by
  simp [tagOutstanding]

theorem beginSave_form (c : Chan) (r : Rec) (h : KeepsForm s t) : KeepsForm s (beginSave c r t) := by
  unfold beginSave
  dsimp only
  split
  · exact h
  · exact h.trans (.ofEq rfl rfl rfl rfl)

theorem endForRelease_form (c : Chan) (h : KeepsForm s t) : KeepsForm s (endForRelease c t) := by
  unfold endForRelease
  split
  · exact completeBind_form _ _ (removeWait_form _ h)
  · exact completeBind_form _ _ (h.trans (.ofEq rfl rfl rfl rfl))
  · exact completeTraining_form _ _ h

theorem emptySlots_form (c : Chan) (h : KeepsForm s t) : KeepsForm s (emptySlots c t) :=
  h.trans (.ofEq rfl rfl rfl rfl)

theorem releaseEnded_form (hfree : tagOutstanding s rq.ctl rq.tag = false) : KeepsForm s (releaseEnded rq s) :=
  emptySlots_form _ (modChan_form _ _ (completeTraining_form _ _ (makeDeferred_form hfree)))

theorem releaseSaving_form (hfree : tagOutstanding s rq.ctl rq.tag = false) : KeepsForm s (releaseSaving rq s).1 := by
  rw [releaseSaving_eq]
  dsimp only
  split
  · exact beginSave_form _ _ (releaseEnded_form hfree)
  · exact recheck_form (enterFree_form _ (completeRelease_form _ _ _ _ (releaseEnded_form hfree)))

theorem releaseChan_form (hfree : tagOutstanding s rq.ctl rq.tag = false) : KeepsForm s (releaseChan rq s).1 := by
  have hlock := endOwnLock_form rq.chan rq.ctl (.refl s)
  rw [← endOwnLock_tagOutstanding rq.chan rq.ctl] at hfree
  unfold releaseChan releaseNow
  dsimp only
  split
  · exact hlock.trans (releaseSaving_form hfree)
  · dsimp only
    exact recheck_form (enterFree_form _ (endForRelease_form _ hlock))

/-! ### Profiles, taps and locked sequences (R129–R150) -/

theorem invalidate_form (c : Chan) (key : Key) (h : KeepsForm s t) : KeepsForm s (invalidate c key t) := by
  unfold invalidate
  dsimp only
  split
  · exact enterFree_form _ (completeRelease_form _ _ _ _ (h.trans (.ofEq rfl rfl rfl rfl)))
  · exact modChan_form _ _ h

theorem beginFill_form (r : Rec) (key : Key) (d : Descriptor) (h : KeepsForm s t) :
    KeepsForm s (beginFill r key d t) := by
  have hplaced (c : Chan) : KeepsForm s (placeFill r key d (invalidate c key t)) :=
    (invalidate_form c key h).trans (.ofEq rfl rfl rfl rfl)
  unfold beginFill
  split
  · exact h.trans (.ofEq rfl rfl rfl rfl)
  · dsimp only
    split
    · exact recheck_form (hplaced _)
    · exact hplaced _

theorem storeProfile_form (rq : Request) (h : KeepsForm s t) : KeepsForm s (storeProfile rq t).1 := by
  unfold storeProfile
  dsimp only
  split
  · exact h
  · split
    · exact h
    · dsimp only
      exact markerEffect_form _ _ _ _ (beginFill_form _ _ _ h)

theorem storeTaps_form (rq : Request) (h : KeepsForm s t) : KeepsForm s (storeTaps rq t).1 := by
  unfold storeTaps
  split
  · exact h
  · dsimp only
    split
    · exact h
    · split
      · dsimp only
        exact markerEffect_form _ _ _ _ (setRec_form _ _ h)
      · split
        · exact endLock_form _ (h.trans (.ofEq rfl rfl rfl rfl))
        · exact endLock_form _ (emptyRecord_form _ (setRec_form _ _ h))

theorem readProfile_form (rq : Request) (h : KeepsForm s t) : KeepsForm s (readProfile rq t).1 := by
  have htouched (r : Rec) : KeepsForm s { touch r t with free := t.free + 4 } := by
    unfold touch
    split <;> exact h.trans (.ofEq rfl rfl rfl rfl)
  unfold readProfile
  split
  · exact h
  · exact markerEffect_form _ _ _ _ (htouched _)

theorem readLive_form (c : Chan) (i : Fin 9) (h : KeepsForm s t) : KeepsForm s (readLive c i t).1 := by
  unfold readLive
  split
  · exact h
  · exact applyCorrections_form _ (readSegment_addr _ _) h

theorem readProfileTaps_form (rq : Request) (h : KeepsForm s t) : KeepsForm s (readProfileTaps rq t).1 := by
  unfold readProfileTaps
  split
  · exact h
  · refine h.trans (checked_form fun _ => markerEffect_form _ _ _ _ ?_)
    split
    · exact .refl t
    · exact readLive_form _ _ (.refl t)

theorem dropProfile_form (rq : Request) (s : State) : KeepsForm s (dropProfile rq s).1 := by
  unfold dropProfile
  split
  · exact .refl s
  · exact checked_form fun _ => emptyRecord_form _ (.refl s)

theorem readChunk_form (c : Chan) (g : Seg) (h : KeepsForm s t) : KeepsForm s (readChunk c g t).1 := by
  have hread := applyCorrections_form c (readSegment_addr t.sal g) h
  unfold readChunk
  dsimp only
  split
  · exact hread
  · split
    · exact enterFault_form _ _ hread
    · exact hread

theorem readTaps_form (rq : Request) (h : KeepsForm s t) : KeepsForm s (readTaps rq t).1 := by
  refine h.trans (checked_form fun _ => ?_)
  dsimp only
  refine markerEffect_form _ _ _ _ ?_
  split
  · exact .refl t
  · exact readChunk_form _ _ (.refl t)

theorem writeTaps_form (rq : Request) (h : KeepsForm s t) : KeepsForm s (writeTaps rq t).1 := by
  refine h.trans (checked_form fun _ => ?_)
  dsimp only
  refine markerEffect_form _ _ _ _ ?_
  split
  · exact .refl t
  · exact setSal_form (writeSegment_ok _ _ _) (by simp) (.refl t)

/-! ### Every command -/

/-- Every command has a next state and keeps the form. -/
theorem exec_form (i : Instr) (s : State) : ∃ t, exec i s = .next t ∧ KeepsForm s t := by
  have hself : KeepsForm s s := .refl s
  cases i with
  | powerOn => exact ⟨_, rfl, powerOn_form s⟩
  | resetAsserted => exact ⟨_, rfl, .ofEq rfl rfl rfl rfl⟩
  | timebaseTick => exact ⟨_, rfl, by split <;> exact .ofEq rfl rfl rfl rfl⟩
  | bootLoadEnd nack image => exact ⟨_, rfl, bootLoadEnd_form nack image s⟩
  | frameSyncPulse g n => exact ⟨_, rfl, framePulse_form g n s⟩
  | missingSync g =>
    refine ⟨_, exec_missingSync g s, ?_⟩
    split
    · exact loseSync_form _ _ hself
    · exact hself
  | clockStopped g =>
    refine ⟨_, exec_clockStopped g s, ?_⟩
    split
    · exact loseSync_form _ _ hself
    · exact hself
  | syncSearchTimeout g =>
    refine ⟨_, exec_syncSearchTimeout g s, ?_⟩
    split
    · exact setSync_form _ _ hself
    · exact hself
  | lineCodeArrives n code => exact ⟨_, rfl, lineCode_form n code s⟩
  | modemPairArrives c x d => exact ⟨_, rfl, modemPair_form c x d s⟩
  | lineOutputSend n => exact ⟨_, rfl, lineSend_form n s⟩
  | modemOutputSend c => exact ⟨_, rfl, setHwi_form _ hself⟩
  | lineFrameStart => exact ⟨_, rfl, lineFrameStart_form s⟩
  | waitDeadline => exact ⟨_, rfl, waitDeadline_form s⟩
  | lockExpiry k => exact ⟨_, rfl, expireLock_form k hself⟩
  | eventHoldReached k =>
    refine ⟨_, rfl, ?_⟩
    split
    · exact .setFifo id fun hrange => hrange.fifo k
    · exact hself
  | requestLaneGrant raised => exact ⟨_, rfl, laneGrant_form raised s⟩
  | requestWordStrobe data parity => exact ⟨_, rfl, receiveWord_form data parity s⟩
  | recordAbandoned =>
    refine ⟨_, rfl, ?_⟩
    split
    · exact hself
    · split
      · exact .setCbi (.refl _) (.inr rfl) (.refl _)
      · exact hself
  | sendResponse => exact ⟨_, rfl, sendResponse_form s⟩
  | sendCompletion => exact ⟨_, rfl, sendCompletion_form s⟩
  | partResetEffect =>
    refine ⟨_, rfl, ?_⟩
    split
    · exact hself
    · split
      · exact sendHead_form _ _ s
      · exact hself
  | parityFailedRequest =>
    refine ⟨_, rfl, ?_⟩
    split
    · exact hself
    · split
      · exact hself
      · split
        · exact answerFirst_form _ hself
        · exact hself
  | unknownRequestKind => exact ⟨_, rfl, takeRequest_form fun _ _ => hself⟩
  | attach => exact ⟨_, rfl, takeRequest_form fun _ _ => checked_form fun _ => attachCtl_form _ s⟩
  | detach => exact ⟨_, rfl, takeRequest_form fun rq _ => ownDetach_form rq s⟩
  | openService => exact ⟨_, rfl, takeRequest_form fun _ _ => checked_form fun _ => .ofEq rfl rfl rfl rfl⟩
  | closeService => exact ⟨_, rfl, takeRequest_form fun _ _ => checked_form fun _ => .ofEq rfl rfl rfl rfl⟩
  | queryPart => exact ⟨_, rfl, takeRequest_form fun _ _ => checked_form fun _ => hself⟩
  | partReset =>
    exact ⟨_, rfl, takeRequest_form fun _ _ => checked_form fun _ => .setCbi (.refl _) (.inl rfl) (.refl _)⟩
  | setDefaults => exact ⟨_, rfl, takeRequest_form fun rq _ => ownSetDefaults_form rq s⟩
  | readDefaults => exact ⟨_, rfl, takeRequest_form fun _ _ => checked_form fun _ => hself⟩
  | bind => exact ⟨_, rfl, takeRequest_form fun _ hfree => checked_form fun _ => bindRoom_form hfree⟩
  | release => exact ⟨_, rfl, takeRequest_form fun _ hfree => checked_form fun _ => releaseChan_form hfree⟩
  | trainEcho => exact ⟨_, rfl, takeRequest_form fun _ hfree => checked_form fun _ => startTraining_form _ hfree⟩
  | trainEqualizer => exact ⟨_, rfl, takeRequest_form fun _ hfree => checked_form fun _ => startTraining_form _ hfree⟩
  | track =>
    refine ⟨_, rfl, takeRequest_form fun _ _ => checked_form fun _ => ?_⟩
    dsimp only
    split
    · exact hself
    · exact trackChan_form _ hself
  | freeze => exact ⟨_, rfl, takeRequest_form fun _ _ => checked_form fun _ => setFreeze_form _ _ hself⟩
  | thaw => exact ⟨_, rfl, takeRequest_form fun _ _ => checked_form fun _ => setFreeze_form _ _ hself⟩
  | restart => exact ⟨_, rfl, takeRequest_form fun _ _ => checked_form fun _ => restartChan_form _ hself⟩
  | setFarWindow => exact ⟨_, rfl, takeRequest_form fun _ _ => checked_form fun _ => setFar_form _ _ _ s⟩
  | adopt =>
    refine ⟨_, rfl, takeRequest_form fun _ _ => checked_form fun _ => ?_⟩
    dsimp only
    split
    · exact hself
    · exact adoptChan_form _ _ s
  | queryChannel => exact ⟨_, rfl, takeRequest_form fun _ _ => checked_form fun _ => hself⟩
  | queryStore => exact ⟨_, rfl, takeRequest_form fun _ _ => checked_form fun _ => hself⟩
  | storeProfile =>
    exact ⟨_, rfl, takeRequest_form fun rq _ => lockedRequest_form rfl (storeProfile_form rq)⟩
  | storeProfileTaps =>
    exact ⟨_, rfl, takeRequest_form fun rq _ => lockedRequest_form rfl (storeTaps_form rq)⟩
  | readProfile =>
    exact ⟨_, rfl, takeRequest_form fun rq _ => lockedRequest_form rfl (readProfile_form rq)⟩
  | readProfileTaps =>
    exact ⟨_, rfl, takeRequest_form fun rq _ => lockedRequest_form rfl (readProfileTaps_form rq)⟩
  | dropProfile => exact ⟨_, rfl, takeRequest_form fun _ _ => checked_form fun _ => dropProfile_form _ s⟩
  | listProfiles => exact ⟨_, rfl, takeRequest_form fun _ _ => checked_form fun _ => hself⟩
  | readTaps => exact ⟨_, rfl, takeRequest_form fun rq _ => lockedRequest_form rfl (readTaps_form rq)⟩
  | writeTaps => exact ⟨_, rfl, takeRequest_form fun rq _ => lockedRequest_form rfl (writeTaps_form rq)⟩
  | fetchEvents => exact ⟨_, rfl, takeRequest_form fun rq _ => ownFetchEvents_form rq s⟩
  | setEventTrigger => exact ⟨_, rfl, takeRequest_form fun rq _ => ownSetEventTrigger_form rq s⟩

/-- A step is the front command's, or none (log entry 2). -/
theorem step_form (h : step s = .next t) : KeepsForm s t := by
  unfold step at h
  split at h
  · cases h
    exact .refl s
  · next i rest _ =>
    obtain ⟨u, hu, hkept⟩ := exec_form i { s with pending := rest }
    rw [hu] at h
    cases h
    have hpopped : KeepsForm s { s with pending := rest } := .ofEq rfl rfl rfl rfl
    exact hpopped.trans hkept

end Sys2Proof.Machine

open Sys2Proof Sys2Proof.Machine

/-- Settles O5: every write of a command lies inside its memory and goes through a canonical cell write. -/
theorem stepsKeepTheMemoriesCanonical : Obligations.StepsKeepTheMemoriesCanonical :=
  fun _ _ hmemory hstep => (step_form hstep).memory hmemory

/-- Settles O10: a list grows only where its place was checked, a record only by its next word, the deferred table only by
a tag that is not outstanding, and the trigger settings only change to rounded and checked ones. -/
theorem stepsKeepListsRecordsTagsAndTriggers : Obligations.StepsKeepListsRecordsTagsAndTriggers := by
  intro s t hstep
  obtain ⟨-, hlists, hrecords, htags, htriggers⟩ := step_form hstep
  exact ⟨hlists, hrecords, htags, htriggers⟩
end

section
/-! The check code of a tap word and the parity of a history sample (R104, R107): both are linear, so a word with flipped
bits is classed by the flipped bits alone. -/

namespace Sys2Proof.Machine

/-! ### Parity of combined bits -/

theorem xorAll_map_xor {α : Type} (f g : α → Bool) (l : List α) :
    xorAll (l.map fun a => f a ^^ g a) = (xorAll (l.map f) ^^ xorAll (l.map g)) := by
  induction l with
  | nil => rfl
  | cons a l ih =>
    show ((f a ^^ g a) ^^ xorAll (l.map fun a => f a ^^ g a)) = ((f a ^^ xorAll (l.map f)) ^^ (g a ^^ xorAll (l.map g)))
    rw [ih]
    generalize f a = p, g a = q, xorAll (l.map f) = v, xorAll (l.map g) = w
    revert p q v w
    decide

/-- The parity of the low n bits of a word (R104, R107). -/
def lowParity {w : Nat} (n : Nat) (v : BitVec w) : Bool := xorAll ((List.range n).map v.getLsbD)

theorem lowParity_xor {w : Nat} (n : Nat) (u v : BitVec w) :
    lowParity n (u ^^^ v) = (lowParity n u ^^ lowParity n v) := by
  have hbits : (u ^^^ v).getLsbD = fun i => u.getLsbD i ^^ v.getLsbD i := funext fun i => BitVec.getLsbD_xor
  rw [lowParity, hbits, xorAll_map_xor]
  rfl

/-! ### The check code (R104) -/

theorem checkBit_xor (u v : Word) (j : Nat) : checkBit (u ^^^ v) j = (checkBit u j ^^ checkBit v j) := by
  unfold checkBit
  rw [← xorAll_map_xor]
  simp only [BitVec.getLsbD_xor, Bool.and_xor_distrib_left]

/-- The stored data bits by position (R104). -/
theorem eccData_getLsbD (w : BitVec 22) {i : Nat} (hi : i < 16) :
    (eccData w).getLsbD i = w.getLsbD (dataPositions.getD i 0 - 1) := by
  rw [eccData, BitVec.getLsbD_setWidth, BitVec.getLsbD_ofBoolListLE, decide_eq_true hi, Bool.true_and,
    List.getD_eq_getElem _ _ (by simpa [dataPositions] using hi), List.getElem_map,
    List.getD_eq_getElem _ _ (by simpa [dataPositions] using hi)]

theorem eccData_xor (u v : BitVec 22) : eccData (u ^^^ v) = eccData u ^^^ eccData v := by
  refine BitVec.eq_of_getLsbD_eq fun i hi => ?_
  rw [BitVec.getLsbD_xor, eccData_getLsbD _ hi, eccData_getLsbD _ hi, eccData_getLsbD _ hi, BitVec.getLsbD_xor]

/-- Check bit j of a stored word does not match its data (R104). -/
def mismatch (j : Nat) (w : BitVec 22) : Bool := w.getLsbD (2 ^ j - 1) ^^ checkBit (eccData w) j

theorem mismatch_xor (j : Nat) (u v : BitVec 22) : mismatch j (u ^^^ v) = (mismatch j u ^^ mismatch j v) := by
  rw [mismatch, eccData_xor, checkBit_xor, BitVec.getLsbD_xor]
  unfold mismatch
  generalize u.getLsbD _ = p, v.getLsbD _ = q, checkBit (eccData u) j = x, checkBit (eccData v) j = y
  revert p q x y
  decide

/-- The syndrome is made of the mismatches (R104). -/
theorem syndrome_congr {u v : BitVec 22} (h : ∀ j < 5, mismatch j u = mismatch j v) : syndrome u = syndrome v := by
  have hsum (w : BitVec 22) : syndrome w = ([0, 1, 2, 3, 4].map fun j => if mismatch j w then 2 ^ j else 0).sum := rfl
  rw [hsum, hsum]
  congr 1
  refine List.map_congr_left fun j hj => ?_
  rw [h j (by simp at hj; omega)]

theorem syndrome_zero_iff (w : BitVec 22) : syndrome w = 0 ↔ ∀ j < 5, mismatch j w = false := by
  have hsum : syndrome w = ([0, 1, 2, 3, 4].map fun j => if mismatch j w then 2 ^ j else 0).sum := rfl
  rw [hsum, List.sum_eq_zero_iff]
  constructor
  · intro h j hj
    have hzero := h _ (List.mem_map_of_mem (a := j) (by simp; omega))
    simpa using hzero
  · intro h n hn
    obtain ⟨j, hj, rfl⟩ := List.mem_map.1 hn
    rw [h j (by simp at hj; omega)]
    rfl

/-! ### A word as written -/

/-- The stored bits of a value in order (R104, log entry 9). -/
theorem eccEncode_getLsbD (v : Word) (i : Nat) :
    (eccEncode v).getLsbD i = (codeBits v ++ [xorAll (codeBits v)]).getD i false := by
  rw [eccEncode, BitVec.getLsbD_setWidth, BitVec.getLsbD_ofBoolListLE]
  by_cases hi : i < 22
  · rw [decide_eq_true hi, Bool.true_and]
  · rw [decide_eq_false hi, Bool.false_and, List.getD_eq_default _ _ (by simp [codeBits]; omega)]

theorem eccData_eccEncode (v : Word) : eccData (eccEncode v) = v := by
  refine BitVec.eq_of_getLsbD_eq fun i hi => ?_
  rw [eccData_getLsbD _ hi, eccEncode_getLsbD]
  interval_cases i <;> rfl

theorem mismatch_eccEncode (v : Word) {j : Nat} (hj : j < 5) : mismatch j (eccEncode v) = false := by
  have hstored : (eccEncode v).getLsbD (2 ^ j - 1) = checkBit v j := by
    rw [eccEncode_getLsbD]
    interval_cases j <;> rfl
  rw [mismatch, eccData_eccEncode, hstored, Bool.xor_self]

theorem lowParity_eccEncode (v : Word) : lowParity 22 (eccEncode v) = false := by
  have hbits : (List.range 22).map (eccEncode v).getLsbD = codeBits v ++ [xorAll (codeBits v)] := by
    rw [funext fun i => eccEncode_getLsbD v i]
    rfl
  rw [lowParity, hbits, xorAll_append, Bool.xor_self]

/-! ### A word with flipped bits (Table 6-2) -/

theorem overallHolds_eq (w : BitVec 22) : overallHolds w = !lowParity 22 w := rfl

theorem overallHolds_flipped (v : Word) (e : BitVec 22) : overallHolds (eccEncode v ^^^ e) = !lowParity 22 e := by
  rw [overallHolds_eq, lowParity_xor, lowParity_eccEncode, Bool.false_xor]

theorem syndrome_flipped (v : Word) (e : BitVec 22) : syndrome (eccEncode v ^^^ e) = syndrome e :=
  syndrome_congr fun j hj => by rw [mismatch_xor, mismatch_eccEncode v hj, Bool.false_xor]

/-- One bit breaks the overall parity, and the syndrome is its position, 0 for the parity bit itself (R104). -/
theorem flippedBit {i : Nat} (hi : i < 22) :
    lowParity 22 (1#22 <<< i) = true ∧ syndrome (1#22 <<< i) = (i + 1) % 22 := by
  have hall : ∀ i : Fin 22, lowParity 22 (1#22 <<< i.val) = true ∧ syndrome (1#22 <<< i.val) = (i.val + 1) % 22 := by
    decide
  exact hall ⟨i, hi⟩

theorem classify_eccEncode (v : Word) : classify (eccEncode v) = .good v := by
  have hholds : overallHolds (eccEncode v) = true := by rw [overallHolds_eq, lowParity_eccEncode, Bool.not_false]
  have hsyndrome : syndrome (eccEncode v) = 0 := (syndrome_zero_iff _).2 fun _ => mismatch_eccEncode v
  rw [classify, hholds, hsyndrome, eccData_eccEncode, if_pos rfl, if_pos rfl]

/-- A flipped bit is found by its position and flipped back (R104). -/
theorem classify_oneFlipped (v : Word) {i : Nat} (hi : i < 22) :
    classify (eccEncode v ^^^ (1#22 <<< i)) = .corrected (correctedValue v) := by
  obtain ⟨hparity, hposition⟩ := flippedBit hi
  have hholds : overallHolds (eccEncode v ^^^ (1#22 <<< i)) = false := by
    rw [overallHolds_flipped, hparity, Bool.not_true]
  rw [classify, hholds, syndrome_flipped, hposition, if_neg Bool.false_ne_true]
  by_cases hlast : i = 21
  · have hdata : eccData (1#22 <<< 21) = 0#16 := by decide
    rw [hlast, if_pos rfl, eccData_xor, eccData_eccEncode, hdata, BitVec.xor_zero]
  · have hmod : (i + 1) % 22 = i + 1 := Nat.mod_eq_of_lt (by omega)
    rw [hmod, if_neg (by omega), if_pos (by omega), Nat.add_sub_cancel, BitVec.xor_assoc, BitVec.xor_self,
      BitVec.xor_zero, eccData_eccEncode]

/-- Two flipped bits keep the overall parity, and their syndromes do not cancel (R104). -/
theorem classify_twoFlipped (v : Word) {i j : Nat} (hi : i < 22) (hj : j < 22) (hij : i ≠ j) :
    classify (eccEncode v ^^^ (1#22 <<< i) ^^^ (1#22 <<< j)) = .uncorrectable := by
  obtain ⟨hiparity, hiposition⟩ := flippedBit hi
  obtain ⟨hjparity, hjposition⟩ := flippedBit hj
  have hsyndrome : syndrome ((1#22 <<< i) ^^^ (1#22 <<< j)) ≠ 0 := by
    intro hzero
    have hsame : syndrome (1#22 <<< i) = syndrome (1#22 <<< j) := syndrome_congr fun b hb => by
      have hcancel := (syndrome_zero_iff _).1 hzero b hb
      rw [mismatch_xor] at hcancel
      simpa using hcancel
    rw [hiposition, hjposition] at hsame
    omega
  rw [BitVec.xor_assoc, classify, overallHolds_flipped, syndrome_flipped, lowParity_xor, hiparity, hjparity,
    Bool.xor_self, Bool.not_false, if_pos rfl, if_neg hsyndrome]

/-! ### History samples (R107) -/

theorem parityEncode_data (v : Word) : (parityEncode v).setWidth 16 = v := by
  refine BitVec.eq_of_getLsbD_eq fun i hi => ?_
  rw [BitVec.getLsbD_setWidth, decide_eq_true hi, Bool.true_and, parityEncode, BitVec.getLsbD_setWidth,
    BitVec.getLsbD_append, if_pos hi, decide_eq_true (Nat.lt_succ_of_lt hi), Bool.true_and]

theorem lowParity_parityEncode (v : Word) : lowParity 17 (parityEncode v) = true :=
  (oddOnes_iff _).2 (by rw [parityEncode_data])

/-- A sample is read back as written where it fits its 16 bits (R107). -/
theorem readSample_writeSample {m : Sal} (hm : MemoryOk m) (p : Page) (off : Nat) {v : Int} (hlow : -32768 ≤ v)
    (hhigh : v ≤ 32767) : readSample (writeSample p off v m) (256 * p.val + off % 256) = some v := by
  have hword : cellRead histBlank (writeSample p off v m).hist (256 * p.val + off % 256) =
      parityEncode (BitVec.ofInt 16 v) := by
    rw [writeSample, cellRead_cellWrite _ _ _ _ _ hm.2.1, if_pos rfl]
  have hvalue : (BitVec.ofInt 16 v).toInt = v := by
    rw [BitVec.toInt_ofInt]
    exact Int.bmod_eq_of_le (by omega) (by omega)
  rw [readSample_eq, hword]
  dsimp only
  rw [parityEncode_data, if_pos rfl, hvalue]

/-- A flipped bit leaves an even number of ones (R107). -/
theorem readSample_flipped {m : Sal} {a i : Nat} {v : Word} (hi : i < 17)
    (hword : cellRead histBlank m.hist a = parityEncode v ^^^ (1#17 <<< i)) : readSample m a = none := by
  have hall : ∀ i : Fin 17, lowParity 17 (1#17 <<< i.val) = true := by decide
  have heven : lowParity 17 (parityEncode v ^^^ (1#17 <<< i)) = false := by
    rw [lowParity_xor, lowParity_parityEncode, hall ⟨i, hi⟩, Bool.xor_self]
  unfold readSample
  dsimp only
  rw [hword]
  exact if_neg (Bool.eq_false_iff.1 heven)

end Sys2Proof.Machine

open Sys2Proof Sys2Proof.Machine

/-- Settles O30: a flipped bit is found by the overall parity and the syndrome of that bit alone, a flipped bit of a
sample by its parity. -/
theorem storedWordsShowTheirErrors : Obligations.StoredWordsShowTheirErrors := by
  refine ⟨fun v => rfl, fun v => ⟨classify_eccEncode v, fun i => classify_oneFlipped v,
    fun i j => classify_twoFlipped v⟩, fun m p off v hm => readSample_writeSample hm p off, ?_,
    fun m a v i => readSample_flipped⟩
  decide
end

section
/-! The head re-check of the wait queue with its reserves (R110, R113), power-on and the timebase (R187, R194). -/

namespace Sys2Proof.Machine

variable {s : State} {e : WaitEntry} {rest : List WaitEntry}

/-! ### The reserves (R110) -/

/-- What an attached controller is promised and does not hold counts where it is positive (R110). -/
theorem unused_eq (p : Ctl → Prop) [DecidablePred p] (share held : Ctl → Nat) (l : List Ctl) :
    (((l.map fun j => if p j then share j - held j else 0).sum : Nat) : Int) =
      (l.map fun j => if p j then max 0 ((share j : Int) - held j) else 0).sum := by
  induction l with
  | nil => rfl
  | cons j l ih =>
    have hterm : ((if p j then share j - held j else 0 : Nat) : Int) =
        if p j then max 0 ((share j : Int) - held j) else 0 := by
      split
      · omega
      · rfl
    rw [List.map_cons, List.sum_cons, Nat.cast_add, ih, hterm, List.map_cons, List.sum_cons]

theorem roomFor_iff (k : Ctl) (n p : Nat) (s : State) : roomFor k n p s = true ↔
    reserveSeg k s + n ≤ s.sal.freeSegs.length ∧ reservePage k s + p ≤ s.sal.freePages.length := decide_eq_true_iff

/-! ### The re-check (R113) -/

theorem recheck_nil (h : s.sal.waitQ = []) : recheck s = s := by
  rw [recheck, h]
  rfl

theorem recheckFrom_succ (n : Nat) (h : s.sal.waitQ = e :: rest) : recheckFrom (n + 1) s =
    if roomFor e.ctl e.segs e.pages s then
      recheckFrom n (grant e.chan e.segs e.pages (s.setSal { s.sal with waitQ := rest }))
    else s := by
  rw [recheckFrom, h]

theorem recheck_cons (h : s.sal.waitQ = e :: rest) : recheck s =
    if roomFor e.ctl e.segs e.pages s then
      recheckFrom rest.length (grant e.chan e.segs e.pages (s.setSal { s.sal with waitQ := rest }))
    else s := by
  rw [recheck, h, List.length_cons, recheckFrom_succ _ h]

/-- A grant takes nothing from the wait queue. -/
theorem grant_waitQ (c : Chan) (n p : Nat) (s : State) : (grant c n p s).sal.waitQ = s.sal.waitQ := by
  rw [grant_sal]
  simp [grantSal]

/-- A head that passes is granted, and the re-check goes on with the rest of the queue. -/
theorem recheck_grant (h : s.sal.waitQ = e :: rest) (hroom : roomFor e.ctl e.segs e.pages s = true) : recheck s =
    recheck (grant e.chan e.segs e.pages { s with sal := { s.sal with waitQ := rest } }) := by
  rw [recheck_cons h, if_pos hroom, recheck, grant_waitQ]
  rfl

end Sys2Proof.Machine

open Sys2Proof Sys2Proof.Machine

/-- Settles O31: the reserves are sums of positive parts, and the re-check follows the queue from its head. -/
theorem recheckGrantsFromTheHead : Obligations.RecheckGrantsFromTheHead := by
  refine ⟨fun c s => ⟨unused_eq _ _ _ _, unused_eq _ _ _ _⟩, fun s => recheck_nil, fun e rest s hq hfull => ?_,
    fun e rest s hq hsegs hpages => recheck_grant hq ((roomFor_iff _ _ _ _).2 ⟨hsegs, hpages⟩)⟩
  rw [recheck_cons hq, if_neg fun hroom => hfull ((roomFor_iff _ _ _ _).1 hroom)]

/-- Settles O11: each of the three commands by its case of `exec`. -/
theorem powerOnResetsAndTimebaseCounts : Obligations.PowerOnResetsAndTimebaseCounts := by
  refine ⟨fun s t n => ⟨rfl, ?_⟩, fun s => rfl, fun s => rfl, fun s hlow => ?_, fun s hhigh => ?_⟩
  · rw [timeReached, Bool.and_eq_true, Bool.not_eq_true', decide_eq_true_iff]
    rfl
  · simp [exec, execTimebaseTick, hlow]
  · simp [exec, execTimebaseTick, hhigh, State.setBtl]
end


section
/-! The laws of the profile store (R121, R123): how a record may change and where it then stands in the recency list, and
the shared operations that change one (R72, R84, R122, R126, R138, R152). -/

namespace Sys2Proof.Machine

variable {c : Chan} {k : Ctl} {r : Rec} {key : Key} {rq : Request} {q : Profile} {s t : State}

/-! ### Records and recency after a change -/

/-- Only what the laws do not read has changed in the records. -/
theorem ProfilesOk.alike (h : ProfilesOk s) (hl : t.pfs.recency = s.pfs.recency)
    (hr : ∀ r : Rec, t.pfs.recs[r].state = s.pfs.recs[r].state ∧ t.pfs.recs[r].key = s.pfs.recs[r].key) :
    ProfilesOk t := by
  obtain ⟨hnodup, hvalid, hkeys⟩ := h
  refine ⟨hl ▸ hnodup, fun r => ?_, fun r r' => ?_⟩
  · rw [hl, (hr r).1]
    exact hvalid r
  · rw [(hr r).1, (hr r).2, (hr r').1, (hr r').2]
    exact hkeys r r'

theorem ProfilesOk.ofPfs (h : ProfilesOk s) (hp : t.pfs = s.pfs) : ProfilesOk t :=
  h.alike (by rw [hp]) fun _ => by
    rw [hp]
    exact ⟨rfl, rfl⟩

theorem ProfilesOk.apart (h : ProfilesOk s) : KeysApart s := by
  obtain ⟨-, -, hkeys⟩ := h
  exact hkeys

/-- A record changes within its state and its key. -/
theorem ProfilesOk.setRec (h : ProfilesOk s) (hs : q.state = s.pfs.recs[r].state) (hk : q.key = s.pfs.recs[r].key) :
    ProfilesOk (s.setRec r q) := by
  refine h.alike rfl fun r' => ?_
  rw [State.setRec_pfs, getElem_set_fin]
  split
  · next hr => exact hr ▸ ⟨hs, hk⟩
  · exact ⟨rfl, rfl⟩

/-- No record in use but r holds the key. -/
def KeyFree (key : Option Key) (r : Rec) (s : State) : Prop :=
  ∀ r' : Rec, r' ≠ r → s.pfs.recs[r'].state ≠ .empty → s.pfs.recs[r'].key ≠ key

/-- One record is replaced by one whose key is free for it. -/
theorem KeysApart.replace (h : KeysApart s) (hr : t.pfs.recs = s.pfs.recs.set r q)
    (hq : q.state ≠ .empty → KeyFree q.key r s) : KeysApart t := by
  have hother (r' : Rec) (hne : r' ≠ r) : t.pfs.recs[r'] = s.pfs.recs[r'] := by
    rw [hr, getElem_set_other _ _ _ _ (Ne.symm hne)]
  have hsame : t.pfs.recs[r] = q := by rw [hr, getElem_set_same]
  intro a b ha hb he
  by_cases har : a = r <;> by_cases hbr : b = r
  · rw [har, hbr]
  · rw [har, hsame] at ha he
    rw [hother b hbr] at hb he
    exact absurd he.symm (hq ha b hbr hb)
  · rw [hbr, hsame] at hb he
    rw [hother a har] at ha he
    exact absurd he (hq hb a har ha)
  · rw [hother a har] at ha he
    rw [hother b hbr] at hb he
    exact h a b ha hb he

/-- A record that is not VALID any more leaves the recency list (R122). -/
theorem ProfilesOk.leave (h : ProfilesOk s) (hr : t.pfs.recs = s.pfs.recs.set r q)
    (hl : t.pfs.recency = s.pfs.recency.filter (· != r)) (hv : q.state ≠ .valid)
    (hq : q.state ≠ .empty → KeyFree q.key r s) : ProfilesOk t := by
  obtain ⟨hnodup, hvalid, hkeys⟩ := h
  refine ⟨hl ▸ hnodup.filter _, fun r' => ?_, KeysApart.replace hkeys hr hq⟩
  rw [hl, hr, getElem_set_fin, List.mem_filter, bne_iff_ne, hvalid]
  split
  · next he => exact ⟨fun hm => absurd he.symm hm.2, fun hm => absurd hm hv⟩
  · next hne => exact ⟨And.left, fun hm => ⟨hm, Ne.symm hne⟩⟩

/-- A record in use that is VALID now leads the recency list (R123). -/
theorem ProfilesOk.lead (h : ProfilesOk s) (hr : t.pfs.recs = s.pfs.recs.set r q)
    (hl : t.pfs.recency = toFront r s.pfs.recency) (hv : q.state = .valid) (hu : s.pfs.recs[r].state ≠ .empty)
    (hk : q.key = s.pfs.recs[r].key) : ProfilesOk t := by
  obtain ⟨hnodup, hvalid, hkeys⟩ := h
  have hfree : KeyFree q.key r s := fun r' hne hs he => hne (hkeys r' r hs hu (he.trans hk))
  refine ⟨?_, fun r' => ?_, KeysApart.replace hkeys hr fun _ => hfree⟩
  · rw [hl, toFront, List.nodup_cons]
    exact ⟨fun hm => by simpa using (List.mem_filter.1 hm).2, hnodup.filter _⟩
  · rw [hl, hr, getElem_set_fin, toFront, List.mem_cons, List.mem_filter, bne_iff_ne, hvalid]
    split
    · next he => exact ⟨fun _ => hv, fun _ => .inl he.symm⟩
    · next hne =>
      exact ⟨fun hm => (hm.resolve_left (Ne.symm hne)).1, fun hm => .inr ⟨hm, Ne.symm hne⟩⟩

/-! ### The record of a key (R121) -/

theorem findProfile_none (h : findProfile key s = none) (r : Rec) (hs : s.pfs.recs[r].state ≠ .empty) :
    s.pfs.recs[r].key ≠ some key := by
  have hnot := List.find?_eq_none.1 h r (List.mem_finRange r)
  simp only [Bool.and_eq_true, bne_iff_ne, beq_iff_eq, not_and] at hnot
  exact hnot hs

/-- The record of a key, or any record where the key has none, may take the key. -/
theorem keyFree_of_findProfile (h : KeysApart s) (hf : findProfile key s = some r ∨ findProfile key s = none) :
    KeyFree (some key) r s := by
  intro r' hne hs he
  rcases hf with hf | hf
  · exact hne (findProfile_eq h hf hs he).symm
  · exact findProfile_none hf r' hs he

theorem findValid_some (h : findValid key s = some r) : s.pfs.recs[r].state = .valid := by
  simpa using (Option.filter_eq_some_iff.1 h).2

/-! ### Shared operations -/

theorem emptyRecord_profiles (r : Rec) (h : ProfilesOk s) : ProfilesOk (emptyRecord r s) := by
  refine h.leave (r := r) (q := emptyProfile) ?_ (emptyRecord_recency r s) nofun fun hq => absurd rfl hq
  unfold emptyRecord
  cases s.pfs.recs[r].boundChan <;> rfl

/-- A LOAD is queued from a VALID profile, which moves to the front (R126). -/
theorem queueLoad_profiles (c : Chan) (key : Key) (hr : s.pfs.recs[r].state = .valid) (h : ProfilesOk s) :
    ProfilesOk (queueLoad c key r s) := by
  rw [queueLoad_eq]
  exact h.lead rfl rfl hr (by rw [hr]; decide) rfl

theorem grant_profiles (c : Chan) (n p : Nat) (h : ProfilesOk s) : ProfilesOk (grant c n p s) := by
  have hunits : ProfilesOk (unitsGranted c n p s) := h.ofPfs rfl
  rw [grant_eq, enterGranted]
  split
  · next key r hload =>
    obtain ⟨key', -, hfound⟩ := Option.bind_eq_some_iff.1 hload
    obtain ⟨r', hvalid, he⟩ := Option.map_eq_some_iff.1 hfound
    cases he
    exact queueLoad_profiles _ _ (findValid_some hvalid) hunits
  · exact hunits.ofPfs (by simp)

theorem recheckFrom_profiles (n : Nat) (h : ProfilesOk s) : ProfilesOk (recheckFrom n s) := by
  induction n generalizing s with
  | zero => exact h
  | succ n ih =>
    unfold recheckFrom
    split
    · exact h
    · split
      · exact ih (grant_profiles _ _ _ (h.ofPfs rfl))
      · exact h

theorem recheck_profiles (h : ProfilesOk s) : ProfilesOk (recheck s) := recheckFrom_profiles _ h

/-- A channel that enters FREE leaves its profile unbound and in its state (R72). -/
theorem enterFree_profiles (c : Chan) (h : ProfilesOk s) : ProfilesOk (enterFree c s) := by
  refine h.alike (enterFree_recency c s) fun r => ?_
  rw [enterFree_recs]
  split <;> exact ⟨rfl, rfl⟩

theorem dropFill_profiles (l : Lock) (h : ProfilesOk s) : ProfilesOk (dropFill l s) := by
  by_cases hd : ∃ r, DropsFill l r s
  · obtain ⟨r, hr⟩ := hd
    rw [dropFill_some hr]
    exact emptyRecord_profiles r h
  · rw [dropFill_none fun r hr => hd ⟨r, hr⟩]
    exact h

theorem expireLock_profiles (k : Ctl) (h : ProfilesOk s) : ProfilesOk (expireLock k s) := by
  unfold expireLock
  split
  · exact h
  · next l _ =>
    have hdropped : ProfilesOk (dropFill l (unholdChan l s)) := dropFill_profiles l (h.ofPfs (by simp))
    exact hdropped.ofPfs (by simp [breakLock])

end Sys2Proof.Machine
end

section
/-! The laws of the profile store through boot loads, transfers, expiries, RELEASE, BIND and DETACH (R79–R89, R97, R115,
R127, R128, R132–R134, R193). -/

namespace Sys2Proof.Machine

variable {c : Chan} {k : Ctl} {r : Rec} {key : Key} {rq : Request} {q : Profile} {s t : State} {j : Job}

/-! ### The boot image (R193) -/

theorem parseProfiles_valid : ∀ (n : Nat) (b : List Byte) (ps : List Profile), parseProfiles n b = some ps →
    ∀ q ∈ ps, q.state = .valid
  | 0, b, ps, h => by
    unfold parseProfiles at h
    split at h
    · cases h
      exact nofun
    · cases h
  | n + 1, b, ps, h => by
    unfold parseProfiles at h
    dsimp only at h
    split at h
    · obtain ⟨qs, hqs, rfl⟩ := Option.map_eq_some_iff.1 h
      intro q hq
      rcases List.mem_cons.1 hq with rfl | hq
      · rfl
      · exact parseProfiles_valid n _ qs hqs q hq
    · cases h

/-- The profiles that a load installs are VALID and have keys that differ (R193 step 5). -/
theorem imageProfiles_ok (b : List Byte) : let ps := (imageProfiles b).getD []
    (∀ q ∈ ps, q.state = .valid) ∧ (ps.map (·.key)).Nodup := by
  cases h : imageProfiles b with
  | none => exact ⟨nofun, List.nodup_nil⟩
  | some ps =>
    unfold imageProfiles at h
    split at h
    · obtain ⟨hparsed, hkeys⟩ := Option.filter_eq_some_iff.1 h
      exact ⟨parseProfiles_valid _ _ ps hparsed, of_decide_eq_true hkeys⟩
    · cases h

/-- The first of all records in order are those numbered below n. -/
theorem mem_take_finRange (n : Nat) (r : Rec) : r ∈ (List.finRange 64).take n ↔ r.val < n := by
  rw [List.mem_take_iff_getElem]
  constructor
  · rintro ⟨i, hi, rfl⟩
    simpa using (lt_min_iff.1 hi).1
  · intro hr
    exact ⟨r.val, lt_min_iff.2 ⟨hr, by simp⟩, by simp⟩

theorem installImage_profiles (b : List Byte) (s : State) : ProfilesOk (installImage b s) := by
  obtain ⟨hvalid, hkeys⟩ := imageProfiles_ok b
  have hrec (r : Rec) : (installImage b s).pfs.recs[r] = ((imageProfiles b).getD []).getD r.val emptyProfile := by
    simp [installImage]
  have hlisted : (installImage b s).pfs.recency = (List.finRange 64).take ((imageProfiles b).getD []).length := rfl
  have hin (r : Rec) (hr : r.val < ((imageProfiles b).getD []).length) :
      (installImage b s).pfs.recs[r] = ((imageProfiles b).getD [])[r.val] := by
    rw [hrec, List.getD_eq_getElem _ _ hr]
  have hout (r : Rec) (hr : ¬ r.val < ((imageProfiles b).getD []).length) :
      (installImage b s).pfs.recs[r] = emptyProfile := by
    rw [hrec, List.getD_eq_default _ _ (Nat.not_lt.1 hr)]
  have hused (r : Rec) (hr : (installImage b s).pfs.recs[r].state ≠ .empty) :
      r.val < ((imageProfiles b).getD []).length := by
    by_contra hn
    rw [hout r hn] at hr
    exact hr rfl
  refine ⟨?_, fun r => ?_, fun r r' hr hr' he => ?_⟩
  · rw [hlisted]
    exact (List.nodup_finRange 64).sublist (List.take_sublist _ _)
  · rw [hlisted, mem_take_finRange]
    refine ⟨fun hr => ?_, fun hv => hused r (by rw [hv]; decide)⟩
    rw [hin r hr]
    exact hvalid _ (List.getElem_mem hr)
  · have hlt := hused r hr
    have hlt' := hused r' hr'
    rw [hin r hlt, hin r' hlt'] at he
    have hsame : r.val = r'.val := (List.Nodup.getElem_inj_iff hkeys (hi := by simpa using hlt)
      (hj := by simpa using hlt')).1 (by simpa using he)
    exact Fin.ext hsame

theorem bootLoadEnd_profiles (nack : Option (Fin 4)) (image : List Byte) (h : ProfilesOk s) :
    ProfilesOk (bootLoadEnd nack image s) := by
  unfold bootLoadEnd
  split
  · split
    · exact h.ofPfs rfl
    · split
      · exact h
      · dsimp only
        split
        · exact installImage_profiles _ _
        · exact h.ofPfs rfl
  · exact h

/-! ### Transfers and expiries (R115, R128, R132–R134) -/

theorem moveLoad_profiles (j : Job) (h : ProfilesOk s) : ProfilesOk (moveLoad j s) := by
  have hmoved : ProfilesOk (match j.segment s.chans[j.chan] with
      | none => s
      | some g => s.setSal (writeSegment g (chunkOf j.key j.chunk s) s.sal)) := by
    split
    · exact h
    · exact h.ofPfs rfl
  unfold moveLoad
  dsimp only
  split
  · exact hmoved.ofPfs (completeBind_keeps _ _ _).2.2.1
  · exact hmoved.ofPfs rfl

theorem stopSave_profiles (j : Job) (h : ProfilesOk s) : ProfilesOk (stopSave j s) := by
  have hcompleted : ProfilesOk (completeRelease j.chan .notSaved SaveReason.fault.code (some j.key)
      (setHead none s)) := h.ofPfs (by simp [setHead])
  unfold stopSave
  dsimp only
  refine recheck_profiles (enterFree_profiles _ ?_)
  split
  · exact hcompleted
  · exact emptyRecord_profiles _ hcompleted

/-- The saved profile is VALID and leads the recency list (R128). -/
theorem endSave_profiles (j : Job) (hr : s.pfs.recs[r].state ≠ .empty) (h : ProfilesOk s) :
    ProfilesOk (endSave j r s) := by
  have hsaved : ProfilesOk (((setHead none s).setRec r { s.pfs.recs[r] with state := .valid, boundChan := none }).setRecency
      (toFront r s.pfs.recency)) := h.lead rfl rfl rfl hr rfl
  exact recheck_profiles (enterFree_profiles _ (hsaved.ofPfs (by simp)))

theorem moveSave_profiles (j : Job) (h : ProfilesOk s) : ProfilesOk (moveSave j s) := by
  unfold moveSave
  split
  · next g r _ hf =>
    have hread : ProfilesOk (applyCorrections j.chan (readSegment s.sal g) s) := h.ofPfs (by simp)
    have hwritten (cs : Vector (List Word) 9) : ProfilesOk ((applyCorrections j.chan (readSegment s.sal g) s).setRec r
        { (applyCorrections j.chan (readSegment s.sal g) s).pfs.recs[r] with chunks := cs }) := hread.setRec rfl rfl
    dsimp only
    split
    · exact stopSave_profiles _ hread
    · split
      · refine endSave_profiles _ ?_ (hwritten _)
        rw [State.setRec_pfs, getElem_set_same, (applyCorrections_keeps _ _ _).2.1]
        exact (findProfile_some hf).1
      · exact (hwritten _).ofPfs rfl
  · exact h

theorem lineFrameStart_profiles (h : ProfilesOk s) : ProfilesOk (lineFrameStart s) := by
  have hdue : ProfilesOk (s.setHwi { s.hwi with frameDue := false }) := h.ofPfs rfl
  unfold lineFrameStart
  split
  · dsimp only
    split
    · exact hdue
    · split
      · split
        · exact moveLoad_profiles _ hdue
        · exact moveSave_profiles _ hdue
      · exact hdue
  · exact h

theorem expireWait_profiles (e : WaitEntry) (h : ProfilesOk s) : ProfilesOk (expireWait s e) :=
  enterFree_profiles _ (h.ofPfs (by simp))

theorem waitDeadline_profiles (h : ProfilesOk s) : ProfilesOk (waitDeadline s) := by
  unfold waitDeadline
  split
  · exact h
  · next es _ =>
    exact recheck_profiles (List.foldlRecOn _ expireWait h fun _ hu e _ => expireWait_profiles e hu)

/-! ### RELEASE and BIND (R81–R89, R124, R127) -/

/-- A save begins on the record of its key, or on another one where the key has none (Table 7-3). -/
theorem saveDecision_record (h : saveDecision c k s = .ok r) : ∃ key,
    (s.chans[c].bound <|> s.chans[c].learn) = some key ∧
      (findProfile key s = some r ∨ findProfile key s = none) := by
  cases hb : s.chans[c].bound with
  | some key =>
    rw [saveDecision_bound hb] at h
    refine ⟨key, rfl, .inl ?_⟩
    cases hf : findProfile key s with
    | none =>
      rw [hf] at h
      cases h
    | some r' =>
      rw [hf] at h
      dsimp only at h
      split at h
      · cases h
      · rw [← Except.ok.inj h]
  | none =>
    cases hl : s.chans[c].learn with
    | none =>
      rw [saveDecision, hb, hl] at h
      cases h
    | some key =>
      rw [saveDecision_learn hb hl] at h
      refine ⟨key, rfl, ?_⟩
      cases hf : findProfile key s with
      | none => exact .inr rfl
      | some r' =>
        rw [hf] at h
        dsimp only at h
        split at h
        · cases h
        · exact .inl (by rw [← Except.ok.inj h])

theorem beginSave_profiles (hr : saveDecision c k s = .ok r) (h : ProfilesOk s) : ProfilesOk (beginSave c r s) := by
  obtain ⟨key, hkey, hf⟩ := saveDecision_record hr
  rw [beginSave_eq hkey]
  exact h.leave rfl rfl nofun fun _ => keyFree_of_findProfile h.apart hf

theorem releaseSaving_profiles (rq : Request) (h : ProfilesOk s) : ProfilesOk (releaseSaving rq s).1 := by
  have hended : ProfilesOk (releaseEnded rq s) := h.ofPfs (by simp [releaseEnded])
  rw [releaseSaving_eq]
  dsimp only
  split
  · next r hr => exact beginSave_profiles hr hended
  · exact recheck_profiles (enterFree_profiles _ (hended.ofPfs (by simp)))

theorem endForRelease_pfs (c : Chan) (s : State) : (endForRelease c s).pfs = s.pfs := by
  unfold endForRelease
  split <;> simp

theorem releaseChan_profiles (rq : Request) (h : ProfilesOk s) : ProfilesOk (releaseChan rq s).1 := by
  have hlock : ProfilesOk (endOwnLock rq.chan rq.ctl s) := h.ofPfs (by simp)
  unfold releaseChan releaseNow
  dsimp only
  split
  · exact releaseSaving_profiles rq hlock
  · dsimp only
    exact recheck_profiles (enterFree_profiles _ (hlock.ofPfs (endForRelease_pfs _ _)))

theorem recordBind_profiles (rq : Request) (link : Option Tag) (h : ProfilesOk s) :
    ProfilesOk (recordBind rq link s) := by
  rw [recordBind_eq]
  split
  · exact h.ofPfs rfl
  · split
    · exact ProfilesOk.setRec (h.ofPfs rfl) rfl rfl
    · exact h.ofPfs rfl

theorem bindRoom_profiles (rq : Request) (h : ProfilesOk s) : ProfilesOk (bindRoom rq s).1 := by
  have hdeferred : ProfilesOk (makeDeferred rq s) := h.ofPfs rfl
  unfold bindRoom bindAtOnce
  dsimp only
  split
  · split
    · exact grant_profiles _ _ _ (recordBind_profiles _ _ hdeferred)
    · exact grant_profiles _ _ _ (recordBind_profiles _ _ h)
  · split
    · exact h
    · split
      · exact h
      · exact (recordBind_profiles rq (some rq.tag) hdeferred).ofPfs rfl

/-! ### DETACH, SET DEFAULTS and the channel requests (R94, R97, R98, R152, R174) -/

theorem detachLock_profiles (k : Ctl) (h : ProfilesOk s) : ProfilesOk (detachLock k s) := by
  unfold detachLock
  split
  · exact h
  · next l _ =>
    have hdropped : ProfilesOk (dropFill l (unholdChan l s)) := dropFill_profiles l (h.ofPfs (by simp))
    exact hdropped.ofPfs rfl

theorem detachChan_profiles (k : Ctl) (c : Chan) (h : ProfilesOk s) : ProfilesOk (detachChan k s c) := by
  unfold detachChan
  split
  · split
    · exact enterFree_profiles _ (h.ofPfs rfl)
    · exact h.ofPfs (by simp)
  · exact h

theorem emptied_pfs (k : Ctl) (s : State) : (emptyFifo k (dropHoldings k s)).pfs = s.pfs := rfl

theorem detachCtl_profiles (k : Ctl) (h : ProfilesOk s) : ProfilesOk (detachCtl k s) := by
  have hlock : ProfilesOk (detachLock k (discardDeferred k (s.setCbi
      { s.cbi with attached := s.cbi.attached.set k false }))) := detachLock_profiles k (h.ofPfs rfl)
  have hchans := List.foldlRecOn (List.finRange 32) (detachChan k) hlock fun _ hu c _ => detachChan_profiles k c hu
  exact recheck_profiles (hchans.ofPfs (emptied_pfs _ _))

theorem installPart_profiles (n : Nat) (ws : List Word) (h : ProfilesOk s) : ProfilesOk (installPart n ws s) := by
  unfold installPart
  split
  · have hset : ProfilesOk (s.setBtl { s.btl with part0 := zeroOf ws }) := h.ofPfs rfl
    exact List.foldlRecOn (List.finRange 4) (fun u k => expireLock k u) hset fun _ hu k _ => expireLock_profiles k hu
  · exact h.ofPfs rfl

theorem setFar_profiles (c : Chan) (far bulk : Nat) (h : ProfilesOk s) : ProfilesOk (setFar c far bulk s) := by
  have hset : ProfilesOk (farSet c far bulk s) := h.ofPfs rfl
  rw [setFar_eq]
  split
  · exact hset
  · exact recheck_profiles hset

theorem adoptChan_profiles (c : Chan) (k : Ctl) (h : ProfilesOk s) : ProfilesOk (adoptChan c k s) := by
  have hadopted : ProfilesOk ((s.setSal (credit (some k) s.chans[c].segs.length s.chans[c].pages.length s.sal)).setChan c
      { s.chans[c] with owner := some k }) := h.ofPfs rfl
  exact recheck_profiles hadopted

end Sys2Proof.Machine
end

section
/-! Every command keeps the laws of the profile store (R121, R123). -/

namespace Sys2Proof.Machine

variable {c : Chan} {k : Ctl} {r : Rec} {key : Key} {rq : Request} {q : Profile} {s t : State}

/-! ### The profile requests (R129, R137–R141) -/

/-- A fill begins on the record of its key, or on another one where the key has none (R137). -/
theorem placeFill_profiles (d : Descriptor) (hf : KeyFree (some key) r s) (h : ProfilesOk s) :
    ProfilesOk (placeFill r key d s) := h.leave rfl rfl nofun fun _ => hf

theorem invalidate_profiles (c : Chan) (key : Key) (h : ProfilesOk s) : ProfilesOk (invalidate c key s) := by
  by_cases hc : s.chans[c].state = .releasing
  · rw [invalidate_releasing hc]
    exact enterFree_profiles _ (h.ofPfs (by simp))
  · rw [invalidate_serving hc]
    exact h.ofPfs rfl

/-- An invalidation changes no state and no key of a record (R129). -/
theorem invalidate_recs (c : Chan) (key : Key) (s : State) (r : Rec) :
    (invalidate c key s).pfs.recs[r].state = s.pfs.recs[r].state ∧
      (invalidate c key s).pfs.recs[r].key = s.pfs.recs[r].key := by
  by_cases hc : s.chans[c].state = .releasing
  · rw [invalidate_releasing hc, enterFree_recs, (completeRelease_keeps _ _ _ _ _).2.2.1]
    split <;> exact ⟨rfl, rfl⟩
  · rw [invalidate_serving hc]
    exact ⟨rfl, rfl⟩

theorem beginFill_profiles (d : Descriptor) (hf : KeyFree (some key) r s) (h : ProfilesOk s) :
    ProfilesOk (beginFill r key d s) := by
  have hplaced (c : Chan) : ProfilesOk (placeFill r key d (invalidate c key s)) := by
    refine placeFill_profiles d (fun r' hne hs => ?_) (invalidate_profiles c key h)
    obtain ⟨hstate, hkey⟩ := invalidate_recs c key s r'
    rw [hstate] at hs
    rw [hkey]
    exact hf r' hne hs
  unfold beginFill
  split
  · exact placeFill_profiles d hf h
  · dsimp only
    split
    · exact recheck_profiles (hplaced _)
    · exact hplaced _

theorem storeProfile_profiles (rq : Request) (h : ProfilesOk s) : ProfilesOk (storeProfile rq s).1 := by
  unfold storeProfile
  dsimp only
  split
  · exact h
  · cases hfr : findProfile rq.key s <|> recordFor s with
    | none => exact h
    | some r =>
      have hfound : findProfile rq.key s = some r ∨ findProfile rq.key s = none := by
        cases hf : findProfile rq.key s with
        | none => exact .inr rfl
        | some r' =>
          rw [hf] at hfr
          exact .inl hfr
      have hfilled := beginFill_profiles (rq.descriptor 2) (keyFree_of_findProfile h.apart hfound) h
      exact hfilled.ofPfs (markerEffect_keeps _ _ _ _ _).2.2.1

theorem storeTaps_profiles (rq : Request) (h : ProfilesOk s) : ProfilesOk (storeTaps rq s).1 := by
  unfold storeTaps
  split
  · exact h
  · next r hf =>
    obtain ⟨hstate, hkey, -⟩ := writeChunk_keeps rq s.pfs.recs[r]
    have hwritten : ProfilesOk (s.setRec r (writeChunk rq s.pfs.recs[r])) := h.setRec hstate hkey
    dsimp only
    split
    · exact h
    · split
      · exact hwritten.ofPfs (by simp)
      · split
        · rw [completeFill_setRec]
          refine ProfilesOk.ofPfs (s := { s with pfs := _ }) ?_ (endLock_keeps _ _).2.2.1
          exact h.lead rfl rfl rfl (findProfile_some hf).1 hkey
        · exact (emptyRecord_profiles r hwritten).ofPfs (by simp)

/-- A VALID profile that is read leads the recency list (R139). -/
theorem touch_profiles (r : Rec) (h : ProfilesOk s) : ProfilesOk (touch r s) := by
  unfold touch
  split
  · next hv => exact h.lead (r := r) (q := s.pfs.recs[r]) (by simp) rfl hv (by rw [hv]; decide) rfl
  · exact h

theorem readProfile_profiles (rq : Request) (h : ProfilesOk s) : ProfilesOk (readProfile rq s).1 := by
  unfold readProfile
  split
  · exact h
  · next r _ => exact (touch_profiles r h).ofPfs (markerEffect_keeps _ _ _ _ _).2.2.1

theorem readProfileTaps_profiles (rq : Request) (h : ProfilesOk s) : ProfilesOk (readProfileTaps rq s).1 := by
  unfold readProfileTaps
  split
  · exact h
  · refine checked_inv ProfilesOk _ _ s (fun _ => ?_) h
    dsimp only
    refine ProfilesOk.ofPfs ?_ (markerEffect_keeps _ _ _ _ _).2.2.1
    split
    · exact h
    · unfold readLive
      split
      · exact h
      · exact h.ofPfs (by simp)

theorem dropProfile_profiles (rq : Request) (h : ProfilesOk s) : ProfilesOk (dropProfile rq s).1 := by
  unfold dropProfile
  split
  · exact h
  · exact checked_inv ProfilesOk _ _ s (fun _ => emptyRecord_profiles _ h) h

theorem readChunk_pfs (c : Chan) (g : Seg) (s : State) : (readChunk c g s).1.pfs = s.pfs := by
  unfold readChunk
  dsimp only
  split
  · simp
  · split <;> simp

theorem readTaps_profiles (rq : Request) (h : ProfilesOk s) : ProfilesOk (readTaps rq s).1 := by
  refine checked_inv ProfilesOk _ _ s (fun _ => ?_) h
  dsimp only
  refine ProfilesOk.ofPfs ?_ (markerEffect_keeps _ _ _ _ _).2.2.1
  split
  · exact h
  · exact h.ofPfs (readChunk_pfs _ _ s)

theorem writeTaps_profiles (rq : Request) (h : ProfilesOk s) : ProfilesOk (writeTaps rq s).1 := by
  refine checked_inv ProfilesOk _ _ s (fun _ => ?_) h
  dsimp only
  refine ProfilesOk.ofPfs ?_ (markerEffect_keeps _ _ _ _ _).2.2.1
  split
  · exact h
  · exact h.ofPfs rfl

/-! ### The response stage (R166, R167) -/

/-- A request command keeps the laws where its block does. -/
theorem takeRequest_profiles {mine : Request → Bool} {own : Request → State → State × Answer}
    (hown : ∀ rq, ProfilesOk (own rq s).1) (h : ProfilesOk s) : ProfilesOk (takeRequest mine own s) :=
  takeRequest_inv ProfilesOk (fun _ _ hu => hu.ofPfs rfl) mine own s (fun rq _ _ => hown rq) h

/-- So does a request that runs behind checks. -/
theorem takeChecked_profiles {mine : Request → Bool} {checks : Request → State → List (Bool × Answer)}
    {effect : Request → State → State × Answer} (heffect : ∀ rq, ProfilesOk (effect rq s).1) (h : ProfilesOk s) :
    ProfilesOk (takeRequest mine (fun rq s => checked (checks rq s) (effect rq) s) s) :=
  takeRequest_profiles (fun rq => checked_inv ProfilesOk _ _ s (fun _ => heffect rq) h) h

/-- So does one that runs behind the lock step. -/
theorem lockedRequest_profiles {early : List (Bool × Answer)} {obj : LockObj} {oc : Option Answer}
    {mismatch : Lock → Bool} {lock : State → State × Option Answer} {rest : State → State × Answer}
    (hlock : lock s = lockStep rq obj oc mismatch s) (hrest : ∀ {u}, ProfilesOk u → ProfilesOk (rest u).1)
    (h : ProfilesOk s) : ProfilesOk (lockedRequest early lock rest s).1 := by
  have hstep : ProfilesOk (lock s).1 := by
    rw [hlock]
    exact h.ofPfs (by simp)
  exact lockedRequest_inv ProfilesOk early lock rest s hstep (fun _ _ => hrest hstep) h

/-! ### Every command -/

/-- Every command has a next state, and it keeps the laws. -/
theorem exec_profiles (i : Instr) (h : ProfilesOk s) : ∃ t, exec i s = .next t ∧ ProfilesOk t := by
  have hreset (u : State) : ProfilesOk (partReset u) := reset_profiles.ofPfs rfl
  cases i with
  | powerOn => exact ⟨_, rfl, reset_profiles.ofPfs rfl⟩
  | resetAsserted => exact ⟨_, rfl, h.ofPfs rfl⟩
  | timebaseTick => exact ⟨_, rfl, by split <;> exact h.ofPfs rfl⟩
  | bootLoadEnd nack image => exact ⟨_, rfl, bootLoadEnd_profiles nack image h⟩
  | frameSyncPulse g n => exact ⟨_, rfl, h.ofPfs (framePulse_core g n s).pfs⟩
  | missingSync g =>
    refine ⟨_, exec_missingSync g s, ?_⟩
    split
    · exact h.ofPfs (loseSync_core _ _ _).pfs
    · exact h
  | clockStopped g =>
    refine ⟨_, exec_clockStopped g s, ?_⟩
    split
    · exact h.ofPfs (loseSync_core _ _ _).pfs
    · exact h
  | syncSearchTimeout g =>
    refine ⟨_, exec_syncSearchTimeout g s, ?_⟩
    split
    · exact h.ofPfs (setSync_core _ _ _).pfs
    · exact h
  | lineCodeArrives n code =>
    refine ⟨_, rfl, ?_⟩
    rcases lineCode_served n code s with hcore | ⟨c, -, hserved⟩
    · exact h.ofPfs hcore.pfs
    · exact h.ofPfs hserved.pfs
  | modemPairArrives c x d =>
    refine ⟨_, rfl, ?_⟩
    rcases modemPair_served c x d s with hcore | ⟨-, hserved⟩
    · exact h.ofPfs hcore.pfs
    · exact h.ofPfs hserved.pfs
  | lineOutputSend n => exact ⟨_, rfl, h.ofPfs (lineSend_core n s).pfs⟩
  | modemOutputSend c => exact ⟨_, rfl, h.ofPfs rfl⟩
  | lineFrameStart => exact ⟨_, rfl, lineFrameStart_profiles h⟩
  | waitDeadline => exact ⟨_, rfl, waitDeadline_profiles h⟩
  | lockExpiry k => exact ⟨_, rfl, expireLock_profiles k h⟩
  | eventHoldReached k => exact ⟨_, rfl, by split <;> exact h.ofPfs rfl⟩
  | requestLaneGrant raised => exact ⟨_, rfl, h.ofPfs (laneGrant_core raised s).pfs⟩
  | requestWordStrobe data parity => exact ⟨_, rfl, h.ofPfs (receiveWord_core data parity s).pfs⟩
  | recordAbandoned =>
    refine ⟨_, rfl, ?_⟩
    split
    · exact h
    · split <;> exact h.ofPfs rfl
  | sendResponse =>
    refine ⟨_, rfl, ?_⟩
    rcases sendResponse_core s with hcore | ⟨u, hu⟩
    · exact h.ofPfs hcore.pfs
    · rw [hu]
      exact hreset u
  | sendCompletion => exact ⟨_, rfl, h.ofPfs (sendCompletion_core s).pfs⟩
  | partResetEffect =>
    refine ⟨_, rfl, ?_⟩
    split
    · exact h
    · next rq a _ =>
      split
      · rcases sendHead_core rq a s with hcore | ⟨u, hu⟩
        · exact h.ofPfs hcore.pfs
        · rw [hu]
          exact hreset u
      · exact h
  | parityFailedRequest =>
    refine ⟨_, rfl, ?_⟩
    split
    · exact h
    · split
      · exact h
      · split <;> exact h.ofPfs rfl
  | unknownRequestKind => exact ⟨_, rfl, takeRequest_profiles (fun _ => h) h⟩
  | attach =>
    refine ⟨_, rfl, takeChecked_profiles (fun rq => ?_) h⟩
    unfold attachCtl
    split <;> exact h.ofPfs rfl
  | detach =>
    refine ⟨_, rfl, takeRequest_profiles (fun rq => checked_inv ProfilesOk _ _ s (fun _ => ?_) h) h⟩
    split
    · dsimp only
      exact detachCtl_profiles _ h
    · exact h
  | openService => exact ⟨_, rfl, takeChecked_profiles (fun _ => h.ofPfs rfl) h⟩
  | closeService => exact ⟨_, rfl, takeChecked_profiles (fun _ => h.ofPfs rfl) h⟩
  | queryPart => exact ⟨_, rfl, takeChecked_profiles (fun _ => h) h⟩
  | partReset => exact ⟨_, rfl, takeChecked_profiles (fun _ => h.ofPfs rfl) h⟩
  | setDefaults => exact ⟨_, rfl, takeChecked_profiles (fun _ => installPart_profiles _ _ h) h⟩
  | readDefaults => exact ⟨_, rfl, takeChecked_profiles (fun _ => h) h⟩
  | bind => exact ⟨_, rfl, takeChecked_profiles (fun rq => bindRoom_profiles rq h) h⟩
  | release => exact ⟨_, rfl, takeChecked_profiles (fun rq => releaseChan_profiles rq h) h⟩
  | trainEcho => exact ⟨_, rfl, takeChecked_profiles (fun rq => h.ofPfs (by simp [startTraining])) h⟩
  | trainEqualizer => exact ⟨_, rfl, takeChecked_profiles (fun rq => h.ofPfs (by simp [startTraining])) h⟩
  | track =>
    refine ⟨_, rfl, takeChecked_profiles (fun rq => ?_) h⟩
    dsimp only
    split
    · exact h
    · exact h.ofPfs (by simp [trackChan])
  | freeze => exact ⟨_, rfl, takeChecked_profiles (fun _ => h.ofPfs rfl) h⟩
  | thaw => exact ⟨_, rfl, takeChecked_profiles (fun _ => h.ofPfs rfl) h⟩
  | restart => exact ⟨_, rfl, takeChecked_profiles (fun _ => h.ofPfs (by simp [restartChan])) h⟩
  | setFarWindow => exact ⟨_, rfl, takeChecked_profiles (fun _ => setFar_profiles _ _ _ h) h⟩
  | adopt =>
    refine ⟨_, rfl, takeRequest_profiles (fun rq => checked_inv ProfilesOk _ _ s (fun _ => ?_) h) h⟩
    dsimp only
    split
    · exact h
    · exact adoptChan_profiles _ _ h
  | queryChannel => exact ⟨_, rfl, takeChecked_profiles (fun _ => h) h⟩
  | queryStore => exact ⟨_, rfl, takeChecked_profiles (fun _ => h) h⟩
  | storeProfile =>
    exact ⟨_, rfl, takeRequest_profiles (fun rq => lockedRequest_profiles rfl (storeProfile_profiles rq) h) h⟩
  | storeProfileTaps =>
    exact ⟨_, rfl, takeRequest_profiles (fun rq => lockedRequest_profiles rfl (storeTaps_profiles rq) h) h⟩
  | readProfile =>
    exact ⟨_, rfl, takeRequest_profiles (fun rq => lockedRequest_profiles rfl (readProfile_profiles rq) h) h⟩
  | readProfileTaps =>
    exact ⟨_, rfl, takeRequest_profiles (fun rq => lockedRequest_profiles rfl (readProfileTaps_profiles rq) h) h⟩
  | dropProfile => exact ⟨_, rfl, takeChecked_profiles (fun rq => dropProfile_profiles rq h) h⟩
  | listProfiles => exact ⟨_, rfl, takeChecked_profiles (fun _ => h) h⟩
  | readTaps =>
    exact ⟨_, rfl, takeRequest_profiles (fun rq => lockedRequest_profiles rfl (readTaps_profiles rq) h) h⟩
  | writeTaps =>
    exact ⟨_, rfl, takeRequest_profiles (fun rq => lockedRequest_profiles rfl (writeTaps_profiles rq) h) h⟩
  | fetchEvents => exact ⟨_, rfl, takeChecked_profiles (fun _ => h.ofPfs rfl) h⟩
  | setEventTrigger => exact ⟨_, rfl, takeChecked_profiles (fun _ => h.ofPfs rfl) h⟩

end Sys2Proof.Machine

open Sys2Proof Sys2Proof.Machine

/-- Settles O6: a record leaves the recency list when it stops being VALID, leads it when it becomes VALID or is used, and
takes a key that no other record in use holds. -/
theorem stepsKeepTheProfileStore : Obligations.StepsKeepTheProfileStore := by
  intro s t h ht
  unfold step at ht
  split at ht
  · cases ht
    exact h
  · next i rest _ =>
    obtain ⟨u, hu, hkept⟩ := exec_profiles i (s := { s with pending := rest }) (h.ofPfs rfl)
    rw [hu] at ht
    cases ht
    exact hkept
end


section
/-! The expiry of a lock (R138, R152). -/

namespace Sys2Proof.Machine

variable {k : Ctl} {l : Lock} {r : Rec} {s t : State}

/-- The record that a fill drops depends on the profile store alone. -/
theorem dropsFill_congr (hp : t.pfs = s.pfs) : DropsFill l r t ↔ DropsFill l r s := by
  simp only [DropsFill, findProfile, hp]

theorem unholdChan_pfs (l : Lock) (s : State) : (unholdChan l s).pfs = s.pfs := (unholdChan_keeps l s).2.2.1

theorem emptyRecord_pfs (r : Rec) (s : State) : (emptyRecord r s).pfs =
    { recs := s.pfs.recs.set r emptyProfile, recency := s.pfs.recency.filter (· != r) } := by
  unfold emptyRecord
  cases s.pfs.recs[r].boundChan <;> rfl

/-! ### What a broken lock leaves -/

theorem breakLock_locks (k : Ctl) (l : Lock) (s : State) :
    (breakLock k l s).locks = s.locks.set k (some { l with active := false, held := none }) := by
  simp [breakLock]

theorem breakLock_pfs (k : Ctl) (l : Lock) (s : State) :
    (breakLock k l s).pfs = (dropFill l (unholdChan l s)).pfs := by
  simp [breakLock]

theorem breakLock_chans (k : Ctl) (l : Lock) (s : State) :
    (breakLock k l s).chans = (dropFill l (unholdChan l s)).chans := by
  simp [breakLock]

/-- LOCK BROKEN goes to the holder (R152, R179). -/
theorem breakLock_placed (k : Ctl) (l : Lock) (s : State) :
    Placed k { kind := .lockBroken, chan := l.held, detail := word l.purpose.code, posted := s.btl.timebase } s
      (breakLock k l s) := by
  have hplaced := postTo_placed k .lockBroken l.held l.purpose.code (dropFill l (unholdChan l s))
  have hbtl : (dropFill l (unholdChan l s)).btl = s.btl := by simp
  rw [hbtl] at hplaced
  exact hplaced.congr (by simp) (by simp) hbtl.symm rfl

theorem breakLock_fifos_other {j : Ctl} (hj : j ≠ k) (l : Lock) (s : State) :
    (breakLock k l s).fifos[j] = s.fifos[j] := by
  rw [breakLock, State.setLock_fifos, postTo_fifos_other (Ne.symm hj)]
  simp

theorem breakLock_rest (k : Ctl) (l : Lock) (s : State) :
    { breakLock k l s with locks := s.locks, fifos := s.fifos, pfs := s.pfs, chans := s.chans } = s := by
  obtain ⟨hhwi, hsal, hjobs, hcbi, hbtl, hfree, hpending⟩ := breakLock_keeps k l s
  dsimp only
  rw [hhwi, hsal, hjobs, hcbi, hbtl, hfree, hpending]

/-- A lock that is no fill of a profile leaves the records, and LOCK leaves its channel. -/
theorem breakLock_unfilled (h : ∀ r, ¬ DropsFill l r s) : (breakLock k l s).pfs = s.pfs ∧
    ∀ c : Chan, (breakLock k l s).chans[c] =
      if l.held = some c then { s.chans[c] with lock := false } else s.chans[c] := by
  have hdrop : dropFill l (unholdChan l s) = unholdChan l s :=
    dropFill_none fun r => mt (dropsFill_congr (unholdChan_pfs l s)).1 (h r)
  rw [breakLock_pfs, breakLock_chans, hdrop]
  exact ⟨unholdChan_pfs l s, unholdChan_chan l s⟩

/-- A fill's record becomes EMPTY and its channel loses it (R122, R138). -/
theorem breakLock_filled (h : DropsFill l r s) :
    (breakLock k l s).pfs = { recs := s.pfs.recs.set r emptyProfile, recency := s.pfs.recency.filter (· != r) } ∧
      ∀ c : Chan, (breakLock k l s).chans[c] = { s.chans[c] with
        lock := if l.held = some c then false else s.chans[c].lock
        bound := if s.pfs.recs[r].boundChan = some c then none else s.chans[c].bound } := by
  have hpfs := unholdChan_pfs l s
  rw [breakLock_pfs, breakLock_chans, dropFill_some ((dropsFill_congr hpfs).2 h), emptyRecord_pfs, hpfs]
  refine ⟨rfl, fun c => ?_⟩
  rw [emptyRecord_chan, unholdChan_chan, hpfs]
  by_cases hc : l.held = some c
  · simp only [if_pos hc]
  · simp only [if_neg hc]

/-! ### When a lock breaks (R152) -/

theorem expireLock_due (hl : s.locks[k] = some l) (ha : l.active = true)
    (ht : timeReached s l.last s.btl.part0.lockLimit = true) : expireLock k s = breakLock k l s := by
  have hdue : lockDue k s = some l := by
    rw [lockDue, hl, Option.filter_some, ha, ht]
    rfl
  rw [expireLock, hdue]

theorem expireLock_early (h : ∀ l, s.locks[k] = some l →
    l.active = false ∨ timeReached s l.last s.btl.part0.lockLimit = false) : expireLock k s = s := by
  have hdue : lockDue k s = none := by
    rw [lockDue, Option.filter_eq_none_iff]
    intro l hl
    rcases h l hl with hoff | hoff <;> rw [hoff]
    · nofun
    · rw [Bool.and_false]
      nofun
  rw [expireLock, hdue]

end Sys2Proof.Machine

open Sys2Proof Sys2Proof.Machine

/-- Settles O37: a due lock breaks, and what breaking it does is told by its fill, if it has one. -/
theorem lockBreaksAtItsLimit : Obligations.LockBreaksAtItsLimit := by
  refine ⟨fun k l s hl ha ht => ⟨breakLock k l s, ?_, breakLock_locks k l s, breakLock_placed k l s,
    fun j hj => breakLock_fifos_other hj l s, fun hno => breakLock_unfilled ?_, fun key r hp ho hf => ?_,
    breakLock_rest k l s⟩, fun k s h => ?_⟩
  · rw [← expireLock_due hl ha ht]
    rfl
  · rintro r ⟨key, hp, -, ho, hf⟩
    rcases hno with hpurpose | hnone
    · exact hpurpose hp
    · rw [hnone key ho] at hf
      cases hf
  · obtain ⟨hpfs, hchans⟩ := breakLock_filled (k := k) ⟨key, hp, ha, ho, hf⟩
    have hempty : (breakLock k l s).pfs.recs[r].state = .empty := by
      rw [hpfs, getElem_set_same]
      rfl
    exact ⟨hpfs, hchans, hempty, fun hfound => (findProfile_some hfound).1 hempty⟩
  · rw [show exec (.lockExpiry k) s = .next (expireLock k s) from rfl, expireLock_early h]
end


section
/-! The forms of the request kinds (R136, R144, R148, R160, R164, R189): each kind's block refuses a record that does not
suit it before it looks at anything else. -/

namespace Sys2Proof.Machine

variable {k : Kind} {n : Nat} {rq : Request} {s : State}

/-! ### The block of each kind -/

/-- The decision of the block that owns a kind, once the response stage has passed the request (R166). -/
def Kind.own : Kind → Request → State → State × Answer
  | .attach => ownAttach | .detach => ownDetach | .openService => ownOpenService | .closeService => ownCloseService
  | .queryPart => ownQueryPart | .partReset => ownPartReset | .setDefaults => ownSetDefaults
  | .readDefaults => ownReadDefaults | .bind => ownBind | .release => ownRelease | .trainEcho => ownTrainEcho
  | .trainEqualizer => ownTrainEqualizer | .track => ownTrack | .freeze => ownFreeze | .thaw => ownThaw
  | .restart => ownRestart | .setFarWindow => ownSetFarWindow | .adopt => ownAdopt | .queryChannel => ownQueryChannel
  | .queryStore => ownQueryStore | .storeProfile => ownStoreProfile | .storeProfileTaps => ownStoreProfileTaps
  | .readProfile => ownReadProfile | .readProfileTaps => ownReadProfileTaps | .dropProfile => ownDropProfile
  | .listProfiles => ownListProfiles | .readTaps => ownReadTaps | .writeTaps => ownWriteTaps
  | .fetchEvents => ownFetchEvents | .setEventTrigger => ownSetEventTrigger

theorem exec_command (k : Kind) (s : State) : exec k.command s = .next (takeRequest (isKind k) k.own s) := by
  cases k <;> rfl

/-- An admitted request is answered as its block decides. -/
theorem exec_admitted (h : Admitted k rq s) :
    exec k.command s = .next (answerFirst (k.own rq s).2 (k.own rq s).1) := by
  rw [exec_command, takeRequest_admitted h]

/-- So is an ATTACH from a detached controller, and a QUERY PART during the boot load (R167). -/
theorem exec_reaches (h : Admitted k rq s ∨ (k = .attach ∧ Reaches .attach rq s ∧ s.btl.status ≠ .loading) ∨
    (k = .queryPart ∧ Reaches .queryPart rq s)) :
    exec k.command s = .next (answerFirst (k.own rq s).2 (k.own rq s).1) := by
  rcases h with h | ⟨rfl, h, hbooted⟩ | ⟨rfl, h⟩
  · exact exec_admitted h
  · rw [exec_command, takeRequest_reaches h (fun hload => absurd hload hbooted) fun _ => .inl rfl]
  · rw [exec_command, takeRequest_reaches h (fun _ => rfl) fun _ => .inr rfl]

/-! ### The first check -/

/-- A request that fails an early check changes nothing, not even its lock (R136). -/
theorem lockedRequest_fail {early : List (Bool × Answer)} {a : Answer} (h : firstFail early = some a)
    (lock : State → State × Option Answer) (rest : State → State × Answer) :
    lockedRequest early lock rest s = (s, a) := by
  rw [lockedRequest, h]

theorem lockedRequest_first {b : Bool} (hb : b = true) (a : Answer) (l : List (Bool × Answer))
    (lock : State → State × Option Answer) (rest : State → State × Answer) :
    lockedRequest ((b, a) :: l) lock rest s = (s, a) :=
  lockedRequest_fail (by rw [hb]; rfl) lock rest

theorem lockedRequest_second {b c : Bool} (hb : b = false) (hc : c = true) (a₀ a : Answer)
    (l : List (Bool × Answer)) (lock : State → State × Option Answer) (rest : State → State × Answer) :
    lockedRequest ((b, a₀) :: (c, a) :: l) lock rest s = (s, a) :=
  lockedRequest_fail (by rw [hb, hc]; rfl) lock rest

/-- Each kind of one fixed length asks for its form first (R160, R164). -/
theorem own_badForm (hk : k.plainWords = some n) (hp : rq.plain n = false) :
    k.own rq s = (s, refused .badRequest) := by
  have hform : (!rq.plain n) = true := by rw [hp, Bool.not_false]
  cases k <;> cases hk <;>
    simp only [Kind.own, ownAttach, ownDetach, ownOpenService, ownCloseService, ownQueryPart, ownPartReset,
      ownReadDefaults, ownTrack, ownRestart, ownSetFarWindow, ownAdopt, ownSetEventTrigger] <;>
    refine checked_fail _ _ s _ ?_
  case readDefaults => exact if_pos (by rw [hform, Bool.or_true])
  case setEventTrigger => exact if_pos (by rw [hform, Bool.true_or])
  case release => exact if_pos (by rw [hp, Bool.false_and, Bool.not_false])
  all_goals exact if_pos hform

/-- SET DEFAULTS has 15 words of part 0 or 22 of part 1 behind the part number (R189). -/
theorem ownSetDefaults_badForm (h : rq.num 0 = 0 ∧ rq.plain 16 = false ∨ rq.num 0 = 1 ∧ rq.plain 23 = false) :
    ownSetDefaults rq s = (s, refused .badRequest) := by
  rw [ownSetDefaults]
  refine checked_fail _ _ s _ ?_
  refine if_pos ?_
  rcases h with ⟨hpart, hp⟩ | ⟨hpart, hp⟩ <;> rw [hpart, Bool.or_eq_true]
  · exact .inr (by rw [show 1 + partSize 0 = 16 from rfl, hp, Bool.not_false])
  · exact .inr (by rw [show 1 + partSize 1 = 23 from rfl, hp, Bool.not_false])

/-! ### The profile requests and the tap requests (R136, R144) -/

/-- A STORE PROFILE TAPS of suitable form: data under a CONTINUE or an END, or an END alone (R138). -/
def Request.fillForm (rq : Request) : Prop :=
  rq.length = 35 ∧ (rq.marker = .continue ∨ rq.marker = .ending) ∨ rq.length = 3 ∧ rq.marker = .ending

theorem fillForm_iff (rq : Request) : rq.fillForm ↔
    ((rq.length == 35 && (rq.marker == .continue || rq.marker == .ending))
      || (rq.length == 3 && rq.marker == .ending)) = true := by
  simp only [Request.fillForm, Bool.or_eq_true, Bool.and_eq_true, beq_iff_eq]

/-- The key is 0 or the chunk index above 8 (R136, R138). -/
theorem keyOrChunk_iff (rq : Request) :
    rq.key = 0 ∨ 8 < rq.num 2 ↔ (rq.key == 0 || decide (8 < rq.num 2)) = true := by
  rw [Bool.or_eq_true, beq_iff_eq, decide_eq_true_iff]

theorem ownStoreProfileTaps_badForm (h : ¬ rq.fillForm) :
    ownStoreProfileTaps rq s = (s, refused .badRequest) :=
  lockedRequest_first (by rw [Bool.not_eq_true', ← Bool.not_eq_true, ← fillForm_iff]; exact h) _ _ _ _

theorem ownStoreProfileTaps_outOfRange (hform : rq.fillForm) (h : rq.key = 0 ∨ 8 < rq.num 2) :
    ownStoreProfileTaps rq s = (s, refused .outOfRange) :=
  lockedRequest_second (by rw [Bool.not_eq_false', ← fillForm_iff]; exact hform) ((keyOrChunk_iff rq).1 h) _ _ _ _ _

theorem ownReadProfile_badForm (h : rq.length ≠ 2) : ownReadProfile rq s = (s, refused .badRequest) :=
  lockedRequest_first (bne_iff_ne.2 h) _ _ _ _

theorem ownReadProfile_outOfRange (hform : rq.length = 2) (h : rq.key = 0) :
    ownReadProfile rq s = (s, refused .outOfRange) :=
  lockedRequest_second (bne_eq_false_iff_eq.2 hform) (beq_iff_eq.2 h) _ _ _ _ _

theorem ownReadProfileTaps_badForm (h : rq.length ≠ 3) : ownReadProfileTaps rq s = (s, refused .badRequest) :=
  lockedRequest_first (bne_iff_ne.2 h) _ _ _ _

theorem ownReadProfileTaps_outOfRange (hform : rq.length = 3) (h : rq.key = 0 ∨ 8 < rq.num 2) :
    ownReadProfileTaps rq s = (s, refused .outOfRange) :=
  lockedRequest_second (bne_eq_false_iff_eq.2 hform) ((keyOrChunk_iff rq).1 h) _ _ _ _ _

theorem ownDropProfile_outOfRange (hform : rq.plain 2 = true) (h : rq.key = 0) :
    ownDropProfile rq s = (s, refused .outOfRange) :=
  checked_fail _ _ s _ (by rw [hform, h]; rfl)

theorem ownReadTaps_badForm (h : rq.length ≠ 3) : ownReadTaps rq s = (s, refused .badRequest) :=
  lockedRequest_first (by rw [beq_eq_false_iff_ne.2 h, Bool.not_false]) _ _ _ _

theorem ownWriteTaps_badForm (h : rq.length ≠ 35) : ownWriteTaps rq s = (s, refused .badRequest) :=
  lockedRequest_first (by rw [beq_eq_false_iff_ne.2 h, Bool.not_false]) _ _ _ _

/-- A block's decision is what its command leaves. -/
theorem exec_answered {t : State} {a : Answer} (h : Admitted k rq s) (hown : k.own rq s = (t, a)) :
    exec k.command s = .next (answerFirst a t) := by
  rw [exec_admitted h, hown]

end Sys2Proof.Machine

open Sys2Proof Sys2Proof.Machine

/-- Settles O46: the form is the first check of each block, and the range of a key and a chunk index the second. -/
theorem unsuitableFormIsBadRequest : Obligations.UnsuitableFormIsBadRequest := by
  refine ⟨fun k n rq s hk hp h => ?_,
    fun rq s h hform => exec_answered h (ownSetDefaults_badForm hform), fun rq s => ?_⟩
  · rw [exec_reaches h, own_badForm hk hp]
  · intro filling
    exact ⟨
      fun h => ⟨fun hf => exec_answered h (ownStoreProfileTaps_badForm hf),
        fun hf hr => exec_answered h (ownStoreProfileTaps_outOfRange hf hr)⟩,
      fun h => ⟨fun hf => exec_answered h (ownReadProfile_badForm hf),
        fun hf hr => exec_answered h (ownReadProfile_outOfRange hf hr)⟩,
      fun h => ⟨fun hf => exec_answered h (ownReadProfileTaps_badForm hf),
        fun hf hr => exec_answered h (ownReadProfileTaps_outOfRange hf hr)⟩,
      fun h hf hr => exec_answered h (ownDropProfile_outOfRange hf hr),
      fun h hf => exec_answered h (ownReadTaps_badForm hf),
      fun h hf => exec_answered h (ownWriteTaps_badForm hf)⟩
end

section
/-! What the lock step and the markers of a request leave, case by case (R148–R150). -/

namespace Sys2Proof.Machine

variable {rq : Request} {obj : LockObj} {oc : Option Answer} {mismatch : Lock → Bool} {s : State} {k : Ctl} {l : Lock}

/-! ### The lock step of a BEGIN (R149) -/

theorem lockStep_begin_idle (hm : rq.marker = .begin) (h : ∀ l, s.locks[rq.ctl] = some l → l.active = false) :
    lockStep rq obj oc mismatch s = (unbroken rq s, oc) := by
  rw [lockStep, hm, unbroken, if_pos hm]
  cases hl : s.locks[rq.ctl] with
  | none => rw [locks_set_none hl]
  | some l =>
    dsimp only
    rw [h l hl]
    rfl

theorem lockStep_begin_active (hm : rq.marker = .begin) (hl : s.locks[rq.ctl] = some l) (ha : l.active = true) :
    lockStep rq obj oc mismatch s = (s, some (refused .lockHeld)) := by
  rw [lockStep, hm]
  dsimp only
  rw [hl]
  exact if_pos ha

/-! ### The lock step of a CONTINUE or an END (R150) -/

theorem lockStep_unlocked (hm : rq.marker = .continue ∨ rq.marker = .ending) (hl : s.locks[rq.ctl] = none) :
    lockStep rq obj oc mismatch s = (s, some (refused .notLocked)) := by
  rcases hm with hm | hm <;> simp only [lockStep, hm, hl]

theorem lockStep_broken (hm : rq.marker = .continue ∨ rq.marker = .ending) (hl : s.locks[rq.ctl] = some l)
    (ha : l.active = false) :
    lockStep rq obj oc mismatch s = ({ s with locks := s.locks.set rq.ctl none }, some (refused .lockBroken)) := by
  rcases hm with hm | hm <;> simp only [lockStep, hm, hl, ha, Bool.not_false, if_true] <;> rfl

theorem lockStep_mismatch (hm : rq.marker = .continue ∨ rq.marker = .ending) (hl : s.locks[rq.ctl] = some l)
    (ha : l.active = true) (ho : l.obj ≠ obj ∨ mismatch l = true) :
    lockStep rq obj oc mismatch s = (s, some (refused .lockHeld)) := by
  have hbad : (l.obj != obj || mismatch l) = true := by rwa [Bool.or_eq_true, bne_iff_ne]
  rcases hm with hm | hm <;>
    simp only [lockStep, hm, hl, ha, hbad, Bool.not_true, Bool.false_eq_true, if_false, if_true]

theorem lockStep_own (hm : rq.marker = .continue ∨ rq.marker = .ending) (hl : s.locks[rq.ctl] = some l)
    (ha : l.active = true) (ho : l.obj = obj) (hmis : mismatch l = false) :
    lockStep rq obj oc mismatch s = (s, none) := by
  have hgood : (l.obj != obj || mismatch l) = false := by rw [hmis, Bool.or_false, bne_eq_false_iff_eq, ho]
  rcases hm with hm | hm <;>
    simp only [lockStep, hm, hl, ha, hgood, Bool.not_true, Bool.false_eq_true, if_false]

/-- A request whose early checks pass is answered as its lock step says when that does not pass (R136). -/
theorem lockedRequest_stopped {early : List (Bool × Answer)} {lock : State → State × Option Answer} {t : State}
    {a : Answer} (h : firstFail early = none) (hl : lock s = (t, some a)) (rest : State → State × Answer) :
    lockedRequest early lock rest s = (t, a) := by
  rw [lockedRequest, h]
  dsimp only
  rw [hl]

/-! ### The markers (R149, R150) -/

theorem markerEffect_begun (hm : rq.marker = .begin) (p : Purpose) : markerEffect rq obj p none s =
    s.setLock rq.ctl (some { obj, purpose := p, active := true, last := s.btl.timebase, held := none }) := by
  rw [markerEffect, hm]

theorem markerEffect_renewed (hm : rq.marker = .continue) (hl : s.locks[rq.ctl] = some l) (p : Purpose)
    (held : Option Chan) :
    markerEffect rq obj p held s = s.setLock rq.ctl (some { l with last := s.btl.timebase }) := by
  rw [markerEffect, hm]
  dsimp only
  rw [hl]

/-- The channels once an entry has left its own (R150, R152). -/
def chansUnheld (l : Lock) (s : State) : Vector Context 32 :=
  match l.held with
  | none => s.chans
  | some c => s.chans.set c { s.chans[c] with lock := false }

theorem endLock_held (hl : s.locks[k] = some l) :
    endLock k s = { s with locks := s.locks.set k none, chans := chansUnheld l s } := by
  rw [endLock_some hl, lockGone, unholdChan, chansUnheld]
  cases l.held <;> rfl

/-- An END of a fill's lock beside the change of its record (R138). -/
theorem endLock_setPfs (hl : s.locks[k] = some l) (q : Pfs) : endLock k { s with pfs := q } =
    { s with pfs := q, locks := s.locks.set k none, chans := chansUnheld l s } :=
  endLock_held (s := { s with pfs := q }) hl

end Sys2Proof.Machine
end

section
/-! What is looked up in the profile store: a key's profile, its channel and its loads, and the record a new key takes
(R121, R124, R125). -/

namespace Sys2Proof.Machine

variable {s : State} {key : Key} {r : Rec}

/-! ### The first and the last of a list -/

theorem find?_finRange {n : Nat} {p : Fin n → Bool} {i : Fin n} (hi : p i = true) (hlow : ∀ j < i, p j = false) :
    (List.finRange n).find? p = some i := by
  rw [List.find?_eq_some_iff_getElem]
  refine ⟨hi, i.val, by simp, by simp, fun j hj => ?_⟩
  rw [List.getElem_finRange, Bool.not_eq_true']
  exact hlow _ hj

theorem find?_reverse_last {α : Type} {p : α → Bool} {pre post : List α} {a : α} (ha : p a = true)
    (hpost : ∀ b ∈ post, p b = false) : (pre ++ a :: post).reverse.find? p = some a := by
  have hnone : post.reverse.find? p = none := by
    rw [List.find?_eq_none]
    intro b hb
    rw [hpost b (List.mem_reverse.1 hb)]
    nofun
  rw [List.reverse_append, List.reverse_cons, List.append_assoc, List.find?_append, hnone, Option.none_or,
    List.singleton_append, List.find?_cons_of_pos ha]

/-! ### A key's profile (R121, R125) -/

/-- A record holds the profile of a key (R121). -/
def Holds (key : Key) (s : State) (r : Rec) : Prop := s.pfs.recs[r].state ≠ .empty ∧ s.pfs.recs[r].key = some key

theorem holds_iff : Holds key s r ↔ (s.pfs.recs[r].state != .empty && s.pfs.recs[r].key == some key) = true := by
  rw [Holds, Bool.and_eq_true, bne_iff_ne, beq_iff_eq]

theorem findProfile_lowest (h : Holds key s r) (hlow : ∀ q : Rec, q < r → ¬ Holds key s q) :
    findProfile key s = some r :=
  find?_finRange (holds_iff.1 h) fun q hq => Bool.eq_false_iff.2 (mt holds_iff.2 (hlow q hq))

theorem findProfile_unheld (h : ∀ r, ¬ Holds key s r) : findProfile key s = none :=
  List.find?_eq_none.2 fun q _ => mt holds_iff.2 (h q)

theorem findValid_iff : findValid key s = some r ↔ findProfile key s = some r ∧ s.pfs.recs[r].state = .valid := by
  rw [findValid, Option.filter_eq_some_iff, beq_iff_eq]

theorem boundChanOf_iff (c : Chan) : boundChanOf key s = some c ↔
    ∃ r, findProfile key s = some r ∧ s.pfs.recs[r].boundChan = some c := by
  rw [boundChanOf, Option.bind_eq_some_iff]

theorem loadSource_iff : loadSource key s = true ↔ ∃ j ∈ s.jobs, j.kind = .load ∧ j.key = key := by
  simp only [loadSource, List.any_eq_true, Bool.and_eq_true, beq_iff_eq]

/-! ### The record for a new key (R124) -/

theorem evictable_iff : evictable s r = true ↔
    ∃ key, s.pfs.recs[r].key = some key ∧ s.pfs.recs[r].desc.pinned = false ∧ s.pfs.recs[r].boundChan = none ∧
      loadSource key s = false ∧
      ∀ (k : Ctl) (l : Lock), s.locks[k] = some l → l.active = true → l.obj ≠ .profile key := by
  unfold evictable
  cases hkey : s.pfs.recs[r].key with
  | none => simp [hkey, -Fin.getElem_fin]
  | some key =>
    simp only [hkey, Bool.and_eq_true, Bool.not_eq_true', Option.isNone_iff_eq_none, lockedByAny_false_iff,
      Option.some.injEq, exists_eq_left']
    tauto

theorem recordFor_empty (h : s.pfs.recs[r].state = .empty) (hlow : ∀ q : Rec, q < r → s.pfs.recs[q].state ≠ .empty) :
    recordFor s = some r := by
  have hfirst : ((List.finRange 64).find? fun r => s.pfs.recs[r].state == .empty) = some r :=
    find?_finRange (beq_iff_eq.2 h) fun q hq => beq_eq_false_iff_ne.2 (hlow q hq)
  rw [recordFor, hfirst]
  rfl

theorem recordFor_full (h : ∀ r : Rec, s.pfs.recs[r].state ≠ .empty) :
    recordFor s = s.pfs.recency.reverse.find? (evictable s) := by
  have hnone : ((List.finRange 64).find? fun r => s.pfs.recs[r].state == .empty) = none :=
    List.find?_eq_none.2 fun q _ => mt beq_iff_eq.1 (h q)
  rw [recordFor, hnone]
  rfl

theorem recordFor_evicts (h : ∀ r : Rec, s.pfs.recs[r].state ≠ .empty) {pre post : List Rec}
    (hlist : s.pfs.recency = pre ++ r :: post) (hr : evictable s r = true)
    (hpost : ∀ q ∈ post, ¬ evictable s q = true) : recordFor s = some r := by
  rw [recordFor_full h, hlist]
  exact find?_reverse_last hr fun q hq => Bool.eq_false_iff.2 (hpost q hq)

theorem recordFor_none (h : ∀ r : Rec, s.pfs.recs[r].state ≠ .empty)
    (hnone : ∀ r ∈ s.pfs.recency, ¬ evictable s r = true) : recordFor s = none := by
  rw [recordFor_full h, List.find?_eq_none]
  exact fun q hq => hnone q (List.mem_reverse.1 hq)

/-! ### The descriptor's ranges and its chunks (R137) -/

theorem exponentOk_iff (e : Option Nat) : exponentOk e = true ↔ ∀ n, e = some n → n ≤ 31 := by
  cases e with
  | none => exact ⟨fun _ _ => nofun, fun _ => rfl⟩
  | some m => simp [exponentOk]

theorem descriptor_inRange_iff (d : Descriptor) : d.inRange = true ↔
    (1 ≤ d.near ∧ d.near ≤ 8) ∧ d.farHint ≤ 16 ∧ d.bulkHint ≤ 5120 ∧ d.mainTap ≤ 31 ∧ (1 ≤ d.lag ∧ d.lag ≤ 8) ∧
      d.best ≤ 240 ∧ ∀ e ∈ [d.aEchoTrain, d.aEchoTrack, d.aEqTrain, d.aEqTrack], ∀ n, e = some n → n ≤ 31 := by
  simp only [Descriptor.inRange, Bool.and_eq_true, decide_eq_true_iff, exponentOk_iff, List.forall_mem_cons,
    List.not_mem_nil, false_implies, implies_true, and_true]
  tauto

theorem namedChunks_word {near : Nat} (h : near ≤ 8) (eq : Bool) :
    (namedChunks near eq).setWidth 16 = word (2 ^ near - 1 + if eq then 256 else 0) := by
  have hall : ∀ (n : Fin 9) (b : Bool),
      (namedChunks n.val b).setWidth 16 = word (2 ^ n.val - 1 + if b then 256 else 0) := by decide
  exact hall ⟨near, by omega⟩ eq

theorem namedChunks_bit {near i : Nat} (h : near ≤ 8) (eq : Bool) (hi : i < 9) :
    (namedChunks near eq).getLsbD i = (decide (i < near ∧ i < 8) || (decide (i = 8) && eq)) := by
  have hall : ∀ (n i : Fin 9) (b : Bool), (namedChunks n.val b).getLsbD i.val =
      (decide (i.val < n.val ∧ i.val < 8) || (decide (i.val = 8) && b)) := by decide
  exact hall ⟨near, by omega⟩ ⟨i, hi⟩ eq

end Sys2Proof.Machine
end

section
/-! STORE PROFILE: the order of its refusals, and the fill it begins (R129, R136, R137, R149). -/

namespace Sys2Proof.Machine

variable {rq : Request} {s t : State} {key : Key} {r : Rec} {c : Chan} {l : Lock}

/-! ### The form, the ranges and the lock step (R136, R149) -/

/-- The form of a STORE PROFILE (R136, R148): a BEGIN of nine words, with no reserved flag set. -/
def Request.storeForm (rq : Request) : Prop := rq.length = 9 ∧ rq.marker = .begin ∧ rq.num 2 < 64

theorem storeForm_iff (rq : Request) : rq.storeForm ↔
    (rq.length == 9 && rq.marker == .begin && decide (rq.num 2 < 64)) = true := by
  rw [Request.storeForm, Bool.and_eq_true, Bool.and_eq_true, beq_iff_eq, beq_iff_eq, decide_eq_true_iff, and_assoc]

/-- The ranges of a STORE PROFILE (R136, R137). -/
def Request.storeRange (rq : Request) : Prop := rq.key ≠ 0 ∧ (rq.descriptor 2).inRange = true

theorem storeRange_iff (rq : Request) : ¬ rq.storeRange ↔ (rq.key == 0 || !(rq.descriptor 2).inRange) = true := by
  rw [Request.storeRange, Bool.or_eq_true, beq_iff_eq, Bool.not_eq_true', ← Bool.not_eq_true]
  tauto

/-- No other controller locks the profile of the request, or holds the channel bound to it (R149 step 3). -/
def FreeElsewhere (rq : Request) (s : State) : Prop :=
  NoOtherLock rq.ctl (.profile rq.key) s ∧ ∀ c, boundChanOf rq.key s = some c → NoOtherHold rq.ctl c s

theorem freeElsewhere_iff : FreeElsewhere rq s ↔ lockedByOther rq.ctl (.profile rq.key) s = false ∧
    ((boundChanOf rq.key s).any fun c => heldByOther rq.ctl c s) = false := by
  simp only [FreeElsewhere, noOtherLock_iff, noOtherHold_iff]
  cases boundChanOf rq.key s <;> simp

theorem profileObjCheck_free (h : FreeElsewhere rq s) : profileObjCheck false rq s = none := by
  obtain ⟨hlock, hhold⟩ := freeElsewhere_iff.1 h
  simp only [profileObjCheck, firstFail_cons, hlock, hhold, Bool.false_and, firstFail_nil, Bool.false_eq_true, if_false]

theorem profileObjCheck_elsewhere (h : ¬ FreeElsewhere rq s) (reads : Bool) :
    profileObjCheck reads rq s = some (retry .locked) := by
  rw [freeElsewhere_iff, not_and_or, Bool.not_eq_false, Bool.not_eq_false] at h
  rw [profileObjCheck, firstFail_cons, firstFail_cons]
  rcases h with h | h
  · rw [if_pos h]
  · rw [if_pos h, ite_self]

theorem ownStoreProfile_badForm (h : ¬ rq.storeForm) : ownStoreProfile rq s = (s, refused .badRequest) :=
  lockedRequest_first (by rw [Bool.not_eq_true', ← Bool.not_eq_true, ← storeForm_iff]; exact h) _ _ _ _

theorem ownStoreProfile_outOfRange (hf : rq.storeForm) (h : ¬ rq.storeRange) :
    ownStoreProfile rq s = (s, refused .outOfRange) :=
  lockedRequest_second (by rw [Bool.not_eq_false', ← storeForm_iff]; exact hf) ((storeRange_iff rq).1 h) _ _ _ _ _

theorem storeProfile_early (hf : rq.storeForm) (hr : rq.storeRange) : firstFail
    [ (!(rq.length == 9 && rq.marker == .begin && decide (rq.num 2 < 64)), refused .badRequest),
      (rq.key == 0 || !(rq.descriptor 2).inRange, refused .outOfRange) ] = none := by
  have hrange : (rq.key == 0 || !(rq.descriptor 2).inRange) = false :=
    Bool.eq_false_iff.2 fun h => (storeRange_iff rq).2 h hr
  rw [firstFail_cons, firstFail_cons, (storeForm_iff rq).1 hf, hrange]
  rfl

theorem ownStoreProfile_lockHeld (hf : rq.storeForm) (hr : rq.storeRange) (hl : s.locks[rq.ctl] = some l)
    (ha : l.active = true) : ownStoreProfile rq s = (s, refused .lockHeld) :=
  lockedRequest_stopped (storeProfile_early hf hr) (lockStep_begin_active hf.2.1 hl ha) _

/-- The requester has no ACTIVE lock of its own (R149 step 2). -/
def NoOwnLock (rq : Request) (s : State) : Prop := ∀ l, s.locks[rq.ctl] = some l → l.active = false

theorem ownStoreProfile_elsewhere (hf : rq.storeForm) (hr : rq.storeRange) (hidle : NoOwnLock rq s)
    (h : ¬ FreeElsewhere rq s) : ownStoreProfile rq s = (unbroken rq s, retry .locked) :=
  lockedRequest_stopped (storeProfile_early hf hr)
    (by rw [lockStep_begin_idle hf.2.1 hidle, profileObjCheck_elsewhere h]) _

theorem ownStoreProfile_passes (hf : rq.storeForm) (hr : rq.storeRange) (hidle : NoOwnLock rq s)
    (h : FreeElsewhere rq s) : ownStoreProfile rq s = storeProfile rq (unbroken rq s) :=
  lockedRequest_pass (storeProfile_early hf hr) (by rw [lockStep_begin_idle hf.2.1 hidle, profileObjCheck_free h])

/-! ### STORE PROFILE after the lock step (R137) -/

theorem findProfile_pfs (h : t.pfs = s.pfs) (key : Key) : findProfile key t = findProfile key s := by
  rw [findProfile, findProfile, h]

theorem loadSource_jobs (h : t.jobs = s.jobs) (key : Key) : loadSource key t = loadSource key s := by
  rw [loadSource, loadSource, h]

theorem storeProfile_loading (h : loadSource rq.key s = true) : storeProfile rq s = (s, retry .inTransfer) :=
  if_pos h

theorem storeProfile_full (h : loadSource rq.key s = false) (hf : findProfile rq.key s = none)
    (hr : recordFor s = none) : storeProfile rq s = (s, refused .storeFull) := by
  rw [storeProfile, if_neg (by rw [h]; nofun), hf, hr]
  rfl

theorem storeProfile_fills (h : loadSource rq.key s = false)
    (hr : findProfile rq.key s = some r ∨ findProfile rq.key s = none ∧ recordFor s = some r) : storeProfile rq s =
      (markerEffect rq (.profile rq.key) .fill none (beginFill r rq.key (rq.descriptor 2) s),
        done [(namedChunks (rq.descriptor 2).near (rq.descriptor 2).eq).setWidth 16]) := by
  have hfound : (findProfile rq.key s <|> recordFor s) = some r := by
    rcases hr with hf | ⟨hf, hr⟩
    · rw [hf]
      rfl
    · rw [hf, hr]
      rfl
  rw [storeProfile, if_neg (by rw [h]; nofun), hfound]

/-! ### The record of a fill (R129, R137) -/

theorem placeFill_eq (r : Rec) (key : Key) (d : Descriptor) (s : State) : placeFill r key d s = { s with
    pfs := { recs := s.pfs.recs.set r (filledRecord key d), recency := s.pfs.recency.filter (· != r) } } := rfl

theorem beginFill_unbound (h : s.pfs.recs[r].key = some key → s.pfs.recs[r].boundChan = none) (d : Descriptor) :
    beginFill r key d s = placeFill r key d s := by
  have hnone : (if s.pfs.recs[r].key = some key then s.pfs.recs[r].boundChan else none) = none := by
    split
    · exact h ‹_›
    · rfl
  rw [beginFill, hnone]

theorem beginFill_bound (hk : s.pfs.recs[r].key = some key) (hb : s.pfs.recs[r].boundChan = some c) (d : Descriptor) :
    beginFill r key d s = if s.chans[c].state = .releasing then recheck (placeFill r key d (invalidate c key s))
      else placeFill r key d (invalidate c key s) := by
  rw [beginFill, if_pos hk, hb]

theorem beginFill_serving (hk : s.pfs.recs[r].key = some key) (hb : s.pfs.recs[r].boundChan = some c)
    (hc : s.chans[c].state ≠ .releasing) (d : Descriptor) : beginFill r key d s = placeFill r key d
      (s.setChan c { s.chans[c] with bound := none, load := none, relation := .none }) := by
  rw [beginFill_bound hk hb, if_neg hc, invalidate_serving hc]

theorem beginFill_releasing (hk : s.pfs.recs[r].key = some key) (hb : s.pfs.recs[r].boundChan = some c)
    (hc : s.chans[c].state = .releasing) (d : Descriptor) :
    beginFill r key d s = recheck (placeFill r key d (invalidate c key s)) := by
  rw [beginFill_bound hk hb, if_pos hc]

/-! ### The channel in RELEASING that loses its save (R129) -/

theorem invalidate_btl (c : Chan) (key : Key) (s : State) : (invalidate c key s).btl = s.btl := by
  by_cases hc : s.chans[c].state = .releasing
  · rw [invalidate_releasing hc]
    simp
  · rw [invalidate_serving hc]
    rfl

theorem invalidate_recency (c : Chan) (key : Key) (s : State) :
    (invalidate c key s).pfs.recency = s.pfs.recency := by
  by_cases hc : s.chans[c].state = .releasing
  · rw [invalidate_releasing hc, enterFree_recency]
    simp
  · rw [invalidate_serving hc]
    rfl

theorem invalidate_releasing_state (hc : s.chans[c].state = .releasing) (key : Key) :
    (invalidate c key s).chans[c].state = .free := by
  rw [invalidate_releasing hc, enterFree_chans, getElem_set_same]
  rfl

theorem invalidate_releasing_jobs (hc : s.chans[c].state = .releasing) (key : Key) :
    (invalidate c key s).jobs = s.jobs.filter fun j => j.chan != c := by
  rw [invalidate_releasing hc, (enterFree_keeps _ _).1, (completeRelease_keeps _ _ _ _ _).2.2.2.1]
  rfl

/-- Its RELEASE completes NOT_SAVED, superseded (R89, R129). -/
theorem invalidate_releasing_cbi (hc : s.chans[c].state = .releasing) (key : Key) {k : Ctl} {g : Tag}
    (ho : s.chans[c].owner = some k) (hg : s.chans[c].bindLink = some g) : (invalidate c key s).cbi =
      (postOutcome k g .notSaved ([word c.val, 1] ++ keyWords (some key)) s).cbi := by
  rw [invalidate_releasing hc, (enterFree_keeps _ _).2.1, completeRelease, State.modChan_cbi, State.setChan_chans,
    getElem_set_same]
  refine (postLink_cbi_congr (s := s) ?_ ?_).trans ?_
  · rw [State.setChan_chans, getElem_set_same]
  · rfl
  · rw [postLink_some ho hg]
    rfl

end Sys2Proof.Machine
end

section
/-! The fill that a STORE PROFILE begins, whole; the chunks a STORE PROFILE TAPS writes; DROP PROFILE (R129, R137, R138,
R141). -/

namespace Sys2Proof.Machine

variable {rq : Request} {s t : State} {key : Key} {r : Rec} {c : Chan} {l : Lock}

/-! ### The lock of a fill (R137, R149) -/

/-- The lock under which a fill stands (R137). -/
def fillLock (rq : Request) (s : State) : Lock :=
  { obj := .profile rq.key, purpose := .fill, active := true, last := s.btl.timebase, held := none }

/-- A STORE PROFILE as R137 accepts it, on a record for its key. -/
structure Fills (rq : Request) (r : Rec) (s : State) : Prop where
  form : rq.storeForm
  range : rq.storeRange
  idle : NoOwnLock rq s
  free : FreeElsewhere rq s
  settled : loadSource rq.key s = false
  found : findProfile rq.key s = some r ∨ findProfile rq.key s = none ∧ recordFor (unbroken rq s) = some r

theorem unbroken_begin (hm : rq.marker = .begin) (s : State) :
    unbroken rq s = { s with locks := s.locks.set rq.ctl none } := if_pos hm

theorem unbroken_findProfile (key : Key) : findProfile key (unbroken rq s) = findProfile key s :=
  findProfile_pfs (unbroken_keeps rq s).2.1 key

theorem unbroken_loadSource (key : Key) : loadSource key (unbroken rq s) = loadSource key s :=
  loadSource_jobs (unbroken_keeps rq s).2.2.1 key

theorem ownStoreProfile_loading (hf : rq.storeForm) (hr : rq.storeRange) (hidle : NoOwnLock rq s)
    (h : FreeElsewhere rq s) (hload : loadSource rq.key s = true) :
    ownStoreProfile rq s = (unbroken rq s, retry .inTransfer) := by
  rw [ownStoreProfile_passes hf hr hidle h, storeProfile_loading]
  rw [unbroken_loadSource, hload]

theorem ownStoreProfile_full (hf : rq.storeForm) (hr : rq.storeRange) (hidle : NoOwnLock rq s)
    (h : FreeElsewhere rq s) (hload : loadSource rq.key s = false) (hnone : findProfile rq.key s = none)
    (hfull : recordFor (unbroken rq s) = none) :
    ownStoreProfile rq s = (unbroken rq s, refused .storeFull) := by
  rw [ownStoreProfile_passes hf hr hidle h, storeProfile_full]
  · rw [unbroken_loadSource, hload]
  · rw [unbroken_findProfile, hnone]
  · exact hfull

/-- The chunk mask answered to a STORE PROFILE (R137). -/
def fillMask (d : Descriptor) : Word := word (2 ^ d.near - 1 + if d.eq then 256 else 0)

theorem Fills.answer (h : Fills rq r s) : ownStoreProfile rq s =
    (markerEffect rq (.profile rq.key) .fill none (beginFill r rq.key (rq.descriptor 2) (unbroken rq s)),
      done [fillMask (rq.descriptor 2)]) := by
  have hnear : (rq.descriptor 2).near ≤ 8 := ((descriptor_inRange_iff _).1 h.range.2).1.2
  rw [ownStoreProfile_passes h.form h.range h.idle h.free, storeProfile_fills (r := r), namedChunks_word hnear,
    fillMask]
  · rw [unbroken_loadSource, h.settled]
  · rw [unbroken_findProfile]
    exact h.found

/-- The new lock takes the place of the broken entry that the BEGIN has discarded (R148). -/
theorem begin_unbroken (hm : rq.marker = .begin) (hl : t.locks = (unbroken rq s).locks) (hb : t.btl = s.btl) :
    markerEffect rq (.profile rq.key) .fill none t = { t with locks := s.locks.set rq.ctl (some (fillLock rq s)) } := by
  rw [markerEffect_begun hm, State.setLock, hl, hb, unbroken_begin hm, Vector.set_set]
  rfl

/-! ### The record taken, by the channel it is bound to (R129) -/

/-- The profile store once a fill has taken a record (R137). -/
def filledPfs (rq : Request) (r : Rec) (s : State) : Pfs :=
  { recs := s.pfs.recs.set r (filledRecord rq.key (rq.descriptor 2)), recency := s.pfs.recency.filter (· != r) }

theorem Fills.unbound (h : Fills rq r s) (hb : s.pfs.recs[r].key = some rq.key → s.pfs.recs[r].boundChan = none) :
    ownStoreProfile rq s = ({ s with
      pfs := filledPfs rq r s, locks := s.locks.set rq.ctl (some (fillLock rq s)) },
      done [fillMask (rq.descriptor 2)]) := by
  have hm := h.form.2.1
  obtain ⟨-, hpfs, -, -, hbtl, -⟩ := unbroken_keeps rq s
  rw [h.answer, beginFill_unbound (by rwa [hpfs]), begin_unbroken hm]
  · rw [placeFill_eq, unbroken_begin hm, filledPfs]
  · rfl
  · exact hbtl

theorem Fills.serving (h : Fills rq r s) (hk : s.pfs.recs[r].key = some rq.key)
    (hb : s.pfs.recs[r].boundChan = some c) (hc : s.chans[c].state ≠ .releasing) : ownStoreProfile rq s = ({ s with
      pfs := filledPfs rq r s, locks := s.locks.set rq.ctl (some (fillLock rq s))
      chans := s.chans.set c { s.chans[c] with bound := none, load := none, relation := .none } },
      done [fillMask (rq.descriptor 2)]) := by
  have hm := h.form.2.1
  obtain ⟨hchans, hpfs, -, -, hbtl, -⟩ := unbroken_keeps rq s
  rw [h.answer, beginFill_serving (by rwa [hpfs]) (by rwa [hpfs]) (by rwa [hchans]), begin_unbroken hm]
  · rw [placeFill_eq, unbroken_begin hm, filledPfs]
    rfl
  · rfl
  · exact hbtl

/-- The fill on the record of a channel in RELEASING, before the returned units are granted (R113, R129). -/
def supersededFill (rq : Request) (r : Rec) (c : Chan) (s : State) : State :=
  placeFill r rq.key (rq.descriptor 2) (invalidate c rq.key (unbroken rq s))

theorem supersededFill_recency : (supersededFill rq r c s).pfs.recency = s.pfs.recency.filter (· != r) := by
  rw [supersededFill, placeFill_eq, invalidate_recency, (unbroken_keeps rq s).2.1]

theorem supersededFill_state (hc : s.chans[c].state = .releasing) :
    (supersededFill rq r c s).chans[c].state = .free := by
  rw [supersededFill, placeFill_eq]
  exact invalidate_releasing_state (by rwa [(unbroken_keeps rq s).1]) _

theorem supersededFill_jobs (hc : s.chans[c].state = .releasing) :
    (supersededFill rq r c s).jobs = s.jobs.filter fun j => j.chan != c := by
  rw [supersededFill, placeFill_eq]
  dsimp only
  rw [invalidate_releasing_jobs (by rwa [(unbroken_keeps rq s).1]), (unbroken_keeps rq s).2.2.1]

theorem supersededFill_cbi (hc : s.chans[c].state = .releasing) {k : Ctl} {g : Tag} (ho : s.chans[c].owner = some k)
    (hg : s.chans[c].bindLink = some g) : (supersededFill rq r c s).cbi =
      (postOutcome k g .notSaved ([word c.val, 1] ++ keyWords (some rq.key)) s).cbi := by
  obtain ⟨hchans, -, -, hcbi, -⟩ := unbroken_keeps rq s
  rw [supersededFill, placeFill_eq]
  dsimp only
  rw [invalidate_releasing_cbi (by rwa [hchans]) _ (by rwa [hchans]) (by rwa [hchans]), postOutcome, postOutcome, hcbi]
  rfl

theorem Fills.releasing (h : Fills rq r s) (hk : s.pfs.recs[r].key = some rq.key)
    (hb : s.pfs.recs[r].boundChan = some c) (hc : s.chans[c].state = .releasing) : ownStoreProfile rq s =
      ({ recheck (supersededFill rq r c s) with
          locks := (supersededFill rq r c s).locks.set rq.ctl (some (fillLock rq s)) },
        done [fillMask (rq.descriptor 2)]) := by
  obtain ⟨hchans, hpfs, -, -, hbtl, -⟩ := unbroken_keeps rq s
  obtain ⟨-, hlocks, -, htime, -⟩ := recheck_keeps (supersededFill rq r c s)
  have hsame : (supersededFill rq r c s).btl = s.btl := (invalidate_btl _ _ _).trans hbtl
  rw [h.answer, beginFill_releasing (by rwa [hpfs]) (by rwa [hpfs]) (by rwa [hchans]), markerEffect_begun h.form.2.1,
    ← supersededFill, State.setLock, hlocks, show (recheck (supersededFill rq r c s)).btl.timebase = s.btl.timebase by
      rw [htime, hsame], fillLock]

/-! ### STORE PROFILE TAPS: the form, the ranges and the lock step (R136, R150) -/

/-- The ranges of a STORE PROFILE TAPS (R136, R138). -/
def Request.fillRange (rq : Request) : Prop := rq.key ≠ 0 ∧ rq.num 2 ≤ 8

theorem storeTaps_early (hf : rq.fillForm) (hr : rq.fillRange) : firstFail
    [ (!((rq.length == 35 && (rq.marker == .continue || rq.marker == .ending))
          || (rq.length == 3 && rq.marker == .ending)), refused .badRequest),
      (rq.key == 0 || decide (8 < rq.num 2), refused .outOfRange) ] = none := by
  have hrange : (rq.key == 0 || decide (8 < rq.num 2)) = false := by
    rw [← Bool.not_eq_true, ← keyOrChunk_iff, not_or, not_lt]
    exact hr
  rw [firstFail_cons, firstFail_cons, (fillForm_iff rq).1 hf, hrange]
  rfl

theorem Request.fillForm.marker (h : rq.fillForm) : rq.marker = .continue ∨ rq.marker = .ending := by
  rcases h with ⟨-, hm⟩ | ⟨-, hm⟩
  · exact hm
  · exact .inr hm

theorem ownStoreProfileTaps_unlocked (hf : rq.fillForm) (hr : rq.fillRange) (hl : s.locks[rq.ctl] = none) :
    ownStoreProfileTaps rq s = (s, refused .notLocked) :=
  lockedRequest_stopped (storeTaps_early hf hr) (lockStep_unlocked hf.marker hl) _

theorem ownStoreProfileTaps_broken (hf : rq.fillForm) (hr : rq.fillRange) (hl : s.locks[rq.ctl] = some l)
    (ha : l.active = false) :
    ownStoreProfileTaps rq s = ({ s with locks := s.locks.set rq.ctl none }, refused .lockBroken) :=
  lockedRequest_stopped (storeTaps_early hf hr) (lockStep_broken hf.marker hl ha) _

theorem ownStoreProfileTaps_mismatch (hf : rq.fillForm) (hr : rq.fillRange) (hl : s.locks[rq.ctl] = some l)
    (ha : l.active = true) (ho : l.obj ≠ .profile rq.key ∨ l.purpose = .profileRead) :
    ownStoreProfileTaps rq s = (s, refused .lockHeld) :=
  lockedRequest_stopped (storeTaps_early hf hr)
    (lockStep_mismatch (mismatch := fun l => l.purpose == .profileRead) hf.marker hl ha (ho.imp_right beq_iff_eq.2)) _

theorem ownStoreProfileTaps_own (hf : rq.fillForm) (hr : rq.fillRange) (hl : s.locks[rq.ctl] = some l)
    (ha : l.active = true) (ho : l.obj = .profile rq.key) (hp : l.purpose ≠ .profileRead) :
    ownStoreProfileTaps rq s = storeTaps rq s :=
  lockedRequest_pass (storeTaps_early hf hr) (lockStep_own hf.marker hl ha ho (beq_eq_false_iff_ne.2 hp))

/-! ### The chunk written (R138) -/

/-- The descriptor names the chunk (section 7.1). -/
def namesChunk (d : Descriptor) (i : Nat) : Bool := decide (i < d.near ∧ i < 8) || (decide (i = 8) && d.eq)

theorem chunk_val (h : rq.num 2 ≤ 8) : rq.chunk.val = rq.num 2 := Nat.mod_eq_of_lt (by omega)

theorem clampedData_eq (h : rq.words.length = 35) : rq.clampedData 3 =
    (List.range 32).map fun j => if rq.word (3 + j) = 0x8000 then 0x8001 else rq.word (3 + j) := by
  refine List.ext_getElem (by simp [Request.clampedData, h]) fun j hj _ => ?_
  have hlt : 3 + j < rq.words.length := by
    simp [Request.clampedData] at hj
    omega
  simp [Request.clampedData, clampWord, Request.word, List.getElem?_eq_getElem hlt]

/-- The record a STORE PROFILE TAPS leaves (R138). -/
theorem writeChunk_eq (hf : rq.fillForm) (hr : rq.num 2 ≤ 8) (hw : rq.words.length = rq.length) (p : Profile) :
    writeChunk rq p = if rq.length = 3 then p else { p with
      chunks := p.chunks.set (Fin.ofNat 9 (rq.num 2))
        ((List.range 32).map fun j => if rq.word (3 + j) = 0x8000 then 0x8001 else rq.word (3 + j))
      written := p.written ||| (1#9 <<< rq.num 2) } := by
  rcases hf with ⟨hlen, -⟩ | ⟨hlen, -⟩
  · have hdata : rq.hasChunk = true := beq_iff_eq.2 hlen
    have hbit : 1#9 <<< rq.chunk.val = 1#9 <<< rq.num 2 := by rw [chunk_val hr]
    rw [writeChunk, if_pos hdata, if_neg (by omega), clampedData_eq (hw.trans hlen), hbit]
    rfl
  · have hdata : ¬ rq.hasChunk = true := mt beq_iff_eq.1 (by omega)
    rw [writeChunk, if_neg hdata, if_pos hlen]

theorem writeChunk_desc (rq : Request) (p : Profile) : (writeChunk rq p).desc = p.desc := by
  unfold writeChunk
  split <;> rfl

/-- The number of chunks that a fill has yet to write (R138). -/
theorem unwritten_eq {p : Profile} (h : p.desc.near ≤ 8) :
    unwritten p = ((List.range 9).filter fun j => namesChunk p.desc j && !p.written.getLsbD j).length := by
  rw [unwritten]
  congr 1
  refine List.filter_congr fun j hj => ?_
  rw [namedChunks_bit h _ (List.mem_range.1 hj), namesChunk]

/-! ### STORE PROFILE TAPS after the lock step (R138) -/

theorem storeTaps_unnamed (hf : findProfile rq.key s = some r)
    (hn : (namedChunks s.pfs.recs[r].desc.near s.pfs.recs[r].desc.eq).getLsbD rq.chunk.val = false) :
    storeTaps rq s = (s, refused .outOfRange) := by
  rw [storeTaps, hf]
  exact if_pos (by rw [hn, Bool.not_false])

theorem storeTaps_named (hf : findProfile rq.key s = some r)
    (hn : (namedChunks s.pfs.recs[r].desc.near s.pfs.recs[r].desc.eq).getLsbD rq.chunk.val = true) : storeTaps rq s =
      if rq.marker != .ending then
        (markerEffect rq (.profile rq.key) .fill none (s.setRec r (writeChunk rq s.pfs.recs[r])),
          done [word (unwritten (writeChunk rq s.pfs.recs[r]))])
      else if unwritten (writeChunk rq s.pfs.recs[r]) = 0 then
        (endLock rq.ctl (completeFill r (s.setRec r (writeChunk rq s.pfs.recs[r]))), done [])
      else (endLock rq.ctl (emptyRecord r (s.setRec r (writeChunk rq s.pfs.recs[r]))), refused .incomplete) := by
  rw [storeTaps, hf]
  exact if_neg (by rw [hn, Bool.not_true]; nofun)

/-! ### DROP PROFILE (R141) -/

theorem ownDropProfile_passes (hf : rq.plain 2 = true) (hk : rq.key ≠ 0) : ownDropProfile rq s = dropProfile rq s :=
  checked_pass _ _ s (by rw [firstFail_cons, firstFail_cons, hf, beq_eq_false_iff_ne.2 hk]; rfl)

theorem dropProfile_missing (hf : findProfile rq.key s = none) : dropProfile rq s = (s, refused .noProfile) := by
  rw [dropProfile, hf]

theorem dropProfile_found (hf : findProfile rq.key s = some r) : dropProfile rq s = checked
      [ (s.pfs.recs[r].boundChan.isSome || lockedByAny (.profile rq.key) s, refused .profileBusy),
        (loadSource rq.key s, retry .inTransfer) ] (fun s => (emptyRecord r s, done [])) s := by
  rw [dropProfile, hf]

theorem emptyRecord_unbound (h : s.pfs.recs[r].boundChan = none) : emptyRecord r s = { s with
    pfs := { recs := s.pfs.recs.set r emptyProfile, recency := s.pfs.recency.filter (· != r) } } := by
  rw [emptyRecord, h]
  rfl

theorem dropProfile_busy (hf : findProfile rq.key s = some r)
    (h : s.pfs.recs[r].boundChan ≠ none ∨ lockedByAny (.profile rq.key) s = true) :
    dropProfile rq s = (s, refused .profileBusy) := by
  have hbusy : (s.pfs.recs[r].boundChan.isSome || lockedByAny (.profile rq.key) s) = true := by
    rwa [Bool.or_eq_true, Option.isSome_iff_ne_none]
  rw [dropProfile_found hf]
  exact checked_fail _ _ s _ (by rw [firstFail_cons, hbusy]; rfl)

theorem dropProfile_loading (hf : findProfile rq.key s = some r) (hb : s.pfs.recs[r].boundChan = none)
    (hl : lockedByAny (.profile rq.key) s = false) (hload : loadSource rq.key s = true) :
    dropProfile rq s = (s, retry .inTransfer) := by
  rw [dropProfile_found hf]
  exact checked_fail _ _ s _ (by rw [firstFail_cons, firstFail_cons, hb, hl, hload]; rfl)

theorem dropProfile_empties (hf : findProfile rq.key s = some r) (hb : s.pfs.recs[r].boundChan = none)
    (hl : lockedByAny (.profile rq.key) s = false) (hload : loadSource rq.key s = false) :
    dropProfile rq s = ({ s with
      pfs := { recs := s.pfs.recs.set r emptyProfile, recency := s.pfs.recency.filter (· != r) } }, done []) := by
  rw [dropProfile_found hf, checked_pass, emptyRecord_unbound hb]
  rw [firstFail_cons, firstFail_cons, hb, hl, hload]
  rfl

theorem lockedByAny_iff (o : LockObj) (s : State) : lockedByAny o s = true ↔
    ∃ (k : Ctl) (l : Lock), s.locks[k] = some l ∧ l.active = true ∧ l.obj = o := by
  rw [← not_iff_not, Bool.not_eq_true, lockedByAny_false_iff]
  simp only [not_exists, not_and, ne_eq]

end Sys2Proof.Machine
end

section
/-! STORE PROFILE TAPS, whole: a chunk written under a CONTINUE, and what an END makes of the fill (R138). -/

namespace Sys2Proof.Machine

variable {rq : Request} {s : State} {r : Rec} {l : Lock} {q : Profile}

/-- The chunk of a STORE PROFILE TAPS is one its profile names, and `q` is the record with it written (R138). -/
structure WritesChunk (rq : Request) (r : Rec) (q : Profile) (s : State) : Prop where
  found : findProfile rq.key s = some r
  named : (namedChunks s.pfs.recs[r].desc.near s.pfs.recs[r].desc.eq).getLsbD rq.chunk.val = true
  written : writeChunk rq s.pfs.recs[r] = q

theorem WritesChunk.continues (h : WritesChunk rq r q s) (hm : rq.marker = .continue)
    (hl : s.locks[rq.ctl] = some l) : storeTaps rq s = ({ s with
      pfs := { s.pfs with recs := s.pfs.recs.set r q }
      locks := s.locks.set rq.ctl (some { l with last := s.btl.timebase }) }, done [word (unwritten q)]) := by
  rw [storeTaps_named h.found h.named, h.written, if_pos (by rw [hm]; rfl), markerEffect_renewed hm (l := l)]
  · rfl
  · exact hl

theorem WritesChunk.completes (h : WritesChunk rq r q s) (hm : rq.marker = .ending)
    (hl : s.locks[rq.ctl] = some l) (hall : unwritten q = 0) : storeTaps rq s = ({ s with
      pfs := { recs := s.pfs.recs.set r { q with state := .valid }, recency := r :: s.pfs.recency.filter (· != r) }
      locks := s.locks.set rq.ctl none, chans := chansUnheld l s }, done []) := by
  rw [storeTaps_named h.found h.named, h.written, if_neg (by rw [hm]; nofun), if_pos hall, completeFill_setRec,
    endLock_setPfs hl]
  rfl

theorem WritesChunk.drops (h : WritesChunk rq r q s) (hm : rq.marker = .ending) (hl : s.locks[rq.ctl] = some l)
    (hleft : unwritten q ≠ 0) (hb : s.pfs.recs[r].boundChan = none) : storeTaps rq s = ({ s with
      pfs := { recs := s.pfs.recs.set r emptyProfile, recency := s.pfs.recency.filter (· != r) }
      locks := s.locks.set rq.ctl none, chans := chansUnheld l s }, refused .incomplete) := by
  have hunbound : q.boundChan = none := by
    rw [← h.written, (writeChunk_keeps _ _).2.2, hb]
  rw [storeTaps_named h.found h.named, h.written, if_neg (by rw [hm]; nofun), if_neg hleft,
    emptyRecord_setRec hunbound, endLock_setPfs hl]

end Sys2Proof.Machine

open Sys2Proof Sys2Proof.Machine

/-- Settles O57, part by part of the statement: a fill begun, its refusals, the record it takes, the chunks it writes,
the lock step's refusals, what is looked up, the operands, and a profile dropped. -/
theorem fillsAndDropsOfProfiles : Obligations.FillsAndDropsOfProfiles := by
  refine ⟨fun rq r s h hlen hm hflags hkey hrange hidle hlock hhold hsettled hfound => ?_, fun rq s h => ?_,
    fun s => ?_, fun rq r l s h hkey hchunk hwords hform hl ha ho hp hf => ?_,
    fun rq s h hkey hchunk hform => ?_, fun key s => ?_, fun rq => ⟨rfl, rfl⟩, descriptor_inRange_iff,
    fun rq s h hform hkey => ?_⟩
  · have hfills : Fills rq r s :=
      ⟨⟨hlen, hm, hflags⟩, ⟨hkey, hrange⟩, hidle, ⟨hlock, hhold⟩, hsettled, hfound⟩
    refine ⟨fun hb => exec_answered h (hfills.unbound hb), fun c hk hb =>
      ⟨fun hc => exec_answered h (hfills.serving hk hb hc), fun hc =>
        ⟨supersededFill rq r c s, exec_answered h (hfills.releasing hk hb hc), placeFill_rec _ _ _ _,
          supersededFill_recency, supersededFill_state hc, supersededFill_jobs hc,
          fun k t ho hg => supersededFill_cbi hc ho hg⟩⟩⟩
  · refine ⟨fun hf => exec_answered h (ownStoreProfile_badForm hf),
      fun hf hr => exec_answered h (ownStoreProfile_outOfRange hf hr), ?_, fun hf hr hown => ?_⟩
    · rintro hf hr ⟨l, hl, ha⟩
      exact exec_answered h (ownStoreProfile_lockHeld hf hr hl ha)
    · have hidle : NoOwnLock rq s := fun l hl => Bool.eq_false_iff.2 fun ha => hown ⟨l, hl, ha⟩
      exact ⟨fun he => exec_answered h (ownStoreProfile_elsewhere hf hr hidle he),
        fun he hload => exec_answered h (ownStoreProfile_loading hf hr hidle (not_not.1 he) hload),
        fun he hload hnone hfull => exec_answered h (ownStoreProfile_full hf hr hidle (not_not.1 he) hload hnone hfull)⟩
  · exact ⟨fun r => recordFor_empty, fun hfull =>
      ⟨fun pre r post hlist hr hpost =>
        recordFor_evicts hfull hlist (evictable_iff.2 hr) fun q hq => mt evictable_iff.1 (hpost q hq),
        fun hnone => recordFor_none hfull fun q hq => mt evictable_iff.1 (hnone q hq)⟩⟩
  · intro p named i data q left held hnear
    have hown := ownStoreProfileTaps_own hform ⟨hkey, hchunk⟩ hl ha ho hp
    have hbit : (namedChunks p.desc.near p.desc.eq).getLsbD rq.chunk.val = named i := by
      rw [namedChunks_bit hnear _ rq.chunk.isLt, chunk_val hchunk]
    have hq : writeChunk rq p = q := writeChunk_eq hform hchunk hwords p
    have hdesc : q.desc = p.desc := by rw [← hq, writeChunk_desc]
    have hleft : unwritten q = left := by
      rw [unwritten_eq (by rwa [hdesc]), hdesc]
      rfl
    have hwrites (hn : named i = true) : WritesChunk rq r q s := ⟨hf, hbit.trans hn, hq⟩
    refine ⟨fun hn => exec_answered h (hown.trans (storeTaps_unnamed hf (hbit.trans hn))), fun hn hm => ?_,
      fun hn hm h0 => ?_, fun hn hm h0 hb => ?_⟩
    · rw [← hleft]
      exact exec_answered h (hown.trans ((hwrites hn).continues hm hl))
    · exact exec_answered h (hown.trans ((hwrites hn).completes hm hl (hleft.trans h0)))
    · exact exec_answered h (hown.trans ((hwrites hn).drops hm hl (hleft ▸ h0) hb))
  · exact ⟨fun hl => exec_answered h (ownStoreProfileTaps_unlocked hform ⟨hkey, hchunk⟩ hl), fun l hl =>
      ⟨fun ha => exec_answered h (ownStoreProfileTaps_broken hform ⟨hkey, hchunk⟩ hl ha),
        fun ha ho => exec_answered h (ownStoreProfileTaps_mismatch hform ⟨hkey, hchunk⟩ hl ha ho)⟩⟩
  · exact ⟨fun r => findProfile_lowest, findProfile_unheld, fun r => findValid_iff, boundChanOf_iff, loadSource_iff⟩
  · have hown := ownDropProfile_passes (s := s) hform hkey
    refine ⟨fun hnone => exec_answered h (hown.trans (dropProfile_missing hnone)), fun r hf => ?_⟩
    rw [← lockedByAny_iff]
    exact ⟨fun hbusy => exec_answered h (hown.trans (dropProfile_busy hf hbusy)),
      fun hb hl hload => exec_answered h (hown.trans (dropProfile_loading hf hb (Bool.eq_false_iff.2 hl) hload)),
      fun hb hl hload => exec_answered h (hown.trans (dropProfile_empties hf hb (Bool.eq_false_iff.2 hl) hload))⟩
end
